-- ==== Sys2Proof/Word.lean ====
section
/-! DEFINITION. Word.lean: the words the machine holds, and association lists (`Map`), the one shape in which
sparse architectural state is kept as plain data. -/

namespace Sys2Proof

/-- One byte of memory. -/
abbrev Byte := BitVec 8
/-- A 16-bit half. -/
abbrev Half := BitVec 16
/-- A 32-bit register or parcel (R29). -/
abbrev Word := BitVec 32
/-- A 64-bit register pair, address or counter (R31). -/
abbrev DWord := BitVec 64

/-- Plain sparse state: at most one entry per key when built by `Map.set` alone. -/
abbrev Map (κ α : Type) := List (κ × α)

namespace Map

/-- The value at `k`, if any. -/
def get? {κ α : Type} [DecidableEq κ] : Map κ α → κ → Option α
  | [], _ => none
  | (k', v) :: m, k => if k' = k then some v else get? m k

/-- Replace the entry at `k` in place, or append it. -/
def set {κ α : Type} [DecidableEq κ] : Map κ α → κ → α → Map κ α
  | [], k, v => [(k, v)]
  | (k', v') :: m, k, v => if k' = k then (k', v) :: m else (k', v') :: set m k v

/-- Remove every entry at `k`. -/
def del {κ α : Type} [DecidableEq κ] (m : Map κ α) (k : κ) : Map κ α :=
  m.filter fun e => decide (e.1 ≠ k)

/-- The value at `k`, or `d` where the map lists none. -/
def getD {κ α : Type} [DecidableEq κ] (m : Map κ α) (k : κ) (d : α) : α := (get? m k).getD d

/-- Set or remove. -/
def put {κ α : Type} [DecidableEq κ] (m : Map κ α) (k : κ) : Option α → Map κ α
  | some v => set m k v
  | none => del m k

/-- The keys, in order. -/
def keys {κ α : Type} (m : Map κ α) : List κ := m.map Prod.fst

end Map
end Sys2Proof
end

