-- ==== Sys2Proof/Syntax.lean ====
section
/-! DEFINITION. Syntax.lean: the syntax of the part. `Op` is one 96-bit instruction word (R24); `Instr` is one
step of the part, one constructor per row of spec/opcode_table.json (the 172 majors run inside the step CENSUS and
the steps that finish what a census began). -/

namespace Sys2Proof

/-- The TYP codes, in code order 0 to 15 (R43). -/
inductive Typ where
  | b32 | s32 | n32 | s64 | n64 | s16 | n16 | s8 | n8 | f32 | f16 | bf16 | e4m3 | e5m2 | mx4 | ds8
  deriving DecidableEq, Repr, Inhabited

/-- The majors of the opcode map (R45), in code order. ILLEGAL (0xFF) is no instruction (R46) and has no constructor. -/
inductive Maj where
  | iadd | isub | iadd3 | imul | imulh | imad | idiv | irem | imin | imax | iabs | ineg | iaddmin | iaddmax
  | isad | lea | and | or | xor | andn | not | shl | shr | sar | rol | fshl | bfx | bfi | popc | clz | ctz
  | brev | prmt | icmp | isel | mov | iext | pset | pmov | csrr | csrw | kmov | fadd | fsub | fmul | ffma
  | fmin | fmax | fabs | fneg | faddmin | fcmp | fsel | frnd | frcp | frsq | fsqrt | fex2 | flg2 | fsin
  | fcos | ftanh | fsigm | fclass | fscale | hadd2 | hmul2 | hfma2 | hmin2 | hmax2 | fdot4 | cvt | cvtp
  | cvt8 | unpk | mxq | mxdq | dsq | dsdq | lshf | lxch | lbcst | lvote | lball | lscan | lred | lmatch
  | lrdv | lcnt | bra | brx | call | callx | ret | exit | nop | yield | sleep | bpt | tfence | trap | tret
  | ld | st | lde | ste | pref | cctl | atom | acas | afadd | slacq | sltry | slrel | slbind | slunb | fence
  | bar | bara | gbar | winit | wexp | warr | wwait | wtest | wret | carve | malloc | mfree | mzero | mloop
  | mloops | mwait | mout | mren | mstat | msadl | mpass | mbind | mflag | sdef | sgath | sscat | sscadd
  | smerge | snz | sstat | dpush | dpop | dpeek | dcfg | drst | cpyw | cpyl | rbegin | rpres | rpresm | rend
  | rfail | rstat | tspawn | ttake | tjoin | tjwait | qpush | qpop | launch | bndset | bndget | perfr | perfc
  | errinj
  deriving DecidableEq, Repr, Inhabited

/-- The special registers, in code order from 0x140 (R117). -/
inductive SReg where
  | lane | slot | crew | cmask | peloton | core | cluster | die | wg | gang | launch | relaunch | kdi | nlane
  | rdepth | rtry | flags | farm | cycle | ctx
  deriving DecidableEq, Repr, Inhabited

/-- An operand code (R29). (log 38, DEDUCED) -/
inductive Opnd where
  | g (n : Fin 256)
  | p (n : Fin 16)
  | k (n : Fin 48)
  | sr (r : SReg)
  | m (n : Fin 16)
  | s (n : Fin 16)
  | f (n : Fin 32)
  | z
  | lit
  deriving DecidableEq, Repr, Inhabited

/-- The raw fields of an instruction word (R24). -/
structure Fields where
  maj : BitVec 8
  min : BitVec 6
  typ : BitVec 4
  fx : BitVec 10
  fy : BitVec 10
  fz : BitVec 10
  lit : BitVec 32
  grd : BitVec 5
  hnt : BitVec 11
  deriving DecidableEq, Repr, Inhabited

/-- A decoded instruction word: the fields of R24 with MAJ, TYP and the operands named. In format Q the third
source is the code in LIT[9:0] (R41). -/
structure Op where
  maj : Maj
  min : BitVec 6
  typ : Typ
  fx : Opnd
  fy : Opnd
  fz : Opnd
  lit : BitVec 32
  grd : BitVec 5
  hnt : BitVec 11
  deriving DecidableEq, Repr, Inhabited

/-- A lane, named by its workgroup instance and its %lane (R117). -/
structure LaneId where
  wg : Nat
  idx : Nat
  deriving DecidableEq, Repr, Inhabited

/-- A crew, named by its workgroup instance and its %crew (R117). -/
structure CrewId where
  wg : Nat
  crew : Nat
  deriving DecidableEq, Repr, Inhabited

/-- An access of a lane of another device to this device's memory (R232, R289): what reaches the home slice. -/
inductive DeviceAccess where
  | load (n : Nat)
  | store (bytes : List Byte)
  /-- an atomic: 0 to 8 an ATOM with that MIN, 9 ACAS, 10 AFADD (R248 to R250); does it return the old value? -/
  | atom (op : Nat) (typ : Typ) (a b : BitVec 64) (ret : Bool)
  /-- a request for a sluice (R281), exclusive or shared: an SLACQ, or with `try_` an SLTRY -/
  | acquire (excl try_ : Bool)
  /-- a release of a sluice (R282) -/
  | release (excl : Bool)
  /-- the waiting request for a sluice with a number is withdrawn (R403) -/
  | withdraw (id : Nat)
  deriving DecidableEq, Repr, Inhabited

/-- An access from outside: of the host to device memory over CXL.mem (R290), to its own memory (R231), to a headgate window (R334) or
to the control space through BAR2 (R426); or of another device of the domain (R289). (log 47, DESIGN CHOICE) -/
inductive HostAccess where
  /-- read `n` bytes of one line; `keep` says whether the host keeps a copy of it -/
  | read (addr n : Nat) (keep : Bool)
  /-- write bytes of one line -/
  | write (addr : Nat) (bytes : List Byte)
  /-- a write of the host to its own memory -/
  | own (addr : Nat) (bytes : List Byte)
  /-- a read of `n` bytes at an offset of a queue's headgate window -/
  | window (queue off n : Nat)
  /-- a read of `n` bytes at an offset of the control space -/
  | io (off n : Nat)
  /-- an access of device `dev` to bytes of one line -/
  | device (dev addr : Nat) (acc : DeviceAccess)
  deriving DecidableEq, Repr, Inhabited

/-- Where a soft error strikes (R402). -/
inductive ParitySite where
  /-- a g register of a lane -/
  | reg (lane : LaneId) (g : Nat)
  /-- a row of a tile of a core -/
  | row (core tile row : Nat)
  deriving DecidableEq, Repr, Inhabited

/-- Where a storage error strikes (R433): a line of device memory, in DRAM or its L2 slice, or a scratchpad byte's line, by memory key, or
its copy in the L1 of the cluster `l1`; `correctable` says whether ECC corrects it. -/
structure EccSite where
  line : Nat
  correctable : Bool
  l1 : Option Nat := none
  deriving DecidableEq, Repr, Inhabited

/-- A firmware image in one of the two slots that the boot ROM tries (R436): the bytes of its container (R85). -/
structure FwImage where
  file : List Byte
  deriving DecidableEq, Repr, Inhabited

/-- The three rings of a context (R297). -/
inductive Ring where
  | fault | error | completion
  deriving DecidableEq, Repr, Inhabited

/-- One step of the part: one constructor per row of spec/opcode_table.json. The arguments say which unit, lane or
request the step is of, and which of the outcomes that the spec leaves unspecified it takes (R5). (log 1, DESIGN CHOICE; log 47, DESIGN CHOICE) -/
inductive Instr where
  /-- CENSUS (R170) -/
  | census (port : Nat)
  /-- FETCH_LATCH_FILL (R167) -/
  | fetchLatchFill (lane : LaneId) (pick : List Nat) (ahead : Nat)
  /-- LONG_LATENCY_RESULT_WRITE (R37) -/
  | longLatencyResultWrite (lane : LaneId) (res : Nat)
  /-- COLLECTIVE_EXECUTE (R184) -/
  | collectiveExecute (crew : CrewId)
  /-- RENDEZVOUS_MISMATCH (R185) -/
  | rendezvousMismatch (crew : CrewId)
  /-- SLEEP_EXPIRY (R178) -/
  | sleepExpiry (lane : LaneId)
  /-- L2_REQUEST_ACCEPT (R261) -/
  | l2RequestAccept (req : Nat)
  /-- L2_FILL_ARRIVAL (R266) -/
  | l2FillArrival (slice line : Nat) (victim : Option Nat)
  /-- BACK_INVALIDATION_COMPLETE (R425) -/
  | backInvalidationComplete (line : Nat)
  /-- HOST_MEM_ACCESS (R290) -/
  | hostMemAccess (a : HostAccess)
  /-- MIGRATION_PIECE_START (R271) -/
  | migrationPieceStart (old new : Nat)
  /-- MIGRATION_PIECE_END (R271) -/
  | migrationPieceEnd (old : Nat) (done : Bool)
  /-- SOFT_REPAIR_START (R434) -/
  | softRepairStart (die chan row : Nat)
  /-- SOFT_REPAIR_END (R272) -/
  | softRepairEnd (die chan : Nat)
  /-- PATROL_SCRUB (R433) -/
  | patrolScrub (line count : Nat)
  /-- BANK_DRAIN_DONE (R257) -/
  | bankDrainDone (cluster bank : Nat)
  /-- FENCE_COMPLETE (R285) -/
  | fenceComplete (lane : LaneId)
  /-- SLUICE_REQUEST_ARRIVE (R281) -/
  | sluiceRequestArrive (req : Nat)
  /-- SLUICE_RELEASE_PERFORM (R282) -/
  | sluiceReleasePerform (rel : Nat)
  /-- WEIR_RETIRE (R379) -/
  | weirRetire (wg off : Nat)
  /-- BARRIER_UNREACHABLE (R383) -/
  | barrierUnreachable (gang : Bool) (id : Nat)
  /-- MATRIX_COMMAND_ACCEPT (R207) -/
  | matrixCommandAccept (core : Nat)
  /-- TILE_COMMAND_REACHED (R201) -/
  | tileCommandReached (core tile : Nat)
  /-- MATRIX_K_STEP (R193) -/
  | matrixKStep (core tile : Nat)
  /-- MOUT_ROW (R223) -/
  | moutRow (core tile : Nat)
  /-- DITCH_CONTROLLER_OP (R302) -/
  | ditchControllerOp (cluster op : Nat)
  /-- ENGINE_COMMAND_FIRE (R303) -/
  | engineCommandFire (cluster cmd : Nat)
  /-- ENGINE_ROW (R325) -/
  | engineRow (cluster cmd row : Nat)
  /-- ENGINE_COMMAND_COMPLETE (R317) -/
  | engineCommandComplete (cluster cmd : Nat)
  /-- ROLLBACK (R405) -/
  | rollback (lane : LaneId) (more : List LaneId)
  /-- GANG_KILL (R410) -/
  | gangKill (gang : Nat)
  /-- HEADGATE_WRITE (R334) -/
  | headgateWrite (queue off : Nat) (bytes : List Byte)
  /-- LAUNCH_ACCEPT (R336) -/
  | launchAccept (die : Nat) (queue : Option Nat)
  /-- LAUNCH_CONDITION_CHECK (R337) -/
  | launchConditionCheck (launch : Nat)
  /-- GANG_PLACE (R338) -/
  | gangPlace (launch cluster : Nat) (coreL stackL undoL : List Nat)
  /-- LAUNCH_COMPLETE (R339) -/
  | launchComplete (launch : Nat)
  /-- WORKGROUP_ACTIVATE (R341) -/
  | workgroupActivate (wg : Nat) (place : List (Nat × Nat))
  /-- QUANTUM_TICK (R342) -/
  | quantumTick (core : Nat) (place : List (Nat × Nat))
  /-- RING_RECORD_WRITE (R297) -/
  | ringRecordWrite (ctx : Nat) (ring : Ring)
  /-- CONTEXT_OPEN (R366) -/
  | contextOpen (ctx : Nat)
  /-- CONTEXT_CLOSE (R366) -/
  | contextClose (ctx : Nat)
  /-- CONTEXT_CI_WRITE (R298) -/
  | contextCiWrite (ctx : Nat) (ring : Ring) (ci : Word)
  /-- CONTEXT_FREE (R366) -/
  | contextFree (ctx : Nat)
  /-- FAULT_ANSWER_RETRY (R391) -/
  | faultAnswerRetry (ctx : Nat) (fid : Word) (amask : DWord)
  /-- FAULT_ANSWER_TRAP (R391) -/
  | faultAnswerTrap (ctx : Nat) (fid : Word) (amask : DWord)
  /-- FAULT_ANSWER_KILL (R391) -/
  | faultAnswerKill (ctx : Nat) (fid : Word) (amask : DWord)
  /-- FAULT_ANSWER_RESUMEAT (R391) -/
  | faultAnswerResumeat (ctx : Nat) (fid : Word) (amask : DWord) (rpc : DWord)
  /-- TRANSLATION_INVALIDATION (R361) -/
  | translationInvalidation (ctx : Nat) (start len : DWord)
  /-- INVALIDATION_COMPLETE (R430) -/
  | invalidationComplete (ctx : Nat)
  /-- PREEMPT_START (R399) -/
  | preemptStart (ctx : Nat) (t1 t2 : Half)
  /-- PREEMPT_RESUME (R399) -/
  | preemptResume (ctx : Nat)
  /-- PREEMPT_T1_EXPIRY (R400) -/
  | preemptT1Expiry (ctx : Nat)
  /-- PREEMPT_T2_EXPIRY (R401) -/
  | preemptT2Expiry (ctx : Nat)
  /-- QUANTUM_WRITE (R427) -/
  | quantumWrite (core : Nat) (v : Half)
  /-- CISTHW_WRITE (R427) -/
  | cisthwWrite (cluster : Nat) (v : Half)
  /-- WORK_QUEUE_CONFIG_WRITE (R429) -/
  | workQueueConfigWrite (queue : Nat) (v : BitVec 128)
  /-- ROUTE_WRITE (R431) -/
  | routeWrite (dev : Nat) (v : Word)
  /-- ATTESTATION_NONCE_WRITE (R437) -/
  | attestationNonceWrite (nonce : BitVec 256)
  /-- ATTESTATION_REPORT_READY (R437) -/
  | attestationReportReady
  /-- CONTROL_SPACE_WRITE (R427) -/
  | controlSpaceWrite (off : Nat) (bytes : List Byte)
  /-- FLIT_CRC_FAILURE (R431) -/
  | flitCrcFailure (link : Nat)
  /-- LINK_TRAINING_ATTEMPT (R431) -/
  | linkTrainingAttempt (link : Nat) (trained : Bool)
  /-- LINK_UP (R431) -/
  | linkUp (link : Nat)
  /-- REMOTE_ACCESS_TIMEOUT (R432) -/
  | remoteAccessTimeout (req : Nat)
  /-- POWER_PERIOD (R435) -/
  | powerPeriod (inlet fixed : Nat) (demand : List Nat)
  /-- DEVICE_RESET (R436) -/
  | deviceReset (primary secondary : Option FwImage)
  /-- PARITY_ERROR (R402) -/
  | parityError (site : ParitySite)
  /-- ECC_ERROR (R433) -/
  | eccError (site : EccSite)
  deriving DecidableEq, Repr, Inhabited

end Sys2Proof
end

