-- ==== Sys2Proof/Decode.lean ====
section
/-! DEFINITION. Decode.lean: the 96-bit instruction word. The fields (R24, R25), the codes of majors, types and
operands (R29, R43, R45), each entry's MIN and TYP sets, fixed values and operand kinds, the checks of R48 in their
order, the decoder, and after it the encoder. -/

namespace Sys2Proof

/-! ### Codes -/

/-- Code of a type (R43). -/
def Typ.code : Typ → Nat
  | .b32 => 0 | .s32 => 1 | .n32 => 2 | .s64 => 3 | .n64 => 4 | .s16 => 5 | .n16 => 6 | .s8 => 7 | .n8 => 8
  | .f32 => 9 | .f16 => 10 | .bf16 => 11 | .e4m3 => 12 | .e5m2 => 13 | .mx4 => 14 | .ds8 => 15

/-- The type of a code; every 4-bit code is one (R43). -/
def Typ.ofCode : Nat → Typ
  | 0 => .b32 | 1 => .s32 | 2 => .n32 | 3 => .s64 | 4 => .n64 | 5 => .s16 | 6 => .n16 | 7 => .s8 | 8 => .n8
  | 9 => .f32 | 10 => .f16 | 11 => .bf16 | 12 => .e4m3 | 13 => .e5m2 | 14 => .mx4 | _ => .ds8

/-- Formats (R41). -/
inductive Fmt where
  | t | q | m | b | e | s
  deriving DecidableEq, Repr, Inhabited

/-- Latency classes (R45). -/
inductive Lat where
  | s | l | n
  deriving DecidableEq, Repr, Inhabited

/-- The opcode map (R45): code, format and latency class of each major. -/
def Maj.info : Maj → Nat × Fmt × Lat
  | .iadd => (0x00, .t, .s)
  | .isub => (0x01, .t, .s)
  | .iadd3 => (0x02, .q, .s)
  | .imul => (0x03, .t, .s)
  | .imulh => (0x04, .t, .s)
  | .imad => (0x05, .q, .s)
  | .idiv => (0x06, .t, .l)
  | .irem => (0x07, .t, .l)
  | .imin => (0x08, .t, .s)
  | .imax => (0x09, .t, .s)
  | .iabs => (0x0A, .t, .s)
  | .ineg => (0x0B, .t, .s)
  | .iaddmin => (0x0C, .q, .s)
  | .iaddmax => (0x0D, .q, .s)
  | .isad => (0x0E, .q, .s)
  | .lea => (0x0F, .q, .s)
  | .and => (0x10, .t, .s)
  | .or => (0x11, .t, .s)
  | .xor => (0x12, .t, .s)
  | .andn => (0x13, .t, .s)
  | .not => (0x14, .t, .s)
  | .shl => (0x15, .t, .s)
  | .shr => (0x16, .t, .s)
  | .sar => (0x17, .t, .s)
  | .rol => (0x18, .t, .s)
  | .fshl => (0x19, .q, .s)
  | .bfx => (0x1A, .q, .s)
  | .bfi => (0x1B, .q, .s)
  | .popc => (0x1C, .t, .s)
  | .clz => (0x1D, .t, .s)
  | .ctz => (0x1E, .t, .s)
  | .brev => (0x1F, .t, .s)
  | .prmt => (0x20, .q, .s)
  | .icmp => (0x21, .t, .s)
  | .isel => (0x22, .q, .s)
  | .mov => (0x23, .t, .s)
  | .iext => (0x24, .t, .s)
  | .pset => (0x25, .t, .s)
  | .pmov => (0x26, .t, .s)
  | .csrr => (0x27, .s, .l)
  | .csrw => (0x28, .s, .n)
  | .kmov => (0x29, .t, .s)
  | .fadd => (0x30, .t, .s)
  | .fsub => (0x31, .t, .s)
  | .fmul => (0x32, .t, .s)
  | .ffma => (0x33, .q, .s)
  | .fmin => (0x34, .t, .s)
  | .fmax => (0x35, .t, .s)
  | .fabs => (0x36, .t, .s)
  | .fneg => (0x37, .t, .s)
  | .faddmin => (0x38, .q, .s)
  | .fcmp => (0x39, .t, .s)
  | .fsel => (0x3A, .q, .s)
  | .frnd => (0x3B, .t, .s)
  | .frcp => (0x3C, .t, .l)
  | .frsq => (0x3D, .t, .l)
  | .fsqrt => (0x3E, .t, .l)
  | .fex2 => (0x3F, .t, .l)
  | .flg2 => (0x40, .t, .l)
  | .fsin => (0x41, .t, .l)
  | .fcos => (0x42, .t, .l)
  | .ftanh => (0x43, .t, .l)
  | .fsigm => (0x44, .t, .l)
  | .fclass => (0x45, .t, .s)
  | .fscale => (0x46, .t, .s)
  | .hadd2 => (0x47, .t, .s)
  | .hmul2 => (0x48, .t, .s)
  | .hfma2 => (0x49, .q, .s)
  | .hmin2 => (0x4A, .t, .s)
  | .hmax2 => (0x4B, .t, .s)
  | .fdot4 => (0x4C, .q, .s)
  | .cvt => (0x50, .t, .s)
  | .cvtp => (0x51, .t, .s)
  | .cvt8 => (0x52, .t, .s)
  | .unpk => (0x53, .t, .s)
  | .mxq => (0x54, .t, .l)
  | .mxdq => (0x55, .t, .s)
  | .dsq => (0x56, .t, .l)
  | .dsdq => (0x57, .t, .s)
  | .lshf => (0x60, .e, .l)
  | .lxch => (0x61, .e, .l)
  | .lbcst => (0x62, .e, .l)
  | .lvote => (0x63, .e, .l)
  | .lball => (0x64, .e, .l)
  | .lscan => (0x65, .e, .l)
  | .lred => (0x66, .e, .l)
  | .lmatch => (0x67, .e, .l)
  | .lrdv => (0x68, .e, .l)
  | .lcnt => (0x69, .e, .l)
  | .bra => (0x70, .b, .n)
  | .brx => (0x71, .b, .n)
  | .call => (0x72, .b, .s)
  | .callx => (0x73, .b, .s)
  | .ret => (0x74, .b, .n)
  | .exit => (0x75, .s, .n)
  | .nop => (0x76, .s, .n)
  | .yield => (0x77, .s, .n)
  | .sleep => (0x78, .s, .n)
  | .bpt => (0x79, .s, .n)
  | .tfence => (0x7A, .s, .n)
  | .trap => (0x7B, .s, .n)
  | .tret => (0x7C, .s, .n)
  | .ld => (0x80, .m, .l)
  | .st => (0x81, .m, .n)
  | .lde => (0x82, .m, .l)
  | .ste => (0x83, .m, .n)
  | .pref => (0x84, .m, .n)
  | .cctl => (0x85, .m, .n)
  | .atom => (0x86, .m, .l)
  | .acas => (0x87, .m, .l)
  | .afadd => (0x88, .m, .l)
  | .slacq => (0x90, .m, .n)
  | .sltry => (0x91, .m, .l)
  | .slrel => (0x92, .m, .n)
  | .slbind => (0x93, .e, .n)
  | .slunb => (0x94, .e, .n)
  | .fence => (0x95, .s, .n)
  | .bar => (0x96, .s, .n)
  | .bara => (0x97, .s, .n)
  | .gbar => (0x98, .s, .n)
  | .winit => (0x99, .m, .n)
  | .wexp => (0x9A, .m, .n)
  | .warr => (0x9B, .m, .n)
  | .wwait => (0x9C, .m, .n)
  | .wtest => (0x9D, .m, .l)
  | .wret => (0x9E, .m, .n)
  | .carve => (0x9F, .e, .l)
  | .malloc => (0xA0, .e, .l)
  | .mfree => (0xA1, .e, .n)
  | .mzero => (0xA2, .e, .n)
  | .mloop => (0xA3, .e, .n)
  | .mloops => (0xA4, .e, .n)
  | .mwait => (0xA5, .e, .n)
  | .mout => (0xA6, .e, .n)
  | .mren => (0xA7, .e, .n)
  | .mstat => (0xA8, .e, .l)
  | .msadl => (0xA9, .e, .n)
  | .mpass => (0xAA, .e, .n)
  | .mbind => (0xAB, .e, .n)
  | .mflag => (0xAC, .e, .l)
  | .sdef => (0xB0, .e, .n)
  | .sgath => (0xB1, .e, .n)
  | .sscat => (0xB2, .e, .n)
  | .sscadd => (0xB3, .e, .n)
  | .smerge => (0xB4, .e, .n)
  | .snz => (0xB5, .e, .l)
  | .sstat => (0xB6, .e, .l)
  | .dpush => (0xB7, .e, .n)
  | .dpop => (0xB8, .e, .l)
  | .dpeek => (0xB9, .e, .l)
  | .dcfg => (0xBA, .e, .n)
  | .drst => (0xBB, .e, .n)
  | .cpyw => (0xBC, .e, .n)
  | .cpyl => (0xBD, .e, .n)
  | .rbegin => (0xC0, .e, .n)
  | .rpres => (0xC1, .e, .n)
  | .rpresm => (0xC2, .e, .n)
  | .rend => (0xC3, .s, .n)
  | .rfail => (0xC4, .s, .n)
  | .rstat => (0xC5, .e, .l)
  | .tspawn => (0xC8, .e, .l)
  | .ttake => (0xC9, .e, .l)
  | .tjoin => (0xCA, .e, .n)
  | .tjwait => (0xCB, .e, .n)
  | .qpush => (0xCC, .e, .l)
  | .qpop => (0xCD, .e, .l)
  | .launch => (0xCE, .e, .n)
  | .bndset => (0xD0, .e, .n)
  | .bndget => (0xD1, .e, .l)
  | .perfr => (0xD2, .s, .l)
  | .perfc => (0xD3, .s, .n)
  | .errinj => (0xD4, .e, .n)

/-- Code of a major. -/
def Maj.code (m : Maj) : Nat := m.info.1
/-- Format of a major. -/
def Maj.fmt (m : Maj) : Fmt := m.info.2.1
/-- Latency class of a major's register result. -/
def Maj.lat (m : Maj) : Lat := m.info.2.2

/-- The major of a code; the codes that the map does not list, and 0xFF, are none (R45 to R47). -/
def Maj.ofCode : Nat → Option Maj
  | 0x00 => some .iadd
  | 0x01 => some .isub
  | 0x02 => some .iadd3
  | 0x03 => some .imul
  | 0x04 => some .imulh
  | 0x05 => some .imad
  | 0x06 => some .idiv
  | 0x07 => some .irem
  | 0x08 => some .imin
  | 0x09 => some .imax
  | 0x0A => some .iabs
  | 0x0B => some .ineg
  | 0x0C => some .iaddmin
  | 0x0D => some .iaddmax
  | 0x0E => some .isad
  | 0x0F => some .lea
  | 0x10 => some .and
  | 0x11 => some .or
  | 0x12 => some .xor
  | 0x13 => some .andn
  | 0x14 => some .not
  | 0x15 => some .shl
  | 0x16 => some .shr
  | 0x17 => some .sar
  | 0x18 => some .rol
  | 0x19 => some .fshl
  | 0x1A => some .bfx
  | 0x1B => some .bfi
  | 0x1C => some .popc
  | 0x1D => some .clz
  | 0x1E => some .ctz
  | 0x1F => some .brev
  | 0x20 => some .prmt
  | 0x21 => some .icmp
  | 0x22 => some .isel
  | 0x23 => some .mov
  | 0x24 => some .iext
  | 0x25 => some .pset
  | 0x26 => some .pmov
  | 0x27 => some .csrr
  | 0x28 => some .csrw
  | 0x29 => some .kmov
  | 0x30 => some .fadd
  | 0x31 => some .fsub
  | 0x32 => some .fmul
  | 0x33 => some .ffma
  | 0x34 => some .fmin
  | 0x35 => some .fmax
  | 0x36 => some .fabs
  | 0x37 => some .fneg
  | 0x38 => some .faddmin
  | 0x39 => some .fcmp
  | 0x3A => some .fsel
  | 0x3B => some .frnd
  | 0x3C => some .frcp
  | 0x3D => some .frsq
  | 0x3E => some .fsqrt
  | 0x3F => some .fex2
  | 0x40 => some .flg2
  | 0x41 => some .fsin
  | 0x42 => some .fcos
  | 0x43 => some .ftanh
  | 0x44 => some .fsigm
  | 0x45 => some .fclass
  | 0x46 => some .fscale
  | 0x47 => some .hadd2
  | 0x48 => some .hmul2
  | 0x49 => some .hfma2
  | 0x4A => some .hmin2
  | 0x4B => some .hmax2
  | 0x4C => some .fdot4
  | 0x50 => some .cvt
  | 0x51 => some .cvtp
  | 0x52 => some .cvt8
  | 0x53 => some .unpk
  | 0x54 => some .mxq
  | 0x55 => some .mxdq
  | 0x56 => some .dsq
  | 0x57 => some .dsdq
  | 0x60 => some .lshf
  | 0x61 => some .lxch
  | 0x62 => some .lbcst
  | 0x63 => some .lvote
  | 0x64 => some .lball
  | 0x65 => some .lscan
  | 0x66 => some .lred
  | 0x67 => some .lmatch
  | 0x68 => some .lrdv
  | 0x69 => some .lcnt
  | 0x70 => some .bra
  | 0x71 => some .brx
  | 0x72 => some .call
  | 0x73 => some .callx
  | 0x74 => some .ret
  | 0x75 => some .exit
  | 0x76 => some .nop
  | 0x77 => some .yield
  | 0x78 => some .sleep
  | 0x79 => some .bpt
  | 0x7A => some .tfence
  | 0x7B => some .trap
  | 0x7C => some .tret
  | 0x80 => some .ld
  | 0x81 => some .st
  | 0x82 => some .lde
  | 0x83 => some .ste
  | 0x84 => some .pref
  | 0x85 => some .cctl
  | 0x86 => some .atom
  | 0x87 => some .acas
  | 0x88 => some .afadd
  | 0x90 => some .slacq
  | 0x91 => some .sltry
  | 0x92 => some .slrel
  | 0x93 => some .slbind
  | 0x94 => some .slunb
  | 0x95 => some .fence
  | 0x96 => some .bar
  | 0x97 => some .bara
  | 0x98 => some .gbar
  | 0x99 => some .winit
  | 0x9A => some .wexp
  | 0x9B => some .warr
  | 0x9C => some .wwait
  | 0x9D => some .wtest
  | 0x9E => some .wret
  | 0x9F => some .carve
  | 0xA0 => some .malloc
  | 0xA1 => some .mfree
  | 0xA2 => some .mzero
  | 0xA3 => some .mloop
  | 0xA4 => some .mloops
  | 0xA5 => some .mwait
  | 0xA6 => some .mout
  | 0xA7 => some .mren
  | 0xA8 => some .mstat
  | 0xA9 => some .msadl
  | 0xAA => some .mpass
  | 0xAB => some .mbind
  | 0xAC => some .mflag
  | 0xB0 => some .sdef
  | 0xB1 => some .sgath
  | 0xB2 => some .sscat
  | 0xB3 => some .sscadd
  | 0xB4 => some .smerge
  | 0xB5 => some .snz
  | 0xB6 => some .sstat
  | 0xB7 => some .dpush
  | 0xB8 => some .dpop
  | 0xB9 => some .dpeek
  | 0xBA => some .dcfg
  | 0xBB => some .drst
  | 0xBC => some .cpyw
  | 0xBD => some .cpyl
  | 0xC0 => some .rbegin
  | 0xC1 => some .rpres
  | 0xC2 => some .rpresm
  | 0xC3 => some .rend
  | 0xC4 => some .rfail
  | 0xC5 => some .rstat
  | 0xC8 => some .tspawn
  | 0xC9 => some .ttake
  | 0xCA => some .tjoin
  | 0xCB => some .tjwait
  | 0xCC => some .qpush
  | 0xCD => some .qpop
  | 0xCE => some .launch
  | 0xD0 => some .bndset
  | 0xD1 => some .bndget
  | 0xD2 => some .perfr
  | 0xD3 => some .perfc
  | 0xD4 => some .errinj
  | _ => none

/-- Code of a special register (R117). -/
def SReg.code : SReg → Nat
  | .lane => 0x140 | .slot => 0x141 | .crew => 0x142 | .cmask => 0x143 | .peloton => 0x144 | .core => 0x145
  | .cluster => 0x146 | .die => 0x147 | .wg => 0x148 | .gang => 0x149 | .launch => 0x14A | .relaunch => 0x14B
  | .kdi => 0x14C | .nlane => 0x14D | .rdepth => 0x14E | .rtry => 0x14F | .flags => 0x150 | .farm => 0x151
  | .cycle => 0x152 | .ctx => 0x153

/-- The special register of a code (R117). -/
def SReg.ofCode : Nat → Option SReg
  | 0x140 => some .lane | 0x141 => some .slot | 0x142 => some .crew | 0x143 => some .cmask
  | 0x144 => some .peloton | 0x145 => some .core | 0x146 => some .cluster | 0x147 => some .die
  | 0x148 => some .wg | 0x149 => some .gang | 0x14A => some .launch | 0x14B => some .relaunch
  | 0x14C => some .kdi | 0x14D => some .nlane | 0x14E => some .rdepth | 0x14F => some .rtry
  | 0x150 => some .flags | 0x151 => some .farm | 0x152 => some .cycle | 0x153 => some .ctx
  | _ => none

/-- The 64-bit special registers (R31). -/
def SReg.wide : SReg → Bool
  | .cmask => true
  | .cycle => true
  | _ => false

/-- Code of an operand (R29). -/
def Opnd.code : Opnd → Nat
  | .g n => n.val
  | .p n => 0x100 + n.val
  | .k n => 0x110 + n.val
  | .sr r => r.code
  | .m n => 0x180 + n.val
  | .s n => 0x190 + n.val
  | .f n => 0x1A0 + n.val
  | .z => 0x3FE
  | .lit => 0x3FF

/-- The operand of a code; reserved and unassigned codes are none (R29). -/
def Opnd.ofCode (c : Nat) : Option Opnd :=
  if h : c < 0x100 then some (.g ⟨c, h⟩)
  else if h : c - 0x100 < 16 then some (.p ⟨c - 0x100, h⟩)
  else if h : c - 0x110 < 48 then some (.k ⟨c - 0x110, h⟩)
  else if c < 0x180 then (SReg.ofCode c).map Opnd.sr
  else if h : c - 0x180 < 16 then some (.m ⟨c - 0x180, h⟩)
  else if h : c - 0x190 < 16 then some (.s ⟨c - 0x190, h⟩)
  else if h : c - 0x1A0 < 32 then some (.f ⟨c - 0x1A0, h⟩)
  else if c = 0x3FE then some .z
  else if c = 0x3FF then some .lit
  else none

/-- Cause code 0x08 (R389). -/
def causeIllegalInstruction : Nat := 0x08
/-- Cause code 0x09 (R389). -/
def causeIllegalOperand : Nat := 0x09

/-! ### Fields -/

/-- The fields of a word (R24). -/
def fieldsOf (w : BitVec 96) : Fields :=
  { maj := w.extractLsb' 88 8, min := w.extractLsb' 82 6, typ := w.extractLsb' 78 4, fx := w.extractLsb' 68 10,
    fy := w.extractLsb' 58 10, fz := w.extractLsb' 48 10, lit := w.extractLsb' 16 32, grd := w.extractLsb' 11 5,
    hnt := w.extractLsb' 0 11 }

/-- The word of fields (R24). -/
def packFields (f : Fields) : BitVec 96 :=
  f.maj ++ f.min ++ f.typ ++ f.fx ++ f.fy ++ f.fz ++ f.lit ++ f.grd ++ f.hnt

/-- The word of three parcels (R25). -/
def wordOfParcels (p0 p1 p2 : Word) : BitVec 96 := p2 ++ p1 ++ p0

/-- The parcels of a word (R25). -/
def parcelsOf (w : BitVec 96) : Word × Word × Word := (w.extractLsb' 0 32, w.extractLsb' 32 32, w.extractLsb' 64 32)

/-! ### Order 6: the MIN and TYP pairs that each entry defines -/

/-- The eight integer types (R129). -/
def Typ.isInt : Typ → Bool
  | .s32 | .n32 | .s64 | .n64 | .s16 | .n16 | .s8 | .n8 => true
  | _ => false

/-- The signed integer types. -/
def Typ.isSigned : Typ → Bool
  | .s32 | .s64 | .s16 | .s8 => true
  | _ => false

/-- The 64-bit types. -/
def Typ.is64 : Typ → Bool
  | .s64 | .n64 => true
  | _ => false

/-- The set W of R129. -/
def Typ.isW : Typ → Bool
  | .s32 | .n32 | .s64 | .n64 => true
  | _ => false

/-- S32 or N32. -/
def Typ.is32i : Typ → Bool
  | .s32 | .n32 => true
  | _ => false

/-- B32 or N64, as the logic majors take (R134). -/
def Typ.isBN : Typ → Bool
  | .b32 | .n64 => true
  | _ => false

/-- F16 or BF16. -/
def Typ.isHalf : Typ → Bool
  | .f16 | .bf16 => true
  | _ => false

/-- E4M3 or E5M2. -/
def Typ.isFp8 : Typ → Bool
  | .e4m3 | .e5m2 => true
  | _ => false

/-- The types that CVT converts (R160). -/
def Typ.isCvt (t : Typ) : Bool := t.isInt || t == .f32 || t.isHalf || t.isFp8

/-- R48 order 6: is the MIN and TYP pair defined in the instruction's entry? (log 38, DEDUCED) -/
def minTypOk (m : Maj) (mn : Nat) (t : Typ) : Bool :=
  match m with
  -- R129, R133
  | .iadd | .isub => decide (mn ≤ 1) && t.isInt
  | .iadd3 => mn == 0 && t.is32i
  | .imul => (decide (mn ≤ 1) && t.isInt) || (mn == 2 && t.is32i)
  | .imulh | .idiv | .irem => mn == 0 && t.isW
  | .imad => decide (mn ≤ 1) && t.is32i
  | .imin | .imax => mn == 0 && t.isInt
  | .iabs | .ineg => decide (mn ≤ 1) && t.isSigned
  | .iaddmin | .iaddmax => decide (mn ≤ 1) && (t == .s16 || t == .n16 || t.is32i)
  | .isad => mn == 0 && t.is32i
  | .lea => decide (mn ≤ 7) && t.is32i
  -- R134
  | .and | .or | .xor | .andn | .not | .rol | .popc | .clz | .ctz | .brev => mn == 0 && t.isBN
  | .shl | .shr => decide (mn ≤ 1) && t.isBN
  | .sar => decide (mn ≤ 1) && (t == .s32 || t == .s64)
  | .fshl | .bfi | .prmt => mn == 0 && t == .b32
  | .bfx => mn == 0 && t.is32i
  -- R138 to R145
  | .icmp => (decide (mn ≤ 5) && t.isInt) || (decide (mn ≤ 1) && t == .b32)
  | .isel => mn == 0 && t.isBN
  | .mov => mn == 0 && (t == .b32 || t.is64)
  | .iext => (t == .s8 || t == .n8 || t == .s16 || t == .n16) && decide (mn ≤ 1) || (t.is32i && mn == 1)
  | .pset => decide (mn ≤ 7) && t == .b32
  | .pmov => decide (mn ≤ 1) && t == .b32
  | .kmov => mn == 0 && t.isBN
  -- R148, R156, R158 to R166
  | .fadd | .fsub | .fmul | .ffma | .faddmin | .frnd | .fscale | .fsqrt => decide (mn ≤ 3) && t == .f32
  | .fmin | .fmax => decide (mn ≤ 1) && t == .f32
  | .fabs | .fneg | .fsel | .frcp | .frsq | .fex2 | .flg2 | .fsin | .fcos | .ftanh | .fsigm => mn == 0 && t == .f32
  | .fcmp => decide (mn ≤ 7) && (t == .f32 || t.isHalf)
  | .fclass => mn == 0 && (t == .f32 || t.isHalf)
  | .hadd2 | .hmul2 | .hfma2 | .cvtp => decide (mn ≤ 3) && t.isHalf
  | .hmin2 | .hmax2 => decide (mn ≤ 1) && t.isHalf
  | .fdot4 | .cvt8 => decide (mn ≤ 7) && t.isFp8
  | .cvt => (Typ.ofCode (mn / 4)).isCvt && t.isCvt
  | .unpk => (t.isHalf && decide (mn ≤ 1)) || ((t.isFp8 || t == .ds8) && decide (mn ≤ 3)) ||
      (t == .mx4 && decide (mn ≤ 7))
  | .mxq => t == .mx4 && (mn == 0 || (decide (4 ≤ mn) && decide (mn ≤ 7)))
  | .dsq => t == .ds8 && (mn == 0 || (decide (4 ≤ mn) && decide (mn ≤ 7)))
  | .mxdq | .dsdq => mn == 0 && (t == .f32 || t == .bf16)
  -- R186
  | .lshf => decide (mn ≤ 3) && t.isBN
  | .lxch | .lmatch => mn == 0 && t.isBN
  | .lbcst => decide (mn ≤ 1) && t.isBN
  | .lvote => decide (mn ≤ 2) && t == .b32
  | .lball | .lrdv => mn == 0 && t == .b32
  | .lscan => decide (mn ≤ 5) && (t.is32i || t == .f32)
  | .lred => (decide (mn ≤ 2) && (t.is32i || t == .f32)) || (decide (3 ≤ mn) && decide (mn ≤ 5) && t == .b32)
  | .lcnt => decide (mn ≤ 1) && t == .b32
  -- R240, R243 to R250
  | .ld | .st => (decide (mn ≤ 1) && (t.isInt || t == .b32)) || ((mn == 4 || mn == 5) && t == .b32)
  | .lde => decide (mn ≤ 1) && (t == .f32 || t == .bf16)
  | .ste => (decide (mn ≤ 1) || decide (32 ≤ mn)) && (t == .f32 || t == .bf16)
  | .pref => decide (mn ≤ 1) && t == .b32
  | .cctl => decide (mn ≤ 4) && t == .b32
  | .atom =>
    (decide (mn % 32 ≤ 2) && t.isW) || (decide (3 ≤ mn % 32) && decide (mn % 32 ≤ 6) && t.isBN) ||
      (decide (7 ≤ mn % 32) && decide (mn % 32 ≤ 8) && (t == .n32 || t == .n64))
  | .acas => mn % 32 == 0 && t.isBN
  | .afadd => mn % 32 == 0 && (t == .f32 || t.isHalf)
  -- R379, R384, R386, R387
  | .slacq | .sltry | .wtest => decide (mn ≤ 1) && t == .b32
  | .fence => decide (mn ≤ 6) && t == .b32
  | .carve => decide (mn ≤ 2) && t == .b32
  -- R210, R223
  | .mloops | .mbind | .mflag => decide (mn ≤ 1) && t == .b32
  | .mout => decide (mn ≤ 3) && t.isCvt
  | .mstat => decide (mn ≤ 4) && t == .b32
  -- R305, R307, R310, R313, R324, R326, R327, R329
  | .sgath => (mn == 0 && t == .b32) || (mn == 1 && (t == .f32 || t == .bf16))
  | .sscadd => mn == 0 && (t.is32i || t == .f32 || t.isHalf)
  | .smerge => decide (mn ≤ 1) && (t.is32i || t == .f32)
  | .snz => decide (mn ≤ 1) && (t == .b32 || t == .f32 || t.isHalf || (t.isInt && !t.is64))
  | .sstat | .dpush | .dpop | .dpeek => decide (mn ≤ 4) && t == .b32
  | .dcfg => decide (mn ≤ 1) && t == .b32
  -- R347, R414
  | .tspawn | .ttake | .qpush | .qpop | .bndget => decide (mn ≤ 1) && t == .b32
  | .rpres | .bndset | .errinj => decide (mn ≤ 2) && t == .b32
  | .rstat => decide (mn ≤ 5) && t == .b32
  -- MIN 0 and TYP 0 only
  | .csrr | .csrw | .bra | .brx | .call | .callx | .ret | .exit | .nop | .yield | .sleep | .bpt | .tfence | .trap
  | .tret | .slrel | .slbind | .slunb | .bar | .bara | .gbar | .winit | .wexp | .warr | .wwait | .wret | .malloc
  | .mfree | .mzero | .mloop | .mwait | .mren | .msadl | .mpass | .sdef | .sscat | .drst | .cpyw | .cpyl | .rbegin
  | .rpresm | .rend | .rfail | .tjoin | .tjwait | .launch | .perfr | .perfc => mn == 0 && t == .b32

/-! ### Operand kinds -/

/-- A kind of operand that a role may accept (R29 to R31). -/
inductive Kind where
  /-- g(n) with n a multiple of `align`, starting a group of `count` registers -/
  | g (align count : Nat)
  /-- p0 to p15 as a source -/
  | p
  /-- p1 to p15 as a destination -/
  | pd
  /-- k(n) with n a multiple of `align` -/
  | k (align : Nat)
  | sr32
  | sr64
  /-- %flags or %farm as a destination of MOV (R118) -/
  | srFlags
  | tile
  | stream
  | ditch
  | z
  | lit
  deriving DecidableEq, Repr, Inhabited

/-- The roles of FX, FY, FZ and the Q third source: the kinds each accepts. A role that accepts z alone is fixed to z. -/
structure Roles where
  fx : List Kind
  fy : List Kind
  fz : List Kind
  third : List Kind
  deriving DecidableEq, Repr, Inhabited

/-- Fixed to z (R42). -/
def rz : List Kind := [.z]
/-- Destination of 32 bits (R30). -/
def rd32 : List Kind := [.g 1 1, .z]
/-- Destination of 64 bits. -/
def rd64 : List Kind := [.g 2 2, .z]
/-- Destination of n bits. -/
def rd (w : Bool) : List Kind := if w then rd64 else rd32
/-- Destination that may be a predicate (R138). -/
def rdp : List Kind := [.g 1 1, .pd, .z]
/-- Source of formats Q, E and S (R30). -/
def rq (w : Bool) : List Kind := if w then [.g 2 2, .p, .k 2, .sr64, .z] else [.g 1 1, .p, .k 1, .sr32, .z]
/-- Source of format T, which may be the literal (R30). -/
def rt (w : Bool) : List Kind := rq w ++ [.lit]
/-- A g or k register. -/
def rgk : List Kind := [.g 1 1, .k 1]
/-- A g or k register, or z. -/
def rgkz : List Kind := [.g 1 1, .k 1, .z]
/-- A g or k pair. -/
def rpair : List Kind := [.g 2 2, .k 2]
/-- A g or k pair, or z: base of format M (R30). -/
def rbase : List Kind := [.g 2 2, .k 2, .z]
/-- A group of `n` registers starting at a multiple of `n`. -/
def rgrp (n : Nat) : List Kind := [.g n n]
/-- A ditch operand (R304). -/
def rditch : List Kind := [.ditch, .g 1 1]

/-- T format with one source. -/
def t1 (d s : List Kind) : Roles := ⟨d, s, rz, []⟩
/-- T format with two sources. -/
def t2 (d a b : List Kind) : Roles := ⟨d, a, b, []⟩
/-- M format. -/
def m1 (d : List Kind) : Roles := ⟨d, rbase, rgkz, []⟩
/-- Roles of formats B, E and S. -/
def e3 (x y z : List Kind) : Roles := ⟨x, y, z, []⟩

/-- CSR widths of 64 bits (R120): STKBASE and TPC. -/
def csr64 (c : Nat) : Bool := c == 0x1000 || c == 0x2000

/-- The kinds that each entry's roles accept. (log 62, DESIGN CHOICE) -/
def rolesOf (m : Maj) (f : Fields) : Roles :=
  let mn := f.min.toNat
  let t := Typ.ofCode f.typ.toNat
  let w := t.is64
  match m with
  | .iadd | .isub | .imulh | .imin | .imax | .idiv | .irem | .and | .or | .xor | .andn => t2 (rd w) (rt w) (rt w)
  | .imul => if mn == 2 then t2 rd64 (rt false) (rt false) else t2 (rd w) (rt w) (rt w)
  | .iadd3 | .iaddmin | .iaddmax | .isad | .fshl | .bfx | .bfi | .prmt =>
    ⟨rd32, rq false, rq false, rq false⟩
  | .imad => if mn == 1 then ⟨rd64, rq false, rq false, [.g 2 2, .k 2, .z]⟩ else ⟨rd32, rq false, rq false, rq false⟩
  | .iabs | .ineg | .not | .brev => t1 (rd w) (rt w)
  | .lea => ⟨rd64, rbase, rq false, rq false⟩
  | .shl | .shr | .sar | .rol => t2 (rd w) (rt w) (rt false)
  | .popc | .clz | .ctz => t1 rd32 (rt w)
  | .icmp => t2 rdp (rt w) (rt w)
  | .isel => ⟨rd w, rq w, rq w, rq false⟩
  | .mov => if w then t1 [.g 2 2] [.g 2 2, .k 2, .sr64, .z, .lit] else t1 [.g 1 1, .z, .srFlags] (rt false)
  | .iext => t1 (rd (mn == 1)) (rt false)
  | .pset => t2 rdp (rt false) (rt false)
  | .pmov => if mn == 0 then e3 [.g 1 1] rz rz else e3 rz (rt false) (rt false)
  | .csrr => e3 (if csr64 (f.lit.toNat % 65536) then [.g 2 2, .pd, .z] else rdp) rz rz
  | .csrw => e3 rz (if csr64 (f.lit.toNat % 65536) then [.g 2 2, .k 2, .z] else [.g 1 1, .p, .k 1, .z]) rz
  | .kmov => t1 (if w then [.k 2] else [.k 1]) (rt w)
  | .fadd | .fsub | .fmul | .fmin | .fmax | .fscale | .hadd2 | .hmul2 | .hmin2 | .hmax2 | .cvtp | .cvt8
  | .mxdq | .dsdq => t2 rd32 (rt false) (rt false)
  | .ffma | .faddmin | .fsel | .hfma2 | .fdot4 => ⟨rd32, rq false, rq false, rq false⟩
  | .fabs | .fneg | .frnd | .frcp | .frsq | .fsqrt | .fex2 | .flg2 | .fsin | .fcos | .ftanh | .fsigm | .unpk =>
    t1 rd32 (rt false)
  | .fcmp => t2 rdp (rt false) (rt false)
  | .fclass => if f.fx.toNat < 0x100 then t1 [.g 1 1] (rt false) else t2 [.pd, .z] (rt false) (rt false)
  | .cvt => t1 (rd w) (rt (Typ.ofCode (mn / 4)).is64)
  | .mxq | .dsq => if mn == 0 then t1 rd32 (rt false) else t2 rd32 (rt false) (rt false)
  | .lshf => e3 (rd w) (rq w) (if mn == 0 then rq false else rz)
  | .lxch => e3 (rd w) (rq w) (rq false)
  | .lbcst => e3 (rd w) (rq w) rz
  | .lvote => e3 rdp (rq false) rz
  | .lball => e3 rd64 (rq false) rz
  | .lscan | .lred | .lcnt => e3 rd32 (rq false) rz
  | .lmatch => e3 rd64 (rq w) rz
  | .lrdv => e3 rd32 rz rz
  | .bra => e3 rz rz rz
  | .brx | .ret => e3 rz rpair rz
  | .call => e3 [.g 2 2, .z] rz rz
  | .callx => e3 [.g 2 2, .z] rpair rz
  | .exit | .nop | .yield | .sleep | .bpt | .tfence | .trap | .tret | .fence | .bar | .bara | .gbar | .rend
  | .rfail | .msadl | .mpass => e3 rz rz rz
  | .ld | .st => m1 (if mn ≥ 4 then rgrp 4 else if w then rgrp 2 else rgrp 1)
  | .lde | .ste | .afadd => m1 (rgrp 1)
  | .pref | .slacq | .slrel | .warr | .wret => m1 rz
  | .cctl => if mn == 1 then e3 rz rz rz else m1 rz
  | .atom => m1 (if w then rgrp 2 else rgrp 1)
  | .acas => m1 (if w then rgrp 4 else rgrp 2)
  | .sltry => m1 rdp
  | .slbind => e3 rpair rpair rgk
  | .slunb => e3 rz rpair rz
  | .winit | .wexp => m1 rgk
  | .wwait => m1 rgkz
  | .wtest => m1 (if mn == 0 then rgrp 1 else rgrp 4)
  | .carve => e3 rd32 rgk rz
  | .malloc | .mflag => e3 rdp [.tile] rz
  | .mfree | .mzero | .mwait | .mren | .mbind => e3 [.tile] rz rz
  | .mloop => e3 [.tile] (rgrp 8) [.g 2 2, .z]
  | .mloops => e3 [.tile] (rgrp 8) (rgrp 2)
  | .mout => e3 [.tile] rpair rgkz
  | .mstat => e3 (if mn == 4 then rgrp 2 else rgrp 1) [.tile] rz
  | .sdef => e3 [.stream] (rgrp 8) rz
  | .sgath | .sscat | .sscadd => e3 [.stream] [.g 2 2, .z] rgkz
  | .smerge => e3 (rgrp 2) rditch rditch
  | .snz => e3 rd32 (rgrp 4) rgk
  | .sstat => e3 (rgrp 1) rditch rz
  | .dpush => e3 rditch (rgrp (2 ^ mn)) rz
  | .dpop | .dpeek => e3 (rgrp (2 ^ mn)) rditch [.pd, .z]
  | .dcfg | .drst => e3 rditch rz rz
  | .cpyw => e3 (rgrp 8) [.g 2 2, .z] rz
  | .cpyl => e3 (rgrp 2) rpair rgk
  | .rbegin => e3 rz rgkz rz
  | .rpres => if mn == 0 then e3 rz [.g 32 1] rz else if mn == 1 then e3 rz rz rz else e3 rz (rgrp 1) (rgrp 1)
  | .rpresm => e3 rz rpair rgk
  | .rstat => e3 (if mn == 5 then rgrp 2 else rgrp 1) rz rz
  | .bndset => e3 rz rpair rz
  | .bndget => e3 (if mn == 0 then rgrp 2 else rgrp 1) rz rz
  | .errinj => if mn == 0 then e3 rz rz rz else if mn == 1 then e3 [.tile] rz rgk else e3 (rgrp 1) rz rz
  | .perfr => e3 rd32 rgkz rz
  | .perfc => e3 rz rgkz rz
  | .tspawn => e3 rdp (rgrp 16) rz
  | .ttake => e3 (rgrp 16) rz [.pd, .z]
  | .tjoin | .tjwait => e3 rz rpair rz
  | .qpush => e3 rdp (rgrp 16) rgk
  | .qpop => e3 (rgrp 16) rgk [.pd, .z]
  | .launch => e3 rz (rgrp 16) rz

/-! ### Order 7: fixed values, LIT sub-fields and the guard rule -/

/-- Bits [hi:lo] of LIT. -/
def Fields.l (f : Fields) (hi lo : Nat) : Nat := f.lit.toNat / 2 ^ lo % 2 ^ (hi + 1 - lo)

/-- A field fixed to z fails order 7 when it holds any value other than z and 0x3FF (R42). -/
def fixedOk (r : List Kind) (c : BitVec 10) : Bool := r != rz || c == 0x3FE#10 || c == 0x3FF#10

/-- CSR codes (R120). -/
def csrListed (c : Nat) : Bool :=
  c == 0x1000 || c == 0x1001 || c == 0x2000 || c == 0x2001 || c == 0x3000 || c == 0x4000 || c == 0x5000 ||
    c == 0x6000 || c == 0x6001
/-- CSRs that CSRW may name (R120). -/
def csrWritable (c : Nat) : Bool := c == 0x2000 || c == 0x3000

/-- Counter codes (R374). -/
def perfListed (c : Nat) : Bool := c == 0x20 || c == 0x21 || c == 0x30 || c == 0x40 || (decide (0x130 ≤ c) && decide (c ≤ 0x135))
/-- Counters that PERFC may clear (R374). -/
def perfClearable (c : Nat) : Bool := c == 0x20 || c == 0x21 || c == 0x30 || (decide (0x132 ≤ c) && decide (c ≤ 0x135))

/-- The majors that R35 restricts to the guard p0. -/
def Maj.unguarded : Maj → Bool
  | .lshf | .lxch | .lbcst | .lvote | .lball | .lscan | .lred | .lmatch | .lrdv | .lcnt | .bar | .bara | .gbar
  | .cpyw => true
  | _ => false

/-- LIT as the entry requires it (R42 and the entries of formats B, E and S). -/
def litOk (m : Maj) (f : Fields) : Bool :=
  let mn := f.min.toNat
  match m.fmt with
  | .t => f.fy == 0x3FF#10 || f.fz == 0x3FF#10 || f.lit == 0
  | .q => f.l 31 10 == 0
  | .m => if m == .cctl && mn == 1 then f.lit == 0 else true
  | .b => match m with
    | .bra | .call => f.l 1 0 == 0
    | _ => f.lit == 0
  | .e | .s =>
    match m with
    | .csrr => f.l 31 16 == 0 && csrListed (f.l 15 0)
    | .csrw => f.l 31 16 == 0 && csrWritable (f.l 15 0)
    | .lshf => if mn == 0 then f.l 19 0 == 0 else f.l 19 6 == 0
    | .lbcst => if mn == 0 then f.l 19 0 == 0 else f.l 19 6 == 0
    | .lxch | .lvote | .lball | .lscan | .lred | .lmatch | .lrdv | .lcnt => f.l 19 0 == 0
    | .sleep => true
    | .bpt | .trap | .rfail => f.l 31 16 == 0
    | .bar | .bara => f.l 31 4 == 0
    | .gbar => f.l 31 2 == 0
    | .mloop | .mloops => f.l 31 12 == 0 && f.l 11 0 != 0
    | .mout => f.l 31 16 == 0 && (f.l 15 15 == 1 || f.l 14 11 == 0) && decide (1 ≤ f.l 10 5) &&
        decide (f.l 10 5 ≤ 32) && decide (f.l 4 0 + f.l 10 5 ≤ 32)
    | .mstat => f.l 31 10 == 0 && (mn == 4 || f.l 9 5 == 0) && (mn == 0 || mn == 3 || mn == 4 || f.l 4 0 == 0)
    | .sgath | .sscat | .sscadd => f.l 30 22 == 0 && (f.l 31 31 == 1 || f.l 21 0 == 0)
    | .smerge => f.l 31 9 == 0 && decide (f.l 8 6 ≤ 4) && (f.l 5 5 == 0 || f.l 4 0 == 0)
    | .snz => f.l 31 5 == 0 && (mn == 0 || f.l 4 0 == 0)
    | .dpop => f.l 31 1 == 0 && !(f.l 0 0 == 1 && f.fz == 0x3FE#10)
    | .dpeek => f.l 31 16 == 0
    | .dcfg => if mn == 0 then f.l 31 8 == 0 && decide (4 ≤ f.l 4 0) && decide (f.l 4 0 ≤ 16) && decide (f.l 7 5 ≤ 4)
        else f.lit == 0
    | .cpyl | .cpyw => f.l 29 22 == 0 && (f.l 31 30 != 0 || f.l 21 0 == 0)
    | .rbegin => f.l 1 0 == 0
    | .rpres => if mn == 0 then true else if mn == 1 then f.l 31 16 == 0 && f.l 0 0 == 0 else f.lit == 0
    | .rstat => if mn == 1 || mn == 2 || mn == 5 then f.l 31 3 == 0 else f.lit == 0
    | .bndset | .bndget => f.l 31 4 == 0
    | .errinj => if mn == 0 then f.l 31 16 == 0 else if mn == 1 then f.l 31 6 == 0 else f.lit == 0
    | .ttake | .qpop => f.lit == 0 && !(mn == 1 && f.fz == 0x3FE#10)
    | .perfr => f.l 31 16 == 0 && perfListed (f.l 15 0)
    | .perfc => f.l 31 16 == 0 && perfClearable (f.l 15 0)
    | _ => f.lit == 0

/-- R48 order 7. -/
def fixedValuesOk (m : Maj) (f : Fields) : Bool :=
  let r := rolesOf m f
  fixedOk r.fx f.fx && fixedOk r.fy f.fy && fixedOk r.fz f.fz && litOk m f && (!m.unguarded || f.grd == 0)

/-! ### Order 9: operand kinds -/

/-- Is register g(n) outside the allocation of a kernel whose descriptor field REGS is `regs` (R124)? -/
def regHidden (regs n : Nat) : Bool := decide (8 * regs ≤ n + 4) && decide (n ≤ 251)

/-- Does an operand meet a kind, for a kernel with REGS `regs`? -/
def kindOk (regs : Nat) (o : Opnd) (k : Kind) : Bool :=
  match k, o with
  | .g a c, .g n => n.val % a == 0 && (List.range c).all fun i => !regHidden regs (n.val + i)
  | .p, .p _ => true
  | .pd, .p n => n.val != 0
  | .k a, .k n => n.val % a == 0
  | .sr32, .sr r => !r.wide
  | .sr64, .sr r => r.wide
  | .srFlags, .sr r => r == .flags || r == .farm
  | .tile, .m _ => true
  | .stream, .s _ => true
  | .ditch, .f _ => true
  | .z, .z => true
  | .lit, .lit => true
  | _, _ => false

/-- Does an operand meet one of a role's kinds? -/
def roleOk (regs : Nat) (r : List Kind) (o : Opnd) : Bool := r.any (kindOk regs o)

/-- The registers that RPRES names beyond its operands are inside the allocation, and a range does not run backward
(R416). -/
def rpresOk (regs : Nat) (f : Fields) : Bool :=
  let y := f.fy.toNat
  let z := f.fz.toNat
  match f.min.toNat with
  | 0 => (List.range 32).all fun i => !(f.lit.getLsbD i && regHidden regs (y + i))
  | 2 => decide (y ≤ z) && (List.range (z + 1 - y)).all fun i => !regHidden regs (y + i)
  | _ => true

/-- The operand of the Q third source, LIT[9:0] (R41). -/
def Fields.third (f : Fields) : Option Opnd := Opnd.ofCode (f.l 9 0)

/-- R48 orders 8 and 9 on operands already named. -/
def operandsOk (m : Maj) (f : Fields) (regs : Nat) (x y z : Opnd) : Bool :=
  let r := rolesOf m f
  roleOk regs r.fx x && roleOk regs r.fy y && roleOk regs r.fz z &&
    (m.fmt != .q || (match f.third with | some c => roleOk regs r.third c | none => false)) &&
    (m != .rpres || rpresOk regs f)

/-! ### The decoder -/

/-- Decode a word for a lane whose kernel gives REGS `regs`: orders 5 to 9 of R48, the first failing check deciding
the cause. -/
def decode (regs : Nat) (w : BitVec 96) : Except Nat Op :=
  let f := fieldsOf w
  match Maj.ofCode f.maj.toNat with
  | none => .error causeIllegalInstruction
  | some m =>
    if !minTypOk m f.min.toNat (Typ.ofCode f.typ.toNat) then .error causeIllegalInstruction
    else if !fixedValuesOk m f then .error causeIllegalInstruction
    else
      match Opnd.ofCode f.fx.toNat, Opnd.ofCode f.fy.toNat, Opnd.ofCode f.fz.toNat with
      | some x, some y, some z =>
        if !operandsOk m f regs x y z then .error causeIllegalOperand
        else .ok { maj := m, min := f.min, typ := Typ.ofCode f.typ.toNat, fx := x, fy := y, fz := z, lit := f.lit,
                   grd := f.grd, hnt := f.hnt }
      | _, _, _ => .error causeIllegalOperand

/-! ### The encoder -/

/-- The fields of an instruction. -/
def Op.fields (o : Op) : Fields :=
  { maj := BitVec.ofNat 8 o.maj.code, min := o.min, typ := BitVec.ofNat 4 o.typ.code,
    fx := BitVec.ofNat 10 o.fx.code, fy := BitVec.ofNat 10 o.fy.code, fz := BitVec.ofNat 10 o.fz.code,
    lit := o.lit, grd := o.grd, hnt := o.hnt }

/-- The word of an instruction (R24). -/
def encode (o : Op) : BitVec 96 := packFields o.fields

/-- The Q third source of an instruction; z in other formats. -/
def Op.third (o : Op) : Opnd := (Opnd.ofCode (o.lit.toNat % 1024)).getD .z

/-- Bits [hi:lo] of an instruction's LIT. -/
def Op.l (o : Op) (hi lo : Nat) : Nat := o.lit.toNat / 2 ^ lo % 2 ^ (hi + 1 - lo)

/-- The wait marker W (R36). -/
def Op.w (o : Op) : Bool := o.hnt.getLsbD 10
/-- The cache hint CH (R36). -/
def Op.ch (o : Op) : BitVec 2 := o.hnt.extractLsb' 6 2
/-- The block priority BP (R36). -/
def Op.bp (o : Op) : Nat := o.hnt.toNat % 64

/-- The census class key (R44). -/
def Op.key (o : Op) : Nat := o.maj.code * 1024 + o.min.toNat * 16 + o.typ.code

/-- The step that runs an instruction word: a word that decodes (with the full allocation of 256 registers) is issued
by a census, so the step read from it is the CENSUS of port 0; the opcode table gives its rows no bits. (log 2, DEDUCED) -/
def decodeTableWord (nbits w : Nat) : Option Instr :=
  if nbits = 96 then
    match decode 32 (BitVec.ofNat 96 w) with
    | .ok _ => some (.census 0)
    | .error _ => none
  else none

end Sys2Proof
end

