-- ==== Sys2Proof/Config.lean ====
section
/-! DEFINITION. Config.lean: the free values, which no proof can see. -/

namespace Sys2Proof

/-- The step that comes next when none is scheduled, and the cycles that pass before it, as a function of the step
number: the spec fixes no schedule of the part's agents. (log 1, DESIGN CHOICE) -/
opaque Config.freeStep : Nat → Nat × Instr

/-- A choice that the spec leaves unspecified among a set of outcomes (R5): a number for each step number and each
choice made within the step. (log 5, DESIGN CHOICE) -/
opaque Config.pick : Nat → Nat → Nat

/-- The boot ROM's own code (R437). (log 8, DESIGN CHOICE) -/
opaque Config.romCode : List Byte

/-- The signature of a message under the device's Ed25519 identity key, or under its ML-DSA-65 one when the first argument is true: their
secret is fused (R437). (log 8, DESIGN CHOICE) -/
opaque Config.signs : Bool → List Byte → List Byte

/-- The module's serial number (R428). (log 8, DESIGN CHOICE) -/
opaque Config.serial : BitVec 64
/-- The encoded public keys of the device's two identity key pairs (R437): Ed25519, ML-DSA-65. (log 8, DESIGN CHOICE) -/
opaque Config.identityKeys : List Byte × List Byte
/-- The encoded public keys of the two roots whose identifiers are fused in the boot ROM (R436): Ed25519, ML-DSA-65.
(log 8, DESIGN CHOICE) -/
opaque Config.rootKeys : List Byte × List Byte

/-- The row of its channel in which a line of DRAM lies (R268, R269: not visible). (log 8, DESIGN CHOICE) -/
opaque Config.rowOf : Nat → Nat

/-- The ways of a set of an L2 slice, as a power of 2 that divides its 65,536 lines, and the set of a line (R260, R264: not visible). (log 52, DESIGN CHOICE) -/
opaque Config.l2Ways : Nat
/-- The set of a line. (log 52, DESIGN CHOICE) -/
opaque Config.l2Set : Nat → Nat

/-- The order in which the arbiter removes the cycles of a block of 64, as a key for each cluster and cycle (R435). (log 24, DEDUCED) -/
opaque Config.cutKey : Nat → Nat → Nat

/-- Has another device retired the frame of a memory key, at a step (R362)? What other devices do is no state of this one.
(log 19, DEDUCED) -/
opaque Config.frameRetired : Nat → Nat → Bool

end Sys2Proof
end

