-- ==== Sys2Proof/Machine/State.lean ====
section
/-! DEFINITION. Machine/State.lean: the state of the part as plain data, and its value after reset. Every piece of
state that spec/ names stands here; INVENTORY.md lists each with its rule and its reset value. -/

namespace Sys2Proof.Machine

open Sys2Proof

/-! ### Where accesses lead -/

/-- The home agent of a line (R238, R259): an L2 slice, a scratchpad's bank in a cluster, a remote device, the host. -/
inductive Home where
  | slice (n : Nat)
  | bank (cluster : Nat)
  | remote (dev : Nat)
  | host
  deriving DecidableEq, Repr, Inhabited

/-- Where an address leads: memory key, home agent, element format, rights (R232). -/
structure Loc where
  key : Nat
  home : Home
  typ : Typ
  soff : Int
  rd : Bool
  wr : Bool
  ex : Bool
  cache : Bool
  /-- scratchpad: workgroup instance and offset -/
  scratch : Option (Nat × Nat)
  deriving DecidableEq, Repr, Inhabited

/-- Who a line request is for, where it is for no lane (R261, R276, R328): a command of a matrix unit or of a cluster's engines, named
by its core or cluster and its number, a host, or another device. -/
inductive UnitRef where
  | matrix (core cmd : Nat)
  /-- `slot` is 0 for its stores and for arrays that it reads from end to end, and k + 1 for its row k -/
  | engine (cluster cmd slot : Nat)
  /-- a host, over CXL.mem (R290): does it keep a copy of what it reads? -/
  | host (keep : Bool)
  /-- another device of the domain, over Kiltus links (R266, R289) -/
  | device (dev : Nat)
  deriving DecidableEq, Repr, Inhabited

/-- Bytes that line requests of a command have brought, by line, with the first cycle in which they are there (R262). -/
abbrev Fetched := Map Nat (List Byte × Nat)

/-! ### Lanes -/

/-- A detected error (R402): its source 1 to 7, its code field, and the PC of the lane when it was taken. -/
structure DetErr where
  source : Nat
  code : Nat
  pc : DWord
  deriving DecidableEq, Repr, Inhabited

/-- A long-latency result that is outstanding (R37). `vals` is `none` until the value is known; then it lists operand
codes (R29) with the words to write. `readyAt` is the first cycle in which it may be written. -/
structure Result where
  id : Nat
  vals : Option (List (Nat × Word))
  flags : BitVec 7
  err : Option DetErr
  readyAt : Nat
  /-- the request whose slice queue entry this result's reply holds, if any (R261) -/
  req : Option Nat
  /-- registers, by operand code, that have been written since it became outstanding (R37) -/
  late : List Nat := []
  /-- its instruction writes z, so that it does not count as outstanding (R45) -/
  silent : Bool := false
  deriving DecidableEq, Repr, Inhabited

/-- An entry of a lane's hold list (R280): the sluice's address, its memory key, whether it is held exclusively, and its home agent. -/
structure Hold where
  va : DWord
  key : Nat
  excl : Bool
  home : Home := .host
  deriving DecidableEq, Repr, Inhabited

/-- A region record (R369). `cmdMark` is the lane's command count when the region opened (R405, R418). -/
structure Region where
  restart : DWord
  rlim : BitVec 8
  rtry : Half
  umark : Nat
  tiles : BitVec 16
  cmdMark : Nat
  deriving DecidableEq, Repr, Inhabited

/-- A collective at which a lane is parked, with the sources it read at issue (R184, R186). -/
structure Coll where
  op : Op
  a : DWord
  b : DWord
  /-- LRDV: requests to be performed first (R188) -/
  after : List Nat
  res : Option Nat
  deriving DecidableEq, Repr, Inhabited

/-- What a lane in the wait park waits for (R168). -/
inductive WaitFor where
  /-- every outstanding long-latency result (W, R37) -/
  | results
  /-- FENCE of a scope: the requests that it waits for, and the step in which it issued (R285) -/
  | fence (scope : Nat) (after : List Nat) (issued : Nat)
  /-- MWAIT: the commands accepted on a tile before it (R225) -/
  | tile (tile : Nat) (cmds : List Nat)
  /-- REND: the tile and engine commands that the lane issued from `mark` on, and its results (R418) -/
  | rend (mark : Nat)
  /-- RPRESM: the requests that read the snapshot of `len` bytes at `addr` (R417) -/
  | snap (addr : DWord) (len : Nat) (reqs : List Nat)
  deriving DecidableEq, Repr, Inhabited

/-- The barrier at which a lane is parked (R381). `again`: it had arrived already and waits to arrive in the next
phase; `wait`: it then waits for that phase (BAR, GBAR). -/
structure BarPark where
  gang : Bool
  bar : Nat
  again : Bool
  wait : Bool
  deriving DecidableEq, Repr, Inhabited

/-- A weir park (R379): WWAIT until the generation differs from `gen`, or WRET (`ret`) until no command names the slot. -/
structure WeirPark where
  key : Nat
  gen : Half
  ret : Bool
  deriving DecidableEq, Repr, Inhabited

/-- The acquisition park of R168: a sluice request, or a request for the saddle. -/
inductive AcqPark where
  | sluice (req : Nat)
  | saddle
  deriving DecidableEq, Repr, Inhabited

/-- The queue park of R168. -/
inductive QueuePark where
  /-- a ditch operation that waits at its controller (R305 to R307) -/
  | ditch (op : Nat)
  /-- an engine command that waits for room in the stream command queue (R316) -/
  | stream (cmd : Nat)
  /-- a tile command that waits for room in the matrix queue (R207) -/
  | matrix (cmd : Nat)
  /-- TTAKE.WAIT (R350): its result and its place among the takers -/
  | take (op : Op) (res arr : Nat)
  /-- TSPAWN.WAIT that spills (R349): its record, where its join counter lies, its result, its place among those that wait, and the
  requests to be performed before the record is written -/
  | spawn (op : Op) (rec : List Word) (join : Option (Loc × DWord)) (res arr : Nat) (after : List Nat)
  /-- TJWAIT (R352): the counter's address and memory key, the requests of the lane to be performed first (R239), its number, and the
  cycle since which it is held for want of a route (R432) -/
  | join (va : DWord) (key : Nat) (after : List Nat) (id : Nat) (held : Option Nat)
  /-- QPUSH.WAIT (R353) -/
  | push (op : Op) (q : Nat) (rec : List Word) (res arr : Nat)
  /-- QPOP.WAIT (R353) -/
  | pop (op : Op) (q res arr : Nat)
  deriving DecidableEq, Repr, Inhabited

/-- A change to a weir that a lane makes (R376): an arrival, a rise of the byte target, an initialisation. -/
inductive WeirOp where
  | arr
  | exp (n : Nat)
  | init (e : Nat)
  deriving DecidableEq, Repr, Inhabited

/-- An arrival, or a weir change behind one, that a lane has issued and that is counted once the requests of `after` are
performed (R287, R382). A weir change has a number, and so has its issue (R376). -/
inductive Arrival where
  | barrier (gang : Bool) (bar : Nat) (after : List Nat)
  | weir (key : Nat) (op : WeirOp) (pc : DWord) (after : List Nat) (id issue : Nat)
  deriving DecidableEq, Repr, Inhabited

/-- The parks of a lane; a lane may be in several at once (R168). -/
structure Parks where
  wait : List WaitFor
  coll : Option Coll
  /-- YIELD not yet spent: the cycle in which it issued (R178) -/
  yield : Option Nat
  /-- SLEEP: the first cycle in which a census may find the lane ready (R178) -/
  sleep : Option Nat
  trap : Bool
  bar : Option BarPark
  weir : Option WeirPark
  acq : List AcqPark
  queue : Option QueuePark
  fault : Bool
  deriving DecidableEq, Repr, Inhabited

/-- No park. -/
def Parks.none : Parks :=
  { wait := [], coll := Option.none, yield := Option.none, sleep := Option.none, trap := false, bar := Option.none,
    weir := Option.none, acq := [], queue := Option.none, fault := false }

/-- A latched word (R167): its bits and the instruction they decode to. -/
structure Latch where
  raw : BitVec 96
  op : Op
  /-- the first cycle in which a census may present it -/
  since : Nat := 0
  deriving DecidableEq, Repr, Inhabited

/-- A lane (R115, R167 to R171, R280, R369, R403). -/
structure Lane where
  pc : DWord
  g : Map Nat Word
  /-- p1 to p15 in bits 0 to 14; p0 is always true (R115) -/
  p : BitVec 15
  /-- g registers with bad parity (R423) -/
  parity : List Nat
  exited : Bool
  /-- an EXIT with W has issued and takes effect when its wait park ends (R177) -/
  exiting : Bool
  latch : Option Latch
  /-- the census wait counter (R171) -/
  wait : BitVec 4
  /-- the first cycle in which the last short-latency result has been written (R168) -/
  shortUntil : Nat
  parks : Parks
  results : List Result
  holds : List Hold
  /-- the region stack, innermost first (R369) -/
  regions : List Region
  /-- undo bytes in use (R370) -/
  undoUse : Nat
  /-- where the lane's undo store lies, as a memory key (R370) -/
  undoBase : Nat
  stkBase : DWord
  err : Option DetErr
  /-- LAST of RSTAT: [15:0] code field, [23:16] source (R420) -/
  last : Word
  trapLane : Bool
  /-- censuses of its peloton since its latest TSPAWN with a true guard (R346) -/
  spawned : Option Nat
  /-- accesses and commands issued so far (R239) -/
  seq : Nat
  /-- barriers of the workgroup (false) and of the gang (true) on which the lane has arrived (R381) -/
  arrived : List (Bool × Nat)
  /-- arrivals issued and not yet counted, oldest first -/
  arriving : List Arrival
  /-- CPYW words issued so far (R331) -/
  cpyw : Nat
  /-- the record (by its number) that holds the lane in its fault park, with the lane's cause and address (R391) -/
  heldBy : Option Nat
  /-- the empty latch asks for a word: since which cycle, and at which PC (R167) -/
  asked : Option (Nat × DWord) := none
  /-- CCTLs not yet ordered by a FENCE: code lines to invalidate (none for all of them), and the write-backs that they wait
  for (R28, R246, R285) -/
  cctl : List (Option Nat) := []
  cctlReqs : List Nat := []
  deriving DecidableEq, Repr, Inhabited

/-- A crew's shared registers (R115). -/
structure Crew where
  k : Map Nat Word
  flags : BitVec 7
  farm : BitVec 7
  tpc : DWord
  tcause : Word
  /-- its lanes, by %lane, in ascending rank (R183) -/
  lanes : List Nat
  deriving DecidableEq, Repr, Inhabited

/-! ### The work hierarchy -/

/-- A loaded kernel descriptor (R82). -/
structure Desc where
  entry : DWord
  lanes : Nat
  gang : Nat
  regs : Nat
  scratch : Nat
  undo : Nat
  tiles : Nat
  stack : Nat
  resx : Nat
  resn : Nat
  deriving DecidableEq, Repr, Inhabited

/-- A write of a stream register that lanes of other pelotons may not have seen (R116): the register, its value before, the lane
that wrote it and the lanes that may still read the value before. -/
structure Stale where
  reg : Nat
  old : Option (BitVec 256)
  writer : Nat
  readers : List Nat
  deriving DecidableEq, Repr, Inhabited

/-- A workgroup instance (R13, R14, R340 to R343). `place` gives, for each group of 16 lanes, its peloton slot and
spoke while active (R439); `crewOf` gives each group's %crew, fixed at the first activation (R183). -/
structure Wg where
  ctx : Nat
  gang : Nat
  idx : Nat
  core : Nat
  kdi : Nat
  desc : Desc
  active : Bool
  /-- has it ever been active -/
  begun : Bool
  place : List (Nat × Nat)
  crewOf : List Nat
  parkedAt : Nat
  activeAt : Nat
  /-- parked on its way out: lanes have stopped presenting, results still outstanding (R343) -/
  parking : Bool
  /-- pre-emption parks it and has begun to roll its lanes back (R400) -/
  rolling : Bool := false
  exited : Bool
  /-- its exit's last steps (tiles, segments) are done (R229, R255) -/
  freed : Bool
  sregs : Map Nat (BitVec 256)
  /-- values that stream registers had before writes that some lanes may not have seen (R116) -/
  stale : List Stale := []
  /-- offsets of the active weirs of its scratchpad (R375) -/
  weirs : List Nat
  /-- weirs that retire with the exit of the workgroup, once no command names the slot (R70) -/
  retiring : List Nat
  /-- phase bit of each workgroup barrier; absent means 0 (R373) -/
  phases : Map Nat Bool
  /-- fault answers recorded while parked: record number, lanes, action, RPC (R391) -/
  answers : List (Nat × DWord × Nat × DWord)
  /-- crews that held the saddle when the workgroup was parked (R206) -/
  saddleOwed : List Nat
  /-- the next free number when the workgroup exited: what is older was issued before -/
  exitMark : Nat
  deriving DecidableEq, Repr, Inhabited

/-- A gang instance (R13, R14, R411). -/
structure Gang where
  launch : Nat
  ctx : Nat
  idx : Nat
  relaunch : Nat
  cluster : Nat
  wgs : List Nat
  /-- some workgroup of it has issued its first instruction (R342) -/
  started : Bool
  startedAt : Nat
  /-- a kill is decided: the PC that its record names (R410, R412) -/
  kill : Option DWord
  /-- its lanes have ended and its record 0x12 is written -/
  reported : Bool := false
  /-- killed, exited or ended by a reset -/
  ended : Bool
  phases : Map Nat Bool
  deriving DecidableEq, Repr, Inhabited

/-- A sidecar condition (R93, R337). -/
structure Cond where
  addr : DWord
  value : DWord
  /-- it has held after some write since acceptance -/
  seen : Bool
  met : Bool
  deriving DecidableEq, Repr, Inhabited

/-- An accepted launch, retained until it completes (R336 to R339). -/
structure Launch where
  ctx : Nat
  lnum : Word
  kdi : Nat
  desc : Desc
  prio : Nat
  limit : Nat
  args : List Word
  grid : Nat
  side : DWord
  cdone : DWord
  conds : List Cond
  /-- the next %gang never placed -/
  next : Nat
  /-- gangs to relaunch: %gang and the %relaunch they will have (R411) -/
  again : List (Nat × Nat)
  /-- gangs that have exited or have been abandoned -/
  finished : Nat
  reln : Nat
  abandoned : Bool
  order : Nat
  /-- once its gangs have ended (R339): the requests to be performed before it goes on, and whether CDONE's decrement has been sent -/
  closing : Option (Bool × List Nat) := none
  deriving DecidableEq, Repr, Inhabited

/-! ### Issue -/

/-- A peloton slot (R120, R170). -/
structure Peloton where
  agelim : BitVec 4
  overdue : List LaneId
  busyUntil : Nat
  /-- the cycle of the latest records of rollbacks of its lanes (R412) -/
  rolledAt : Option Nat := none
  deriving DecidableEq, Repr, Inhabited

/-- An issue port (R169, R373). -/
structure Port where
  last : Nat
  pcens : Word
  pissue : Word
  /-- cycle of the last census, for one issue a cycle (R12) -/
  lastAt : Option Nat
  /-- the first cycle in which the vector datapath is free (R12) -/
  busyUntil : Nat := 0
  /-- cycle of the last issue whose place among those of other ports counts (R205, R207, R302) -/
  sentAt : Option Nat := none
  /-- parcels in the port's L0 instruction cache, by memory key, oldest first (R9, R28) -/
  l0 : Map Nat Word := []
  /-- the cycle of the last fetch and how many distinct words were fetched in it (R167) -/
  front : Nat × Nat := (0, 0)
  deriving DecidableEq, Repr, Inhabited

/-! ### Matrix unit -/

/-- A tile row (R114, R190). -/
structure TRow where
  empty : Bool
  e : Int
  m : List DWord
  h : Nat
  rho : Nat
  /-- a parity error in the row (R402) -/
  bad : Bool
  deriving DecidableEq, Repr, Inhabited

/-- An empty row (R190). -/
def TRow.none : TRow := { empty := true, e := 0, m := List.replicate 32 0, h := 63, rho := 0, bad := false }

/-- ERRINJ.MANT's arming of a tile (R423); `cmd` is the loop it applies to, once accepted. -/
structure Arm where
  row : Nat
  col : Nat
  step : Nat
  bit : Nat
  cmd : Option Nat
  deriving DecidableEq, Repr, Inhabited

/-- An accumulator tile (R115, R203, R212, R228). -/
structure Tile where
  owner : Option Nat
  freeing : Bool
  bound : Option (LaneId × Nat)
  rows : List TRow
  evt : Word
  prog : Nat
  /-- g of the last format pair since the tile became empty (R197) -/
  lastG : Option Nat
  arm : Option Arm
  deriving DecidableEq, Repr, Inhabited

/-- A free tile. -/
def Tile.none : Tile :=
  { owner := Option.none, freeing := false, bound := Option.none, rows := List.replicate 32 TRow.none, evt := 0,
    prog := 0, lastG := Option.none, arm := Option.none }

/-- A matrix loop's operands, read at issue (R215, R219, R222). -/
structure Loop where
  a : DWord
  b : DWord
  aStride : Int
  bStride : Int
  aInc : Int
  bInc : Int
  ks : Nat
  /-- gate: the weir slot's memory key and the generation G -/
  gate : Option (Nat × Half)
  /-- structured-sparse: pattern 0 2:4 or 1 1:4, and the metadata base -/
  sparse : Option (Nat × DWord)
  fa : Typ
  fb : Typ
  deriving DecidableEq, Repr, Inhabited

/-- A bound register (R122). -/
structure Bound where
  mode : BitVec 2
  hi : Word
  lo : Word
  deriving DecidableEq, Repr, Inhabited

/-- The reset value of a bound register (R122). -/
def Bound.reset : Bound := { mode := 0, hi := 0x7F800000#32, lo := 0xFF800000#32 }

/-- A MOUT's operands, read at issue (R223). -/
structure Out where
  base : DWord
  stride : Int
  row : Nat
  n : Nat
  typ : Typ
  mode : Nat
  bnd : Option (Nat × Bound)
  deriving DecidableEq, Repr, Inhabited

/-- A tile command (R204). -/
inductive MKind where
  | zero
  | ren
  | free
  | loop (l : Loop)
  | out (o : Out)
  /-- MSTAT's read at its place in the tile's order (R226): variant, row, column, register and result; it takes no place in
  the matrix queue -/
  | stat (variant row col reg res : Nat)
  deriving DecidableEq, Repr, Inhabited

/-- A tile command from issue until it has finished (R207). -/
structure MCmd where
  id : Nat
  lane : LaneId
  crew : CrewId
  pc : DWord
  seq : Nat
  ch : BitVec 2
  tile : Nat
  kind : MKind
  /-- requests to be performed before its reads (R221) -/
  after : List Nat
  accepted : Bool
  /-- it has its place among the 32 of the matrix queue -/
  queued : Bool
  /-- MOUT: rows stored so far; loop: steps taken -/
  prog : Nat
  begun : Bool
  /-- stopped by a fault: the number of its record (R220) -/
  stopped : Option Nat
  /-- stops at the next boundary, its rest dropped (R228, R406) -/
  dropped : Bool
  /-- operand lines that have arrived for the next step (R218, R261) -/
  got : Fetched := []
  /-- MOUT: bytes, by memory key, that a later-accepted readout has stored already (R224) -/
  skip : List Nat := []
  /-- its place in the order of acceptance -/
  arr : Nat := 0
  /-- MOUT: the rows as it found them when it began (R223, R228) -/
  snap : List TRow := []
  deriving DecidableEq, Repr, Inhabited

/-- A core's own state (R115, R205, R340, R342). -/
structure Core where
  bnds : Map Nat Bound
  tiles : Map Nat Tile
  saddle : Option CrewId
  requests : List CrewId
  /-- a pass of the saddle that waits for earlier commands' acceptance (R205, R206) -/
  passing : Option (List Nat)
  mq : List MCmd
  quantum : Half
  /-- QUANTUM as last written; it takes effect at the next tick (R427) -/
  quantumSet : Half
  lastTick : Nat
  /-- a parked workgroup that the quantum swaps in once those that it parks have left (R342) -/
  swap : Option Nat
  /-- the cycle of the last K-step (R12) -/
  stepAt : Option Nat := none
  /-- the pass is that of a parked workgroup, whose crew then asks for the saddle ahead of all (R206) -/
  requeue : Bool := false
  deriving DecidableEq, Repr, Inhabited

/-! ### Cluster -/

/-- A replacement mark (R263). -/
inductive Mark where
  | n | ef | el
  deriving DecidableEq, Repr, Inhabited

/-- A valid byte of an L1 line (R438). `at` is the machine's step number at which it was filled or written. -/
structure L1Byte where
  v : Byte
  dirty : Bool
  /-- dirty, and the request that writes it back is on its way -/
  sent : Option Nat
  since : Nat
  deriving DecidableEq, Repr, Inhabited

/-- An L1 line (R254, R263, R438); `bank` is the cache-mode bank that holds it. -/
structure L1Line where
  line : Nat
  bytes : Map Nat L1Byte
  mark : Mark
  bank : Nat
  /-- the line's home slice, and the context, lane and PC of its last store -/
  home : Home
  ctx : Nat
  by_ : LaneId
  pc : DWord
  /-- an uncorrectable error has struck the copy (R433) -/
  bad : Bool := false
  deriving DecidableEq, Repr, Inhabited

/-- A configured ditch port (R299, R301). -/
structure Ditch where
  gang : Nat
  lgn : Nat
  esz : Nat
  pptr : Word
  cptr : Word
  rsv : Word
  ord : Bool
  slots : Map Nat (List Word)
  /-- blocks of 1 KiB held: bank and number (R299) -/
  store : List (Nat × Nat)
  deriving DecidableEq, Repr, Inhabited

/-- A lane operation on a ditch (R302). -/
inductive DKind where
  | push (words : List Word)
  /-- TRY, the register group's base, its width in words, the predicate, the result -/
  | pop (try_ : Bool) (reg n : Nat) (p : Option Nat) (res : Nat)
  | peek (k reg n : Nat) (p : Option Nat) (res : Nat)
  | reset
  | rel
  | stat (variant reg : Nat) (res : Nat)
  deriving DecidableEq, Repr, Inhabited

/-- A lane operation that has reached a ditch controller and has not been performed; ascending `id` is the order of
arrival (R302, R303). -/
structure DOp where
  id : Nat
  lane : LaneId
  pc : DWord
  port : Nat
  kind : DKind
  deriving DecidableEq, Repr, Inhabited

/-- Where a stream command takes indices or rows, or puts rows (R311). -/
inductive Place where
  | mem (addr : DWord)
  | scratch (off : Nat)
  | ditch (port : Nat)
  deriving DecidableEq, Repr, Inhabited

/-- What an engine command does, with the operands read at issue (R313, R324 to R331). -/
inductive CKind where
  /-- SGATH: `ob` bytes for each output row; `dec` is none for RAW, else the output type; `fmt` is none when FPAGE = 1 -/
  | gath (table : DWord) (rowb n ob : Nat) (idx : Place) (dst : Place) (dec : Option Typ) (fmt : Option Typ)
  | scat (table : DWord) (rowb n : Nat) (idx : Place) (src : Place)
  | scadd (table : DWord) (rowb n : Nat) (idx : Place) (src : Place) (typ : Typ)
  | merge (a b out na nb op : Nat) (dropz : Bool) (typ : Typ)
  /-- SNZ and CPYL carry the places that the probe at issue found (R237, R329, R330) -/
  | nz (src dst : DWord) (n : Nat) (port : Option Nat) (typ : Typ) (reg : Option Nat) (res : Option Nat)
      (from_ to_ : List (Loc × Nat))
  | cpyl (dst src : DWord) (n : Nat) (from_ to_ : List (Loc × Nat))
  | cpyw (src dst : DWord) (rowb rows : Nat) (ss ds : Int) (round : Nat)
  deriving DecidableEq, Repr, Inhabited

/-- An engine command from issue to completion (R303, R317). -/
structure Cmd where
  id : Nat
  /-- once fired, its place in firing order -/
  arr : Nat
  lane : LaneId
  crew : CrewId
  pc : DWord
  seq : Nat
  ch : BitVec 2
  kind : CKind
  /-- requests to be performed before its reads (R288) -/
  after : List Nat
  gate : Option (Nat × Half)
  arrive : Option Nat
  count : Option Nat
  /-- it has its place among the 64 of the stream command queue -/
  queued : Bool
  /-- false for a CPYW whose crew has not yet supplied its slice (R331) -/
  submitted : Bool
  fired : Bool
  /-- entries taken at firing, in order: of the first input, of the second -/
  ins : List (List Word)
  ins2 : List (List Word)
  /-- rows delivered so far, and what they produced for the output ditch -/
  rows : List Nat
  out : Map Nat (List Word)
  /-- stopped at a row by a fault: row and record number (R321) -/
  stopped : Option (Nat × Nat)
  dropped : Bool
  /-- lines that have arrived, by slot of UnitRef.engine (R328) -/
  got : Map Nat Fetched := []
  /-- CPYW: it was its crew's lowest-ranked lane that issued it (R331) -/
  lead : Bool := false
  /-- SNZ.BUF: its entries are on their way (R329) -/
  flushed : Bool := false
  /-- a fault has stopped it, and it has not completed since (R321) -/
  halted : Bool := false
  /-- false for a CPYW slice whose operands no check has passed yet (R319, R331) -/
  checked : Bool := true
  deriving DecidableEq, Repr, Inhabited

/-- A record of a cistern (R345); it is takeable once the requests of `after`, its JOIN step among them, are performed
(R349). -/
structure CRec where
  ctx : Nat
  words : List Word
  after : List Nat
  deriving DecidableEq, Repr, Inhabited

/-- A drain of a bank (R257): its target mode and the lane and result that wait for DONE. -/
structure Drain where
  bank : Nat
  mode : Nat
  lane : LaneId
  res : Option (Nat × Nat)
  deriving DecidableEq, Repr, Inhabited

/-- A cluster's own state (R253, R254, R299, R345, R373). -/
structure Cluster where
  /-- banks whose mode differs from the reset split: 0 cache, 1 scratchpad, 2 ditch -/
  banks : Map Nat Nat
  drains : List Drain
  /-- L1 lines, least recently used first -/
  l1 : List L1Line
  /-- parcels in the cluster's instruction cache, by memory key, oldest first (R9, R28) -/
  icache : Map Nat Word
  ports : Map Nat Ditch
  dops : List DOp
  cmds : List Cmd
  cistern : List CRec
  /-- a context's part of its overflow area (R345): index of the oldest record and, for each record held, the requests to
  be performed before it can be taken -/
  parts : Map Nat (Nat × List (List Nat))
  cisthw : Half
  /-- CISTHW as last written; it takes effect at the cistern's next take or spawn (R427) -/
  cisthwSet : Half := 3072
  throt : Word
  /-- cycles of every 64 that the arbiter removes (R435) -/
  cut : Nat
  /-- segments allocated: bank, workgroup instance, number (R255) -/
  segs : List (Nat × Nat × Nat)
  /-- the cycle of the last line request of the stream engine and how many it started in it; the same of the copy engine (R317) -/
  pace : (Nat × Nat) × (Nat × Nat) := ((0, 0), (0, 0))
  deriving DecidableEq, Repr, Inhabited

/-! ### The memory hierarchy -/

/-- The operation of an atomic (R248 to R250). -/
inductive Rmw where
  | add | min | max | and | or | xor | xchg | incw | decw | cas | fadd
  deriving DecidableEq, Repr, Inhabited

/-- How loaded bytes become a register value (R241, R243). -/
inductive LoadAs where
  | raw (typ : Typ) (reg : Nat)
  | quad (reg : Nat)
  /-- LDE: page format, nibble, scale byte's memory key, destination type -/
  | lde (fmt : Typ) (hi : Bool) (scale : Option Nat) (typ : Typ) (reg : Nat)
  deriving DecidableEq, Repr, Inhabited

/-- What one lane's part of a request does at the home agent (R238). -/
inductive AccOp where
  /-- `known` lists bytes (by key) that the cluster's L1 held valid at issue (R277) -/
  | load (as_ : LoadAs) (known : List (Nat × Byte)) (res : Nat)
  | store (bytes : List Byte)
  /-- STE whose scale byte must be read (R244): the page format, the nibble, the value and its type, the scale byte's
  key and its value where the cluster's L1 held it -/
  | encode (page : Typ) (hi : Bool) (v : Word) (typ : Typ) (scale : Nat) (known : Option Byte)
  | rmw (op : Rmw) (typ : Typ) (a b : DWord) (res : Option (Nat × Nat))
  /-- a write-back of dirty bytes: offsets in the line and values (R438) -/
  | wback (bytes : List (Nat × Byte))
  | prefetch
  /-- STE performed as ST.WB whose scale byte is read like LD.CA (R244): the access is at the scale byte; the page format, the value
  and its type, the element's place, the scale byte where the L1 held it; `dead` once a later store of the lane has overwritten the
  element, `home` once the element must reach its home slice as write-backs of its line do -/
  | ste (page : Typ) (v : Word) (typ : Typ) (at_ : Loc) (known : Option Byte) (dead home : Bool)
  /-- a line read by a matrix unit or an engine (R218, R328) -/
  | unitRead (u : UnitRef)
  /-- bytes that a readout or an engine stores (R223, R288) -/
  | unitWrite (u : UnitRef) (bytes : List Byte)
  /-- elements that SSCADD adds (R327) -/
  | unitAdd (u : UnitRef) (typ : Typ) (bytes : List Byte)
  /-- JOIN step of TSPAWN, decrement of TJOIN (R349, R351) -/
  | joinInc
  | joinDec
  /-- RPRESM's read (R417): bytes go to the undo store at this key -/
  | snap (dst : Nat) (n : Nat)
  deriving DecidableEq, Repr, Inhabited

/-- One lane's access in a request. -/
structure Access where
  lane : LaneId
  slot : Nat
  pc : DWord
  seq : Nat
  va : DWord
  key : Nat
  size : Nat
  /-- the lane's cache hint (R39) -/
  ch : BitVec 2
  op : AccOp
  /-- the cluster's L1 takes the line (CA) -/
  fill : Bool := false
  /-- a write-back of a copy that an uncorrectable error has struck -/
  bad : Bool := false
  deriving DecidableEq, Repr, Inhabited

/-- Where a request stands (R261, R265, R271, R425, R432). -/
inductive ReqSt where
  | flying
  /-- accepted; keeps its queue entry and waits for a miss register or room in one's list -/
  | waiting
  | attached
  /-- held by a migration or a repair -/
  | held
  /-- held by a back-invalidation snoop -/
  | snooped
  /-- performed; its reply has not left -/
  | replying
  deriving DecidableEq, Repr, Inhabited

/-- A request to a home agent: the accesses of one issue that fall in one 128-byte line (R261). -/
structure Req where
  id : Nat
  ctx : Nat
  cluster : Nat
  line : Nat
  home : Home
  st : ReqSt
  acc : List Access
  reply : Bool
  /-- the page is cacheable: L2 keeps the line (R231) -/
  cache : Bool
  /-- other lines that it reads (scale bytes, R102) -/
  also : List Nat
  /-- requests to be performed before it (R349, R351) -/
  after : List Nat
  /-- cycle of acceptance -/
  acceptedAt : Nat
  /-- acceptance order at the slice (R261) -/
  order : Nat
  /-- the request of an STE whose element this one stores (R244) -/
  parent : Option Nat := none
  /-- what its reply carries to a host (R262, R290) -/
  data : List Byte := []
  deriving DecidableEq, Repr, Inhabited

/-- A miss register (R265): its line and the requests attached, in acceptance order. -/
structure Miss where
  line : Nat
  reqs : List Nat
  deriving DecidableEq, Repr, Inhabited

/-- A request of a slice to a DRAM controller (R270): a fill or a write-back of a line; `slot` says that it has one of the
controller's slots. -/
structure Dram where
  line : Nat
  fill : Bool
  slot : Bool
  deriving DecidableEq, Repr, Inhabited

/-- An L2 slice (R260 to R267, R274). -/
structure Slice where
  queue : List Nat
  miss : List Miss
  waiting : List Nat
  held : List Nat
  /-- lines held, least recently used first, with their marks (R260, R263, R264) -/
  lines : Map Nat Mark
  /-- lines held that differ from DRAM (R264) -/
  dirty : List Nat := []
  /-- requests to the controllers, in the order in which they arose (R270) -/
  dram : List Dram := []
  l2qpeak : Nat
  /-- the cycle of the latest read of L2QPEAK, and the value that reads of that cycle return (R275) -/
  peakRead : Option (Nat × Nat) := none
  l2req : Word
  l2miss : Word
  l2merge : Word
  l2hold : Word
  deriving DecidableEq, Repr, Inhabited

/-- A sluice request (R281); `try_` gives the result and destination register code of SLTRY. -/
structure SlReq where
  id : Nat
  lane : LaneId
  va : DWord
  key : Nat
  excl : Bool
  try_ : Option (Nat × Nat)
  waiting : Bool
  slot : Nat
  home : Home := .host
  /-- held by a migration or for want of a route: since which cycle, and its place among what is held (R271, R432) -/
  held : Option (Nat × Nat) := none
  deriving DecidableEq, Repr, Inhabited

/-- A sluice release on its way (R282); `publish` is false for a kill (R280). -/
structure SlRel where
  id : Nat
  lane : LaneId
  key : Nat
  va : DWord
  excl : Bool
  publish : Bool
  pc : DWord := 0
  home : Home := .host
  /-- as of a request -/
  held : Option (Nat × Nat) := none
  deriving DecidableEq, Repr, Inhabited

/-! ### Tables, rings and the host's side -/

/-- A binding-table entry (R363); an entry that is not valid keeps its place in the table (R365). -/
structure Binding where
  sluice : DWord
  start : DWord
  len : Word
  v : Bool := true
  deriving DecidableEq, Repr, Inhabited

/-- A fault record that has not closed (R388, R391). `held` lists the lanes it still holds with %slot, address and
cause; `cmd` names the stopped loop, readout (core, id) or engine command (cluster, id), and `issuer` the lane that issued it; `cycle` is
the one in which the lanes stopped. -/
structure FaultRec where
  num : Nat
  fid : Option Word
  kind : Nat
  gang : Nat
  wg : Nat
  held : List (LaneId × Nat × DWord × Nat)
  pc : DWord
  cmd : Option (Nat × Nat)
  head : BitVec 512
  detail : List (Nat × DWord × Nat)
  issuer : Option LaneId := none
  cycle : Nat := 0
  deriving DecidableEq, Repr, Inhabited

/-- A translation invalidation under way (R361): its range, and, once no probe finds an older entry any more, what is under way by older
entries and must be performed first. -/
structure Inval where
  start : DWord
  len : DWord
  after : Option (List Nat)
  deriving DecidableEq, Repr, Inhabited

/-- A context: its entry of the context table (R366) and the device's own state for it. -/
structure Ctx where
  stksz : Word
  stkva : DWord
  sigreq : Bool
  preempt : BitVec 2
  state : BitVec 2
  cvec : Half
  evec : Half
  fvec : Half
  cqs : Byte
  eqs : Byte
  fqs : Byte
  bndmask : Half
  undosz : Word
  undob : DWord
  losterr : Word
  ovfn : Word
  ovfb : DWord
  cqci : Word
  cqpi : Word
  eqci : Word
  eqpi : Word
  fqci : Word
  fqpi : Word
  cqb : DWord
  eqb : DWord
  fqb : DWord
  traptab : DWord
  stack : Word
  kdn : Word
  kdtab : DWord
  ptroot : DWord
  /-- the resource list (R83): the loader appends to it, outside the model -/
  resl : List (BitVec 128)
  binds : List Binding
  lnum : Word
  faults : List FaultRec
  /-- completion records that wait for room (R298) -/
  cwait : List (BitVec 512)
  invals : List Inval
  invdone : Word
  /-- cached leaf entries that a probe may still use: virtual page number (64 KiB) and entry (R361) -/
  tlb : List (Nat × BitVec 128)
  /-- pre-emption: the cycle of the command, T1 and T2 in µs, and whether the park stage has begun (R399) -/
  pre : Option (Nat × Nat × Nat)
  /-- MSI-X vectors sent, most recent first (R297) -/
  irqs : List (BitVec 11)
  deriving DecidableEq, Repr, Inhabited

/-- A hardware work queue (R333, R334, R429). -/
structure WQ where
  cfg : BitVec 128
  /-- records, oldest first, each with the requests to be performed before it can be taken (R353) -/
  recs : List (BitVec 512 × List Nat)
  drops : Word
  deriving DecidableEq, Repr, Inhabited

/-- A launch sequencer (R336): records that LAUNCH passed to it, and, for each queue that holds a record, the queues
of its level served since it became next. -/
structure Sequencer where
  /-- context, issuing lane and PC, record, and the requests to be performed first (R354) -/
  given : List (Nat × LaneId × DWord × BitVec 512 × List Nat)
  served : Map Nat (List Nat)
  deriving DecidableEq, Repr, Inhabited

/-- A Kiltus link (R431): up, consecutive resends, and the cycle from which it has been trained and clean. -/
structure Link where
  up : Bool
  resends : Nat
  cleanSince : Option Nat
  triedAt : Nat
  deriving DecidableEq, Repr, Inhabited

/-- What the part holds once: firmware, reliability, power, links' routes, attestation, and what the host holds. -/
structure Dev where
  /-- the device number in the domain (R18, R428) -/
  devno : Byte
  /-- the least firmware version that boot accepts (R436) -/
  fwmin : Word
  /-- firmware runs: boot has accepted an image (R436) -/
  up : Bool
  fwver : Word
  /-- the SHA-256 of each accepted firmware image (R437) -/
  measured : List (BitVec 256) := []
  /-- the cycle in which the cores left reset (R117 %cycle) -/
  resetAt : Nat
  /-- lines (memory key / 128) that carry an uncorrectable error (R251) -/
  poison : List Nat
  /-- lines of which the host may hold a copy (R425) -/
  hostCopies : List Nat
  /-- what the host's last read returned (R290) -/
  hostRead : List Byte
  /-- 64 KiB pieces being migrated: old and new piece number (R271) -/
  migrating : List (Nat × Nat)
  /-- pieces migrated whose accesses are redirected (R362) -/
  moved : List (Nat × Nat)
  retired : List Nat
  /-- pseudo-channels under soft repair: die, channel, row, cycle of the start (R272) -/
  repairs : List (Nat × Nat × Nat × Nat)
  softRepaired : List (Nat × Nat × Nat)
  hardRepairs : List (Nat × Nat × Nat)
  /-- lines with a correctable error, and corrected errors per row since its last record (R433) -/
  correctable : List Nat
  /-- HBM rows for which the log holds an event 0x01 and whose repair has not started (R434) -/
  reported : List (Nat × Nat × Nat)
  corrected : Map (Nat × Nat × Nat) Nat
  relBase : DWord
  relSize : DWord
  relPi : Word
  relCi : Word
  /-- the line that the patrol scrubber reads next (R433) -/
  scrubNext : Nat
  pcap : BitVec 12
  floor : Byte
  tlim : Byte
  modpwr : Word
  /-- the cycle of the latest division of the budget (R22) -/
  powerAt : Option Nat
  nonce : BitVec 256
  attStatus : Word
  report : List Byte
  /-- order number of the next acceptance of any kind (R261, R302, R336) -/
  order : Nat
  /-- sluices from whose queues requests have been withdrawn, and whose WQ bits have not been examined since (R279) -/
  wq : List Nat := []
  deriving DecidableEq, Repr

/-- The value after reset (R428, R433, R435 to R437). (log 6, DESIGN CHOICE; log 28, DEDUCED) -/
def Dev.reset : Dev :=
  { devno := 0, fwmin := 0, up := false, fwver := 0, resetAt := 0, poison := [], hostCopies := [], hostRead := [], migrating := [],
    moved := [], retired := [], repairs := [], softRepaired := [], hardRepairs := [], correctable := [], reported := [],
    corrected := [], relBase := 0, relSize := 0, relPi := 0, relCi := 0, scrubNext := 0, pcap := 3600, floor := 8,
    tlim := 45, modpwr := 0, powerAt := none, nonce := 0, attStatus := 1, report := [], order := 0 }

/-- The state of the part. Components that exist in great number are maps whose missing entries have the reset value. -/
structure State where
  /-- step number: every step adds 1; the argument of the free values -/
  tick : Nat
  /-- cycles of R2 since the part's power-on -/
  now : Nat
  /-- steps to come, with the cycles that pass before each; when empty the next step is free -/
  agenda : List (Nat × Instr)
  /-- the next number for requests, commands, results and records -/
  fresh : Nat
  mem : List Host.Cell
  lanes : Map LaneId Lane
  crews : Map CrewId Crew
  wgs : Map Nat Wg
  gangs : Map Nat Gang
  launches : Map Nat Launch
  pelotons : Map (Nat × Nat) Peloton
  ports : Map Nat Port
  cores : Map Nat Core
  clusters : Map Nat Cluster
  slices : Map Nat Slice
  ctxs : Map Nat Ctx
  queues : Map Nat WQ
  seqs : Map Nat Sequencer
  links : Map Nat Link
  routes : Map Nat Word
  reqs : List Req
  slreqs : List SlReq
  slrels : List SlRel
  dev : Dev
  /-- lanes ready as the present cycle began (R169) -/
  ready : List LaneId
  deriving DecidableEq, Repr

/-- Why the part stops: it never does. Every fault of the manual is a record that the part writes while it goes on
(R388), so no step ends in this outcome; the type is empty of reasons but one that no meaning raises. -/
inductive Fault where
  /-- raised by no step; safe -/
  | none
  deriving DecidableEq, Repr

/-- Why a step has no meaning in the model. -/
inductive Refusal where
  /-- raised by the arms of Dispatch.lean whose step is not modelled; safe -/
  | notModelled (mnemonic : String)
  deriving DecidableEq, Repr

/-- The state right after reset: nothing resident, memory all zero, firmware not yet accepted (R436). Values the spec
does not give: notes/assumptions. (log 6, DESIGN CHOICE) -/
def State.reset : State :=
  { tick := 0, now := 0, agenda := [], fresh := 0, mem := [], lanes := [], crews := [], wgs := [], gangs := [],
    launches := [], pelotons := [], ports := [], cores := [], clusters := [], slices := [], ctxs := [], queues := [],
    seqs := [], links := [], routes := [], reqs := [], slreqs := [], slrels := [], dev := Dev.reset, ready := [] }

end Sys2Proof.Machine
end

