-- ==== Sys2Proof/Machine/Ops.lean ====
section
/-! DEFINITION. Machine/Ops.lean: the shared operations. Every effect of a step is a list of primitive updates
(`Upd`); `Act` composes them. Memory, look-ups, the record rings, faults, detected errors, and taking a trap and
returning from one stand here once. -/

namespace Sys2Proof.Machine

open Sys2Proof

/-! ### Memory -/

/-- The byte at a memory key; a key that is not listed reads as 0 (R231). (log 7, DESIGN CHOICE) -/
def Memory.read : List Host.Cell → Nat → Byte
  | [], _ => 0
  | (k, v) :: m, a => if k = a then v else Memory.read m a

/-- Store a byte; keys stay strictly rising and no listed byte is 0. -/
def Memory.write : List Host.Cell → Nat → Byte → List Host.Cell
  | [], a, v => if v = 0 then [] else [(a, v)]
  | (k, w) :: m, a, v =>
    if k < a then (k, w) :: Memory.write m a v
    else if k = a then (if v = 0 then m else (a, v) :: m)
    else (if v = 0 then (k, w) :: m else (a, v) :: (k, w) :: m)

/-- The canonical form of memory. -/
abbrev Memory.wf (m : List Host.Cell) : Prop := m.Pairwise (fun a b => a.1 < b.1) ∧ ∀ c ∈ m, c.2 ≠ 0

/-- Bytes of a number, least significant first (R25). -/
def bytesLE (n v : Nat) : List Byte := (List.range n).map fun i => BitVec.ofNat 8 (v / 256 ^ i)

/-- The number of little-endian bytes. -/
def natLE : List Byte → Nat
  | [] => 0
  | b :: bs => b.toNat + 256 * natLE bs

/-- Where the byte that a key names is held: accesses to a migrated piece are redirected (R271, R362). -/
def State.phys (s : State) (key : Nat) : Nat :=
  match s.dev.moved.find? fun m => m.1 == key / 65536 with
  | some m => m.2 * 65536 + key % 65536
  | none => key

/-- The byte at a memory key. (log 7, DESIGN CHOICE) -/
def State.byte (s : State) (key : Nat) : Byte := Memory.read s.mem (s.phys key)

/-- The `n` bytes from a memory key on. -/
def State.bytes (s : State) (key n : Nat) : List Byte := (List.range n).map fun i => s.byte (key + i)

/-- The little-endian number of `n` bytes of memory. -/
def State.num (s : State) (key n : Nat) : Nat := natLE (s.bytes key n)

/-- Where host memory and scratchpads lie among the memory keys; below lie the global physical addresses (R18). -/
def hostBase : Nat := 2 ^ 52
/-- Memory key of byte `off` of a workgroup's scratchpad (R233). -/
def scratchKey (wg off : Nat) : Nat := 2 ^ 54 + wg * 2 ^ 22 + off
/-- The line of a memory key. -/
def lineOf (key : Nat) : Nat := key / 128

/-- Bits [hi:lo] of a number. -/
def bits (v hi lo : Nat) : Nat := v / 2 ^ lo % 2 ^ (hi + 1 - lo)

/-- Sign extension of the low `n` bits of a number. -/
def signed (n v : Nat) : Int := if v % 2 ^ n < 2 ^ (n - 1) then (v % 2 ^ n : Nat) else (v % 2 ^ n : Nat) - (2 ^ n : Nat)

/-- A word of an integer, modulo 2^w. -/
def wrapTo (w : Nat) (v : Int) : BitVec w := BitVec.ofInt w v

/-! ### Values of components that have never changed -/

/-- A bank's mode at reset (R253). -/
def bankReset (b : Nat) : Nat := if b < 8 then 0 else if b < 28 then 1 else 2

/-- A peloton slot at reset (R115, R121). -/
def Peloton.init : Peloton := { agelim := 8, overdue := [], busyUntil := 0 }
/-- A port at reset (R169). (log 6, DESIGN CHOICE) -/
def Port.init : Port := { last := 3, pcens := 0, pissue := 0, lastAt := none }
/-- A core at reset (R120). -/
def Core.init : Core :=
  { bnds := [], tiles := [], saddle := none, requests := [], passing := none, mq := [], quantum := 20,
    quantumSet := 20, lastTick := 0, swap := none }
/-- A cluster at reset (R120, R253). -/
def Cluster.init : Cluster :=
  { banks := [], drains := [], l1 := [], icache := [], ports := [], dops := [], cmds := [], cistern := [], parts := [],
    cisthw := 3072, throt := 0, cut := 0, segs := [] }
/-- A slice at reset (R274). -/
def Slice.init : Slice :=
  { queue := [], miss := [], waiting := [], held := [], lines := [], l2qpeak := 0, l2req := 0, l2miss := 0,
    l2merge := 0, l2hold := 0 }
/-- A launch sequencer at reset. -/
def Sequencer.init : Sequencer := { given := [], served := [] }
/-- A link at reset: not trained. (log 6, DESIGN CHOICE) -/
def Link.init : Link := { up := false, resends := 0, cleanSince := none, triedAt := 0 }

/-- A context with every setting at its reset value (R366). (log 6, DESIGN CHOICE; log 46, DEDUCED) -/
def Ctx.start : Ctx :=
  { stksz := 0, stkva := 0, sigreq := false, preempt := 0, state := 0, cvec := 0, evec := 0, fvec := 0, cqs := 0, eqs := 0,
    fqs := 0, bndmask := 0, undosz := 0, undob := 0, losterr := 0, ovfn := 0, ovfb := 0, cqci := 0, cqpi := 0, eqci := 0,
    eqpi := 0, fqci := 0, fqpi := 0, cqb := 0, eqb := 0, fqb := 0, traptab := 0, stack := 4096, kdn := 0, kdtab := 0,
    ptroot := 0, resl := [], binds := [], lnum := 0, faults := [], cwait := [], invals := [], invdone := 0, tlb := [], pre := none,
    irqs := [] }

/-- A core. -/
def State.core (s : State) (n : Nat) : Core := s.cores.getD n Core.init
/-- A cluster. -/
def State.cluster (s : State) (n : Nat) : Cluster := s.clusters.getD n Cluster.init
/-- A slice. -/
def State.slice (s : State) (n : Nat) : Slice := s.slices.getD n Slice.init
/-- A port: 4 · core + port. -/
def State.port (s : State) (n : Nat) : Port := s.ports.getD n Port.init
/-- A peloton slot of a core. -/
def State.peloton (s : State) (core slot : Nat) : Peloton := s.pelotons.getD (core, slot) Peloton.init
/-- A launch sequencer. (log 6, DESIGN CHOICE) -/
def State.seqr (s : State) (die : Nat) : Sequencer := s.seqs.getD die Sequencer.init
/-- A link. -/
def State.link (s : State) (n : Nat) : Link := s.links.getD n Link.init
/-- A tile of a core. -/
def Core.tile (c : Core) (n : Nat) : Tile := c.tiles.getD n Tile.none
/-- A bound register of a core. -/
def Core.bnd (c : Core) (n : Nat) : Bound := c.bnds.getD n Bound.reset
/-- A bank's mode. -/
def Cluster.bank (c : Cluster) (b : Nat) : Nat := c.banks.getD b (bankReset b)

/-! ### Updates -/

/-- A primitive update: one component of the state is replaced, or removed. -/
inductive Upd where
  | lane (k : LaneId) (v : Option Lane)
  | crew (k : CrewId) (v : Option Crew)
  | wg (k : Nat) (v : Option Wg)
  | gang (k : Nat) (v : Option Gang)
  | launch (k : Nat) (v : Option Launch)
  | peloton (k : Nat × Nat) (v : Option Peloton)
  | port (k : Nat) (v : Option Port)
  | core (k : Nat) (v : Option Core)
  | cluster (k : Nat) (v : Option Cluster)
  | slice (k : Nat) (v : Option Slice)
  | ctx (k : Nat) (v : Option Ctx)
  | queue (k : Nat) (v : Option WQ)
  | seqr (k : Nat) (v : Option Sequencer)
  | link (k : Nat) (v : Option Link)
  | route (k : Nat) (v : Option Word)
  | byte (key : Nat) (v : Byte)
  | fresh (n : Nat)
  | reqs (l : List Req)
  | slreqs (l : List SlReq)
  | slrels (l : List SlRel)
  | dev (d : Dev)
  /-- device reset (R436): everything of the device returns to its reset value, `d` standing for the once-only part;
  host memory and other devices' memory stay -/
  | wipe (d : Dev)
  deriving DecidableEq, Repr

/-- Does a memory key lie outside the device: host memory, or a frame of another device? -/
def outside (devno : Byte) (key : Nat) : Bool := decide (hostBase ≤ key ∧ key < 2 ^ 54) ||
  decide (key < hostBase ∧ key / 2 ^ 44 ≠ devno.toNat)

/-- The state after a primitive update. (log 28, DEDUCED) -/
def Upd.apply (s : State) : Upd → State
  | .lane k v => { s with lanes := s.lanes.put k v }
  | .crew k v => { s with crews := s.crews.put k v }
  | .wg k v => { s with wgs := s.wgs.put k v }
  | .gang k v => { s with gangs := s.gangs.put k v }
  | .launch k v => { s with launches := s.launches.put k v }
  | .peloton k v => { s with pelotons := s.pelotons.put k v }
  | .port k v => { s with ports := s.ports.put k v }
  | .core k v => { s with cores := s.cores.put k v }
  | .cluster k v => { s with clusters := s.clusters.put k v }
  | .slice k v => { s with slices := s.slices.put k v }
  | .ctx k v => { s with ctxs := s.ctxs.put k v }
  | .queue k v => { s with queues := s.queues.put k v }
  | .seqr k v => { s with seqs := s.seqs.put k v }
  | .link k v => { s with links := s.links.put k v }
  | .route k v => { s with routes := s.routes.put k v }
  | .byte k v => { s with mem := Memory.write s.mem k v }
  | .fresh n => { s with fresh := n }
  | .reqs l => { s with reqs := l }
  | .slreqs l => { s with slreqs := l }
  | .slrels l => { s with slrels := l }
  | .dev d => { s with dev := d }
  | .wipe d =>
    { State.reset with tick := s.tick, now := s.now, agenda := s.agenda, fresh := s.fresh, dev := d,
                       mem := s.mem.filter fun c => outside s.dev.devno c.1 }

/-- The state after updates, in order. -/
def applyAll (us : List Upd) (s : State) : State := us.foldl Upd.apply s

/-- An action: the updates that it makes of a state. -/
abbrev Act := State → List Upd

/-- The state that an action leaves. -/
def State.after (s : State) (a : Act) : State := applyAll (a s) s

/-- No effect. -/
def Act.skip : Act := fun _ => []
/-- One action, then another on the state that it leaves. -/
def Act.seq (a b : Act) : Act := fun s =>
  let us := a s
  us ++ b (applyAll us s)
/-- Actions in order. -/
def Act.all : List Act → Act
  | [] => Act.skip
  | a :: as => Act.seq a (Act.all as)
/-- An action for each element, in order. -/
def Act.each {α : Type} (xs : List α) (f : α → Act) : Act := Act.all (xs.map f)
/-- An action under a condition. -/
def Act.when (c : Bool) (a : Act) : Act := fun s => if c then a s else []
/-- An action that depends on the state it starts from. -/
def Act.read (f : State → Act) : Act := fun s => f s s
/-- An action on what may be absent. -/
def Act.opt {α : Type} (x : Option α) (f : α → Act) : Act := fun s => match x with | some v => f v s | none => []
/-- An action that takes the next free number. -/
def Act.fresh (f : Nat → Act) : Act := fun s => Act.seq (fun s => [.fresh (s.fresh + 1)]) (f s.fresh) s

/-- Change a lane. -/
def updLane (k : LaneId) (f : Lane → Lane) : Act := fun s => match s.lanes.get? k with
  | some v => [.lane k (some (f v))] | none => []
/-- Change a crew. -/
def updCrew (k : CrewId) (f : Crew → Crew) : Act := fun s => match s.crews.get? k with
  | some v => [.crew k (some (f v))] | none => []
/-- Change a workgroup. -/
def updWg (k : Nat) (f : Wg → Wg) : Act := fun s => match s.wgs.get? k with
  | some v => [.wg k (some (f v))] | none => []
/-- Change a gang. -/
def updGang (k : Nat) (f : Gang → Gang) : Act := fun s => match s.gangs.get? k with
  | some v => [.gang k (some (f v))] | none => []
/-- Change a launch. -/
def updLaunch (k : Nat) (f : Launch → Launch) : Act := fun s => match s.launches.get? k with
  | some v => [.launch k (some (f v))] | none => []
/-- Change a context. -/
def updCtx (k : Nat) (f : Ctx → Ctx) : Act := fun s => match s.ctxs.get? k with
  | some v => [.ctx k (some (f v))] | none => []
/-- Change a work queue. -/
def updQueue (k : Nat) (f : WQ → WQ) : Act := fun s => match s.queues.get? k with
  | some v => [.queue k (some (f v))] | none => []
/-- Change a peloton slot. -/
def updPeloton (k : Nat × Nat) (f : Peloton → Peloton) : Act := fun s => [.peloton k (some (f (s.peloton k.1 k.2)))]
/-- Change a port. -/
def updPort (k : Nat) (f : Port → Port) : Act := fun s => [.port k (some (f (s.port k)))]
/-- Change a core. -/
def updCore (k : Nat) (f : Core → Core) : Act := fun s => [.core k (some (f (s.core k)))]
/-- Change a cluster. -/
def updCluster (k : Nat) (f : Cluster → Cluster) : Act := fun s => [.cluster k (some (f (s.cluster k)))]
/-- Change a slice. -/
def updSlice (k : Nat) (f : Slice → Slice) : Act := fun s => [.slice k (some (f (s.slice k)))]
/-- Change a sequencer. -/
def updSeqr (k : Nat) (f : Sequencer → Sequencer) : Act := fun s => [.seqr k (some (f (s.seqr k)))]
/-- Change a link. -/
def updLink (k : Nat) (f : Link → Link) : Act := fun s => [.link k (some (f (s.link k)))]
/-- Change what the device holds once. -/
def updDev (f : Dev → Dev) : Act := fun s => [.dev (f s.dev)]
/-- Change the requests under way. -/
def updReqs (f : List Req → List Req) : Act := fun s => [.reqs (f s.reqs)]
/-- Change the sluice requests. -/
def updSlReqs (f : List SlReq → List SlReq) : Act := fun s => [.slreqs (f s.slreqs)]
/-- Change the sluice releases. -/
def updSlRels (f : List SlRel → List SlRel) : Act := fun s => [.slrels (f s.slrels)]
/-- Change a tile. -/
def updTile (core n : Nat) (f : Tile → Tile) : Act :=
  updCore core fun c => { c with tiles := c.tiles.set n (f (c.tile n)) }
/-- Change a lane's parks. -/
def updParks (k : LaneId) (f : Parks → Parks) : Act := updLane k fun l => { l with parks := f l.parks }
/-- Store bytes from a memory key on. -/
def storeBytes (key : Nat) (bs : List Byte) : Act := fun s => bs.zipIdx.map fun b => .byte (s.phys (key + b.2)) b.1

/-- One of several outcomes that the spec allows (R5): the only one, or the one that a free value names. (log 5, DESIGN CHOICE) -/
def State.choose {α : Type} (s : State) (salt : Nat) (d : α) (xs : List α) : α :=
  match xs with
  | [] => d
  | [x] => x
  | x :: y :: r => ((x :: y :: r)[Config.pick s.tick salt % (r.length + 2)]?).getD d

/-- What happens together in an order that the spec leaves open (R5, R297): free values name it. (log 5, DESIGN CHOICE) -/
def State.anyOrder {α : Type} (s : State) (salt : Nat) (f : α → Nat) (xs : List α) : List α :=
  xs.mergeSort fun a b => decide (Config.pick s.tick (salt + f a) ≤ Config.pick s.tick (salt + f b))

/-! ### Where a lane runs -/

/-- A lane's core, peloton slot and %slot, as its workgroup is or was last placed (R439). -/
def State.place? (s : State) (k : LaneId) : Option (Nat × Nat × Nat) :=
  match s.wgs.get? k.wg with
  | none => none
  | some w => match w.place[k.idx / 16]? with
    | none => none
    | some (p, sp) => some (w.core, p, sp * 16 + k.idx % 16)

/-- %slot. -/
def State.slot (s : State) (k : LaneId) : Nat := match s.place? k with | some (_, _, n) => n | none => 0
/-- A lane's core. -/
def State.coreOf (s : State) (k : LaneId) : Nat := match s.wgs.get? k.wg with | some w => w.core | none => 0
/-- A lane's cluster (R10). -/
def State.clusterOf (s : State) (k : LaneId) : Nat := s.coreOf k / 4
/-- A lane's context. -/
def State.ctxOf (s : State) (k : LaneId) : Nat := match s.wgs.get? k.wg with | some w => w.ctx | none => 0
/-- A lane's gang. -/
def State.gangOf (s : State) (k : LaneId) : Nat := match s.wgs.get? k.wg with | some w => w.gang | none => 0
/-- A lane's crew (R183). -/
def State.crewOf (s : State) (k : LaneId) : CrewId :=
  match s.wgs.get? k.wg with
  | some w => ⟨k.wg, (w.crewOf[k.idx / 16]?).getD 0⟩
  | none => ⟨k.wg, 0⟩
/-- The lanes of a workgroup, by ascending %lane. -/
def State.wgLanes (s : State) (wg : Nat) : List LaneId :=
  match s.wgs.get? wg with
  | some w => (List.range w.desc.lanes).map fun i => ⟨wg, i⟩
  | none => []
/-- The lanes of a gang. -/
def State.gangLanes (s : State) (g : Nat) : List LaneId :=
  match s.gangs.get? g with
  | some v => v.wgs.flatMap s.wgLanes
  | none => []
/-- A property of a lane; a lane that does not exist has it not. -/
def State.laneIs (s : State) (k : LaneId) (p : Lane → Bool) : Bool := match s.lanes.get? k with
  | some l => p l | none => false
/-- A lane's PC. -/
def State.pcOf (s : State) (k : LaneId) : DWord := match s.lanes.get? k with | some l => l.pc | none => 0
/-- Has a lane exited, or is it no longer there? -/
def State.gone (s : State) (k : LaneId) : Bool := match s.lanes.get? k with | some l => l.exited | none => true
/-- The non-exited lanes of a workgroup. -/
def State.liveLanes (s : State) (wg : Nat) : List LaneId := (s.wgLanes wg).filter fun k => !s.gone k
/-- Lanes in ascending %slot. -/
def State.bySlot (s : State) (ks : List LaneId) : List LaneId :=
  ks.mergeSort fun a b => decide (s.slot a ≤ s.slot b)

/-- The lane that stands in an access of a host, of another device or of a sequencer: none. -/
def outsider : LaneId := ⟨2 ^ 64, 0⟩
/-- The cluster that stands in such an access: none. -/
def nowhere : Nat := 144

/-! ### Lanes that start -/

/-- A lane as it starts (R73, R115): `pc` is its entry, `stk` the base of its stack, `top` its stack pointer. -/
def Lane.start (pc stk top : DWord) (undo : Nat) : Lane :=
  { pc := pc, g := if top = 0 then [] else [(254, top.setWidth 32), (255, (top >>> 32).setWidth 32)], p := 0, parity := [],
    exited := false, exiting := false, latch := none, wait := 0, shortUntil := 0, parks := Parks.none, results := [],
    holds := [], regions := [], undoUse := 0, undoBase := undo, stkBase := stk, err := none, last := 0,
    trapLane := false, spawned := none, seq := 0, arrived := [], arriving := [], cpyw := 0, heldBy := none }

/-- A crew as it starts (R73, R110, R115). -/
def Crew.start (k : Map Nat Word) (lanes : List Nat) : Crew :=
  { k := k, flags := 0, farm := 0, tpc := 0, tcause := 0, lanes := lanes }

/-! ### Registers of a lane -/

/-- Predicate p(n); p0 is always true (R115). -/
def Lane.pred (l : Lane) (n : Nat) : Bool := n = 0 || l.p.getLsbD (n - 1)
/-- Write p(n); p0 never changes. -/
def Lane.setPred (l : Lane) (n : Nat) (v : Bool) : Lane :=
  if n = 0 then l
  else { l with p := (l.p &&& ~~~ BitVec.ofNat 15 (2 ^ (n - 1))) ||| (if v then BitVec.ofNat 15 (2 ^ (n - 1)) else 0) }
/-- g(n). -/
def Lane.reg (l : Lane) (n : Nat) : Word := l.g.getD n 0
/-- Write g(n); a write clears a parity mark (R423). -/
def Lane.setReg (l : Lane) (n : Nat) (v : Word) : Lane :=
  { l with g := l.g.set n v, parity := l.parity.filter fun m => decide (m ≠ n) }
/-- Write the register that an operand code names: g, p, or nothing for z (R29). -/
def Lane.write (l : Lane) (code : Nat) (v : Word) : Lane :=
  if code < 0x100 then l.setReg code v
  else if code < 0x110 then l.setPred (code - 0x100) (v != 0)
  else l
/-- Write several; results still outstanding learn which registers have been written meanwhile (R37). -/
def Lane.writes (l : Lane) (vs : List (Nat × Word)) : Lane :=
  vs.foldl (fun l v => l.write v.1 v.2)
    { l with results := l.results.map fun r => { r with late := r.late ++ vs.map (·.1) } }

/-- Set sticky flags of a lane's crew (R111); a crew whose lanes have all exited receives none. -/
def setFlags (k : LaneId) (f : BitVec 7) : Act := fun s =>
  if f = 0 then [] else
  let c := s.crewOf k
  match s.crews.get? c with
  | some v => if v.lanes.all fun i => s.gone ⟨k.wg, i⟩ then [] else [.crew c (some { v with flags := v.flags ||| f })]
  | none => []

/-! ### Requests and what must be performed first -/

/-- Has a request under way been performed? One whose reply is an STE's scale byte has its element's store to come (R244). -/
def Req.done (r : Req) : Bool := r.st == .replying && !r.acc.any fun a => match a.op with | .ste _ _ _ _ _ _ _ => true | _ => false
/-- The number of the issue that a request belongs to, which orders it among its lane's (R239): an STE's, for the store of its element. -/
def Req.rank (r : Req) : Nat := r.parent.getD r.id
/-- Was a request issued before another? -/
def Req.before (q r : Req) : Bool := decide (q.rank < r.rank) || (q.rank == r.rank && decide (q.id < r.id))
/-- Has a request, or a sluice release, been performed? -/
def State.performed (s : State) (id : Nat) : Bool :=
  (!s.reqs.any fun r => (r.id == id || r.parent == some id) && !r.done) && !s.slrels.any fun r => r.id == id
/-- Have all of several requests been performed? -/
def State.allPerformed (s : State) (ids : List Nat) : Bool := ids.all s.performed

/-! ### The record rings (R297, R298) -/

/-- Base, size exponent, producer index, consumer index and vector of a ring. -/
def Ctx.ring (c : Ctx) : Ring → Nat × Nat × Word × Word × Half
  | .fault => (c.fqb.toNat, c.fqs.toNat, c.fqpi, c.fqci, c.fvec)
  | .error => (c.eqb.toNat, c.eqs.toNat, c.eqpi, c.eqci, c.evec)
  | .completion => (c.cqb.toNat, c.cqs.toNat, c.cqpi, c.cqci, c.cvec)

/-- Has a ring room (R298)? -/
def Ctx.room (c : Ctx) (r : Ring) : Bool :=
  let (_, sz, pi, ci, _) := c.ring r
  decide ((pi - ci).toNat < 2 ^ sz)

/-- A producer index advanced by one, and the vector sent when it is enabled (R297). -/
def Ctx.bump (c : Ctx) (r : Ring) : Ctx :=
  let v := (c.ring r).2.2.2.2
  let c := if v.getLsbD 15 then { c with irqs := v.extractLsb' 0 11 :: c.irqs } else c
  match r with
  | .fault => { c with fqpi := c.fqpi + 1 }
  | .error => { c with eqpi := c.eqpi + 1 }
  | .completion => { c with cqpi := c.cqpi + 1 }

/-- Add a record to a ring that has room: its bytes, then the index (R297). -/
def writeRecord (ctx : Nat) (r : Ring) (v : Nat) : Act := fun s =>
  match s.ctxs.get? ctx with
  | none => []
  | some c =>
    let (base, sz, pi, _, _) := c.ring r
    Act.seq (storeBytes (base + pi.toNat % 2 ^ sz * 64) (bytesLE 64 v)) (updCtx ctx (·.bump r)) s

/-- The fields of an error record that its event names (R397). -/
structure ErrRec where
  ecode : Nat
  ctx : Nat
  coreNo : Nat := 0
  wg : Nat := 0
  iex : Bool := false
  cnt : Nat := 0
  lnum : Nat := 0
  gang : Nat := 0
  pc : Nat := 0
  addr : Nat := 0
  aux : Nat := 0
  deriving DecidableEq, Repr

/-- The 512 bits of an error record (R397). -/
def ErrRec.word (e : ErrRec) (lost : Nat) : Nat :=
  e.aux % 2 ^ 128 * 2 ^ 384 + e.addr % 2 ^ 64 * 2 ^ 320 + e.pc % 2 ^ 64 * 2 ^ 256 + e.gang % 2 ^ 32 * 2 ^ 224 +
    e.lnum % 2 ^ 32 * 2 ^ 192 + lost % 2 ^ 32 * 2 ^ 160 + e.cnt % 2 ^ 32 * 2 ^ 128 + e.ctx % 4096 * 2 ^ 32 +
    e.coreNo % 1024 * 2 ^ 22 + e.wg % 4 * 2 ^ 16 + (if e.iex then 2 ^ 15 else 0) + e.ecode % 256

/-- Write an error record, or count it lost when the ring is full (R298). -/
def writeError (e : ErrRec) : Act := fun s =>
  match s.ctxs.get? e.ctx with
  | none => []
  | some c =>
    if c.room .error then writeRecord e.ctx .error (e.word c.losterr.toNat) s
    else [.ctx e.ctx (some { c with losterr := c.losterr + 1 })]

/-- %launch, %gang and %wg of a workgroup. -/
def State.names (s : State) (wg : Nat) : Nat × Nat × Nat :=
  match s.wgs.get? wg with
  | none => (0, 0, 0)
  | some w =>
    match s.gangs.get? w.gang with
    | none => (0, 0, w.idx)
    | some g => ((match s.launches.get? g.launch with | some l => l.lnum.toNat | none => 0), g.idx, w.idx)

/-- The error record of an event that concerns a lane (R397). -/
def State.errOf (s : State) (k : LaneId) (ecode : Nat) (pc addr : Nat) : ErrRec :=
  let (l, g, w) := s.names k.wg
  { ecode := ecode, ctx := s.ctxOf k, coreNo := s.coreOf k, wg := w, iex := s.gone k, lnum := l, gang := g, pc := pc,
    addr := addr }

/-- Write a completion record, or keep it until the ring has room (R298). -/
def writeCompletion (ctx : Nat) (v : Nat) : Act := fun s =>
  match s.ctxs.get? ctx with
  | none => []
  | some c =>
    if c.room .completion && c.cwait.isEmpty then writeRecord ctx .completion v s
    else [.ctx ctx (some { c with cwait := c.cwait ++ [BitVec.ofNat 512 v] })]

/-! ### Fault records (R388 to R391) -/

/-- The head of a record as it is written: of a stopped command whose issuer has exited by then, IEX is 1 and MASK 0 (R388). -/
def FaultRec.headNow (f : FaultRec) (s : State) : Nat :=
  if f.issuer.any s.gone then (f.head.toNat - bits f.head.toNat 383 320 * 2 ^ 320) ||| 2 ^ 15 else f.head.toNat

/-- The detail slots of a record as it is written (R388). -/
def FaultRec.detailNow (f : FaultRec) (s : State) : List (Nat × DWord × Nat) := if f.issuer.any s.gone then [] else f.detail

/-- Write the oldest fault record that waits, when the ring has room: the detail block, then the head with FID (R388). -/
def writeWaitingFault (ctx : Nat) : Act := fun s =>
  match s.ctxs.get? ctx with
  | none => []
  | some c =>
    match c.faults.find? fun f => f.fid.isNone with
    | none => []
    | some f =>
      if !c.room .fault then [] else
      let at_ := c.fqb.toNat + 2 ^ c.fqs.toNat * 64 + c.fqpi.toNat % 2 ^ c.fqs.toNat * 1024
      let slot (i : Nat) : List Byte :=
        match (f.detailNow s).find? fun d => d.1 == i with
        | some (_, a, cause) => bytesLE 16 (a.toNat + cause * 2 ^ 64)
        | none => bytesLE 16 0
      Act.all [storeBytes at_ ((List.range 64).flatMap slot),
        writeRecord ctx .fault (f.headNow s + c.fqpi.toNat * 2 ^ 160),
        updCtx ctx fun c' => { c' with faults := (c'.faults.map fun g =>
          if g.num = f.num then { g with fid := some c.fqpi } else g).filter fun g =>
            g.num != f.num || g.cmd.isSome || !g.held.isEmpty }] s

/-- The head of a fault record without its FID (R388). -/
def faultHead (s : State) (wg pslot kind scause aux : Nat) (addr : DWord) (mask : Nat) (pc : DWord) (iex : Bool) : BitVec 512 :=
  let (l, g, w) := s.names wg
  let (ctx, coreNo) := match s.wgs.get? wg with | some v => (v.ctx, v.core) | none => (0, 0)
  BitVec.ofNat 512 (aux % 2 ^ 32 * 2 ^ 448 + addr.toNat * 2 ^ 384 + mask * 2 ^ 320 + pc.toNat * 2 ^ 256 + g % 2 ^ 32 * 2 ^ 224 +
    l % 2 ^ 32 * 2 ^ 192 + ctx % 4096 * 2 ^ 32 + coreNo % 1024 * 2 ^ 22 + pslot % 16 * 2 ^ 18 + w % 4 * 2 ^ 16 +
    (if iex then 2 ^ 15 else 0) + kind * 2 ^ 8 + scause)

/-- A lane that fails: its cause code and the address of its detail slot (R388). -/
structure Failing where
  lane : LaneId
  cause : Nat
  addr : DWord
  deriving DecidableEq, Repr

/-- The PSLOT of a lane. -/
def State.pslot (s : State) (k : LaneId) : Nat := match s.place? k with | some (_, p, _) => p | none => 0

/-- A matrix loop, a readout or an engine command of lane `k` is stopped at a boundary: one record, and the lane runs on
(R220, R321, R388). `mark` notes the record's number at the command. -/
def unitFault (kind unit id aux : Nat) (k : LaneId) (pc : DWord) (cause : Nat) (addr : DWord) (mark : Nat → Act) : Act := fun s =>
  Act.fresh (fun n => Act.all [
    mark n,
    updCtx (s.ctxOf k) fun c => { c with faults := c.faults ++ [
      { num := n, fid := none, kind := kind, gang := s.gangOf k, wg := k.wg, held := [], pc := pc, cmd := some (unit, id),
        head := faultHead s k.wg (s.pslot k) kind cause aux addr (2 ^ s.slot k) pc false,
        detail := [(s.slot k, addr, cause)], issuer := some k }] },
    writeWaitingFault (s.ctxOf k)]) s

/-- The record of a stopped command closes (R391, R406). A record that still waits for room is written first. -/
def closeRecord (ctx num : Nat) : Act := updCtx ctx fun c => { c with faults := (c.faults.map fun f =>
  if f.num = num then { f with held := [], cmd := none } else f).filter fun f => f.num != num || f.fid.isNone }

/-- One fault record that holds several lanes of one workgroup and peloton (R388, R390); they fault-park. (log 10, DEDUCED) -/
def faultRecord (kind aux : Nat) (fs : List Failing) : Act := fun s =>
  match fs.mergeSort fun a b => decide (s.slot a.lane ≤ s.slot b.lane) with
  | [] => []
  | f :: r =>
    let all := f :: r
    let mask := (all.map fun x => 2 ^ s.slot x.lane).foldl (· + ·) 0
    let scause := (all.map (·.cause)).foldl Nat.min 255
    let pc := s.pcOf f.lane
    let head := faultHead s f.lane.wg (s.pslot f.lane) kind scause aux f.addr mask pc false
    Act.fresh (fun n => Act.all [
      Act.each all fun x => updLane x.lane fun v => { v with parks := { v.parks with fault := true }, heldBy := some n },
      updCtx (s.ctxOf f.lane) fun c => { c with faults := c.faults ++ [
        { num := n, fid := none, kind := kind, gang := s.gangOf f.lane, wg := f.lane.wg,
          held := all.map fun x => (x.lane, s.slot x.lane, x.addr, x.cause), pc := pc, cmd := none, head := head,
          detail := all.map fun x => (s.slot x.lane, x.addr, x.cause), cycle := s.now }] },
      writeWaitingFault (s.ctxOf f.lane)]) s

/-- A lane to fault-park: the KIND and AUX of its record, and what the record says of it. -/
abbrev Parking := Nat × Nat × Failing

/-- What lanes that share a record have in common (R390): workgroup, peloton slot, PC, KIND and AUX. -/
def State.recordKey (s : State) (f : Parking) : Nat × Nat × DWord × Nat × Nat :=
  (f.2.2.lane.wg, s.pslot f.2.2.lane, s.pcOf f.2.2.lane, f.1, f.2.1)

/-- Fault-park lanes: one record for each workgroup, peloton and PC among them, in ascending order of the lowest %slot of its MASK
(R390). -/
def faultAll (fs : List Parking) : Act := fun s =>
  let sorted := fs.mergeSort fun a b => decide (s.slot a.2.2.lane ≤ s.slot b.2.2.lane)
  Act.each (sorted.map s.recordKey).reverse.dedup.reverse (fun k =>
    faultRecord k.2.2.2.1 k.2.2.2.2 ((sorted.filter fun f => decide (s.recordKey f = k)).map (·.2.2))) s

/-- A record of lanes that stopped: its core and peloton slot, and the lowest %slot of its MASK (R390). -/
def FaultRec.peloton (f : FaultRec) : Nat := bits f.head.toNat 31 18
/-- The lowest %slot of a record's MASK. -/
def FaultRec.lowest (f : FaultRec) : Nat := (f.detail.map (·.1)).foldl Nat.min 63

/-- Would the records that a step makes stand after those of the same cycle and peloton as R390 orders them? `t` is the state after. -/
def State.recordsFollow (s t : State) : Bool := t.ctxs.all fun c => c.2.faults.all fun f =>
  f.num < s.fresh || f.cmd.isSome || !(match s.ctxs.get? c.1 with | some d => d.faults | none => []).any fun g =>
    g.cmd.isNone && g.cycle == s.now && g.peloton == f.peloton && decide (f.lowest < g.lowest)

/-- A step whose records would enter the ring out of order does not happen (R390). (log 60, DEDUCED) -/
def recordsInOrder (a : Act) : Act := fun s => if s.recordsFollow (s.after a) then a s else []

/-- No lane has stopped with a record in this cycle. -/
def State.noneStopped (s : State) : Prop := ∀ ctx c, s.ctxs.get? ctx = some c → ∀ f ∈ c.faults, f.cmd = none → f.cycle ≠ s.now

/-- Fault-park lanes for one KIND and AUX. -/
def faultLanes (kind aux : Nat) (fs : List Failing) : Act := faultAll (fs.map fun f => (kind, aux, f))

/-- The record that holds a lane holds it no longer; a record that holds no lane any more closes (R391). -/
def unlist (k : LaneId) : Act := fun s =>
  updCtx (s.ctxOf k) (fun c => { c with faults := (c.faults.map fun f =>
    { f with held := f.held.filter fun h => decide (h.1 ≠ k) }).filter fun f => f.fid.isNone || f.cmd.isSome || !f.held.isEmpty }) s

/-- A lane leaves the hold of its fault record and the fault park (R391, R403). -/
def leaveRecord (k : LaneId) : Act :=
  Act.all [unlist k, updLane k fun l => { l with heldBy := none, parks := { l.parks with fault := false } }]

/-! ### Taking a trap and returning from one (R180, R392 to R395) -/

/-- A trap that a lane raises at its instruction: class, INFO, cause and resume PC (R392). -/
structure Raise where
  lane : LaneId
  cls : Nat
  info : Nat
  cause : Nat
  resume : DWord
  deriving DecidableEq, Repr

/-- TCAUSE (R392). -/
def tcauseOf (info cause cls : Nat) : Word := BitVec.ofNat 32 (info % 2 ^ 16 * 2 ^ 16 + cause % 256 * 256 + cls % 256)

/-- Has a crew an open trap? It has one while a lane of it is a trap lane (R180). -/
def State.trapOpen (s : State) (c : CrewId) : Bool :=
  match s.crews.get? c with
  | some v => v.lanes.any fun i => s.laneIs ⟨c.wg, i⟩ fun l => l.trapLane
  | none => false

/-- The trap closes when no trap lane remains: trap-pending lanes become ready at their instructions (R180). -/
def closeTrap (c : CrewId) : Act := fun s =>
  if s.trapOpen c then [] else
  match s.crews.get? c with
  | some v => Act.each v.lanes (fun i => updParks ⟨c.wg, i⟩ fun p => { p with trap := false }) s
  | none => []

/-- A lane stops being a trap lane (R180, R395, R403). -/
def leaveTrap (k : LaneId) : Act := fun s =>
  if s.laneIs k fun l => l.trapLane then
    Act.all [updLane k fun l => { l with trapLane := false }, closeTrap (s.crewOf k)] s
  else []

/-- Entry CLASS of a context's trap table, read at its home slice; 0 when there is no table (R368, R393). -/
def State.handler (s : State) (ctx cls : Nat) : Nat :=
  match s.ctxs.get? ctx with
  | none => 0
  | some c => if c.traptab = 0 then 0 else s.num (c.traptab.toNat + 8 * cls) 8

/-- The lanes of one crew that fault-park where they raise a trap in one step: without a handler in a KIND 7 record (R394), with a
misaligned one in a KIND 2 record (R393), and with a trap open a trap lane that raises again in a KIND 8 record (R395). -/
def State.trapFails (s : State) (c : CrewId) (rs : List Raise) : List Parking :=
  match rs.mergeSort fun a b => decide (s.slot a.lane ≤ s.slot b.lane) with
  | [] => []
  | r :: rest =>
    let all := r :: rest
    let h := s.handler (s.ctxOf r.lane) r.cls
    if s.trapOpen c then (all.filter fun x => s.laneIs x.lane fun l => l.trapLane).map fun x => (8, 0, ⟨x.lane, 0x41, s.pcOf x.lane⟩)
    else if h = 0 then all.map fun x => (7, r.cls, ⟨x.lane, 0x40, s.pcOf x.lane⟩)
    else if h % 4 ≠ 0 then all.map fun x => (2, 0, ⟨x.lane, 0x07, BitVec.ofNat 64 h⟩)
    else []

/-- Take a trap for the lanes of one crew that raise it in one step. `R180`: with no trap open the raising lanes at the
lowest PC are the trap lanes; each continues at the handler, TPC and TCAUSE are written, and the others wait
trap-pending. -/
def crewTrap (c : CrewId) (rs : List Raise) : Act := fun s =>
  match rs.mergeSort fun a b => decide (s.slot a.lane ≤ s.slot b.lane) with
  | [] => []
  | r :: rest =>
    let all := r :: rest
    let park (x : Raise) : Act := updParks x.lane fun p => { p with trap := true }
    if s.trapOpen c then Act.each all park s
    else
      let h := s.handler (s.ctxOf r.lane) r.cls
      if h = 0 ∨ h % 4 ≠ 0 then []
      else
        let low := (all.map fun x => (s.pcOf x.lane).toNat).foldl Nat.min (2 ^ 64)
        let taken := all.filter fun x => (s.pcOf x.lane).toNat == low
        let t := taken.headD r
        Act.all [
          updCrew c fun v => { v with tpc := t.resume, tcause := tcauseOf t.info t.cause t.cls },
          Act.each taken fun x => updLane x.lane fun l => { l with pc := BitVec.ofNat 64 h, latch := none, trapLane := true },
          Act.each (all.filter fun x => (s.pcOf x.lane).toNat != low) park] s

/-- Raise traps: crews trap independently (R180); the records of those that fault-park are in order (R390). -/
def raiseTraps (rs : List Raise) : Act := fun s =>
  let crews := (rs.map fun r => s.crewOf r.lane).dedup
  let of_ (c : CrewId) : List Raise := rs.filter fun r => s.crewOf r.lane = c
  Act.all [Act.each crews fun c => crewTrap c (of_ c), faultAll (crews.flatMap fun c => s.trapFails c (of_ c))] s

/-- Is a lane one that took the trap it raised, rather than one that waits or fault-parks? -/
def State.took (s : State) (k : LaneId) : Bool := s.laneIs k fun l => l.trapLane && !l.parks.trap && !l.parks.fault

/-- Return from a trap (R181): a trap lane resumes at its crew's TPC and stops being a trap lane; a misaligned TPC and a
lane that is no trap lane fault-park at the TRET. -/
def returnFromTrap (ks : List LaneId) : Act := fun s =>
  let tpc (k : LaneId) : DWord := match s.crews.get? (s.crewOf k) with | some v => v.tpc | none => 0
  let isTrap (k : LaneId) : Bool := s.laneIs k fun l => l.trapLane
  let ok := ks.filter fun k => isTrap k && (tpc k).toNat % 4 == 0
  let bad := ks.filterMap fun k =>
    if !isTrap k then some ⟨k, 0x0B, s.pcOf k⟩
    else if (tpc k).toNat % 4 ≠ 0 then some ⟨k, 0x07, tpc k⟩
    else none
  Act.all [
    Act.each ok fun k => updLane k fun l => { l with pc := tpc k, latch := none, trapLane := false },
    Act.each (ok.map s.crewOf).dedup closeTrap,
    faultLanes 2 0 bad] s

/-- Sluice requests are withdrawn; the WQ bits of their sluices are examined (R279). An SLTRY's, which waits nowhere, still comes to its
decision. -/
def withdrawSluices (p : SlReq → Bool) : Act := fun s =>
  let out (r : SlReq) : Bool := p r && r.try_.isNone
  Act.when (s.slreqs.any out) (Act.all [
    updSlReqs fun rs => rs.filter fun r => !out r,
    updDev fun d => { d with wq := (d.wq ++ (s.slreqs.filter out).map (·.key)).dedup }]) s

/-! ### Detected errors (R402 to R404) -/

/-- The innermost region with a retry left, and the records outside it with it (R404). -/
def retryable : List Region → Option (List Region)
  | [] => none
  | r :: rs => if r.rtry.toNat < r.rlim.toNat then some (r :: rs) else retryable rs

/-- A gang's kill is decided, unless it is already or the gang has ended (R410). -/
def decideKill (g : Nat) (pc : DWord) : Act := updGang g fun v =>
  if v.ended || v.kill.isSome then v else { v with kill := some pc }

/-- A result that will not come is no longer outstanding. -/
def dropResult (k : LaneId) (id : Nat) : Act := updLane k fun l => { l with results := l.results.filter fun x => x.id != id }

/-- An engine command that has not fired is withdrawn (R406). (log 42, DEDUCED) -/
def withdrawCmd (cl : Nat) (m : Cmd) : Act := Act.all [
  updCluster cl fun c => { c with cmds := c.cmds.filter fun o => o.id != m.id },
  match m.kind with
  | .nz _ _ _ _ _ _ (some res) _ _ => dropResult m.lane res
  | _ => Act.skip]

/-- The result that the queue wait of a lane will bring, if any. -/
def State.waitRes (s : State) (k : LaneId) (q : QueuePark) : Option Nat := match q with
  | .ditch op => ((s.cluster (s.clusterOf k)).dops.find? fun o => o.id == op).bind fun o => match o.kind with
      | .pop _ _ _ _ r => some r
      | _ => none
  | .take _ r _ | .push _ _ _ r _ | .pop _ _ r _ | .spawn _ _ _ r _ _ => some r
  | .stream _ | .matrix _ | .join _ _ _ _ _ => none

/-- The queue wait of a lane is withdrawn (R308, R343, R403): nothing has been pushed, taken or spawned. A parked workgroup
(`all` false) keeps the places of its commands and its TJWAIT. (log 42, DEDUCED) -/
def withdrawQueue (k : LaneId) (all : Bool) : Act := fun s =>
  match (s.lanes.get? k).bind fun l => l.parks.queue with
  | none => []
  | some q =>
    let leave : Act := Act.all [Act.opt (s.waitRes k q) (dropResult k), updParks k fun p => { p with queue := none }]
    match q with
    | .ditch op => Act.all [updCluster (s.clusterOf k) fun c => { c with dops := c.dops.filter fun o => o.id != op }, leave] s
    | .take _ _ _ | .push _ _ _ _ _ | .pop _ _ _ _ | .spawn _ _ _ _ _ _ => leave s
    | .stream cmd => Act.when all (Act.all [
        Act.opt ((s.cluster (s.clusterOf k)).cmds.find? fun o => o.id == cmd) (withdrawCmd (s.clusterOf k)), leave]) s
    | .matrix cmd => Act.when all (Act.all [
        updCore (s.coreOf k) fun c => { c with mq := c.mq.filter fun o => o.id != cmd }, leave]) s
    | .join _ _ _ _ _ => Act.when all leave s

/-- Every park of a lane is cancelled (R403): a collective park as R189 does it, a barrier arrival is withdrawn
(R381), queue, sluice and saddle waits are withdrawn, the fault record lets go of the lane, and a trap lane counts as
having returned. (log 42, DEDUCED) -/
def cancelParks (k : LaneId) : Act := fun s =>
  match s.lanes.get? k with
  | none => []
  | some l =>
    Act.all [
      withdrawQueue k true,
      Act.each l.parks.acq fun a => match a with
        | .sluice id => withdrawSluices fun r => r.id == id
        | .saddle =>
          let others := match s.crews.get? (s.crewOf k) with
            | some v => v.lanes.any fun i => i != k.idx && s.laneIs ⟨k.wg, i⟩ fun l => l.parks.acq.contains .saddle
            | none => false
          Act.when (!others) (updCore (s.coreOf k) fun c => { c with requests := c.requests.filter fun q => q != s.crewOf k }),
      if l.parks.fault then leaveRecord k else Act.skip,
      leaveTrap k,
      updLane k fun l => { l with
        parks := Parks.none, arrived := [], exiting := false,
        results := l.results.filter fun r => match l.parks.coll with | some c => c.res != some r.id | none => true,
        arriving := l.arriving.filter fun a => match a with | .barrier _ _ _ => false | .weir .. => true }] s

/-- The PC of a lane when an error that it did not raise itself is taken: a lane that is parked at an instruction that waits
stands at that instruction. (log 42, DEDUCED) -/
def State.errPc (s : State) (k : LaneId) : DWord :=
  match s.lanes.get? k with
  | none => 0
  | some l =>
    let p := l.parks
    if p.wait.any (fun w => decide (w ≠ .results)) || p.coll.isSome || p.bar.isSome || p.weir.isSome || !p.acq.isEmpty ||
      p.queue.isSome then l.pc - 12 else l.pc

/-- The PC of an error found in a command or an access of a lane that issued at `pc` (R397, R412): that of the lane when the error is
taken, and the issuing PC once the lane has exited. (log 42, DEDUCED) -/
def State.unitPc (s : State) (k : LaneId) (pc : DWord) : DWord := if s.gone k then pc else s.errPc k

/-- A detected error of a lane is taken (R402, R403). An exited lane's goes to the error ring (R396); one of a lane
whose workgroup is parked stays pending until activation; one found while another is pending is absorbed. Where no
region can be retried the gang's kill is decided (R404). (log 22, DEDUCED; log 42, DEDUCED) -/
def takeError (k : LaneId) (source code : Nat) (pc : DWord) : Act := fun s =>
  match s.lanes.get? k with
  | none => writeError (s.errOf k 0x05 pc.toNat 0) s
  | some l =>
    if l.exited then writeError (s.errOf k 0x05 pc.toNat 0) s
    else if l.err.isSome then []
    else
      let active := match s.wgs.get? k.wg with | some w => w.active | none => false
      Act.all [
        Act.when active (cancelParks k),
        updLane k fun l => { l with err := some { source := source, code := code, pc := pc } },
        Act.when (active && (retryable l.regions).isNone) (decideKill (s.gangOf k) pc)] s

end Sys2Proof.Machine
end

