-- ==== Sys2Proof/Machine/Crypto.lean ====
section
/-! DEFINITION. Machine/Crypto.lean: the public algorithms that the spec names for signatures and digests (R85, R436, R437): SHA-256,
Ed25519 of RFC 8032 and ML-DSA-65 of FIPS 204. (log 65, PRESUMED) -/

namespace Sys2Proof.Machine

open Sys2Proof

/-! ### SHA-2 -/

/-- The integer part of the `k`-th root of a number below `2 ^ (k * bits)`. -/
def rootOf (k n : Nat) : Nat → Nat → Nat
  | 0, r => r
  | i + 1, r => rootOf k n i (if (r + 2 ^ i) ^ k ≤ n then r + 2 ^ i else r)

/-- The first primes below a bound. -/
def primesBelow (n : Nat) : List Nat := (List.range n).filter fun p => decide (2 ≤ p) && (List.range p).all fun d => decide (d < 2) || p % d != 0

/-- `w` bits of the fraction of the `k`-th root of a small number. -/
def rootFraction (k w p : Nat) : Nat := rootOf k (p * 2 ^ (k * w)) (w + 6) 0 % 2 ^ w

/-- A member of the SHA-2 family: word width, rounds, and the distances of its functions. -/
structure Sha2 where
  w : Nat
  rounds : Nat
  e : List Nat
  a : List Nat
  s0 : List Nat × Nat
  s1 : List Nat × Nat

/-- SHA-256. -/
def Sha2.s256 : Sha2 := { w := 32, rounds := 64, e := [6, 11, 25], a := [2, 13, 22], s0 := ([7, 18], 3), s1 := ([17, 19], 10) }
/-- SHA-512. -/
def Sha2.s512 : Sha2 := { w := 64, rounds := 80, e := [14, 18, 41], a := [28, 34, 39], s0 := ([1, 8], 7), s1 := ([19, 61], 6) }

/-- Rotate to the right. -/
def Sha2.rot (h : Sha2) (x n : Nat) : Nat := x / 2 ^ n + x % 2 ^ n * 2 ^ (h.w - n)
/-- The exclusive or of rotations. -/
def Sha2.rots (h : Sha2) (x : Nat) (ns : List Nat) : Nat := ns.foldl (fun v n => v ^^^ h.rot x n) 0

/-- The words of a block's schedule, the last one first. -/
def Sha2.extend (h : Sha2) : Nat → List Nat → List Nat
  | 0, ws => ws
  | n + 1, ws =>
    let back (i : Nat) : Nat := (ws[i - 1]?).getD 0
    let mix (x : Nat) (d : List Nat × Nat) : Nat := h.rots x d.1 ^^^ (x / 2 ^ d.2)
    h.extend n ((mix (back 2) h.s1 + back 7 + mix (back 15) h.s0 + back 16) % 2 ^ h.w :: ws)

/-- One round on the eight working words. -/
def Sha2.round (h : Sha2) (v : List Nat) (kw : Nat) : List Nat := match v with
  | [a, b, c, d, e, f, g, x] =>
    let t := x + h.rots e h.e + ((e &&& f) ^^^ ((2 ^ h.w - 1 - e) &&& g)) + kw
    let u := h.rots a h.a + ((a &&& b) ^^^ (a &&& c) ^^^ (b &&& c))
    [(t + u) % 2 ^ h.w, a, b, c, (d + t) % 2 ^ h.w, e, f, g]
  | _ => v

/-- One block. -/
def Sha2.block (h : Sha2) (ks : List Nat) (v : List Nat) (words : List Nat) : List Nat :=
  let ws := (h.extend (h.rounds - 16) words.reverse).reverse
  ((ks.zip ws).foldl (fun u x => h.round u (x.1 + x.2)) v).zipWith (fun x y => (x + y) % 2 ^ h.w) v

/-- The number of a list of bytes, the most significant first. -/
def natBE (bs : List Byte) : Nat := bs.foldl (fun n b => n * 256 + b.toNat) 0

/-- Chunks of `n` items of a list; `m` bounds their number. -/
def chunks {α : Type} (n : Nat) : Nat → List α → List (List α)
  | 0, _ => []
  | m + 1, xs => if xs.isEmpty then [] else xs.take n :: chunks n m (xs.drop n)

/-- The digest of a message. -/
def Sha2.digest (h : Sha2) (msg : List Byte) : List Byte :=
  let z := h.w / 8
  let ps := primesBelow 410
  let len := (bytesLE (2 * z) (8 * msg.length)).reverse
  let fill := (16 * z - (msg.length + 1 + 2 * z) % (16 * z)) % (16 * z)
  let blocks := chunks (16 * z) (msg.length / (16 * z) + 2) (msg ++ [0x80] ++ List.replicate fill 0 ++ len)
  let out := blocks.foldl (fun v b => h.block ((ps.take h.rounds).map (rootFraction 3 h.w)) v ((chunks z 16 b).map natBE))
    ((ps.take 8).map (rootFraction 2 h.w))
  out.flatMap fun x => (bytesLE z x).reverse

/-- SHA-256 of bytes. -/
def sha256 (msg : List Byte) : List Byte := Sha2.s256.digest msg

/-- The identifier of an encoded public key: the first 8 bytes of its SHA-256 (R85). -/
def keyId (key : List Byte) : Nat := natLE ((sha256 key).take 8)

/-! ### Keccak -/

/-- Rotate a lane to the left. -/
def rotLane (x n : Nat) : Nat := x * 2 ^ (n % 64) % 2 ^ 64 + x / 2 ^ (64 - n % 64)

/-- A step of the shift register that gives the round constants. -/
def lfsr (r : Nat) : Nat := if 128 ≤ r then (2 * r % 256) ^^^ 0x71 else 2 * r

/-- The lane (x, y) of a state of 25. -/
def laneAt (a : List Nat) (x y : Nat) : Nat := (a[x % 5 + 5 * (y % 5)]?).getD 0

/-- The distances and places of rho and pi: for each lane its new index and its rotation. -/
def rhoPi : List (Nat × Nat × Nat) :=
  (0, 0, 0) :: ((List.range 24).foldl (fun (v : List (Nat × Nat × Nat) × (Nat × Nat)) t =>
    let (x, y) := v.2
    (v.1 ++ [(x + 5 * y, y + 5 * ((2 * x + 3 * y) % 5), (t + 1) * (t + 2) / 2)], (y, (2 * x + 3 * y) % 5))) ([], (1, 0))).1

/-- One round of Keccak-f[1600] with its constant. -/
def keccakRound (a : List Nat) (rc : Nat) : List Nat :=
  let c (x : Nat) : Nat := (List.range 5).foldl (fun v y => v ^^^ laneAt a x y) 0
  let cs := (List.range 5).map c
  let d (x : Nat) : Nat := (cs[(x + 4) % 5]?).getD 0 ^^^ rotLane ((cs[(x + 1) % 5]?).getD 0) 1
  let ds := (List.range 5).map d
  let b := (List.range 25).map fun i => match rhoPi.find? fun m => m.2.1 == i with
    | some (from_, _, n) => rotLane ((a[from_]?).getD 0 ^^^ (ds[from_ % 5]?).getD 0) n
    | none => 0
  (List.range 25).map fun i =>
    let at_ (k : Nat) : Nat := laneAt b (i + k) (i / 5)
    let x := at_ 0 ^^^ ((2 ^ 64 - 1 - at_ 1) &&& at_ 2)
    if i = 0 then x ^^^ rc else x

/-- The permutation. -/
def keccak (a : List Nat) : List Nat :=
  ((List.range 24).foldl (fun (v : List Nat × Nat) _ =>
    let step := (List.range 7).foldl (fun (u : Nat × Nat) j => (if u.2 % 2 = 1 then u.1 + 2 ^ (2 ^ j - 1) else u.1, lfsr u.2)) (0, v.2)
    (keccakRound v.1 step.1, step.2)) (a, 1)).1

/-- SHAKE of a rate in bytes: `n` blocks of output. -/
def shake (rate : Nat) (msg : List Byte) (n : Nat) : List Byte :=
  let q := rate - msg.length % rate
  let pad : List Byte := if q = 1 then [0x9F] else [0x1F] ++ List.replicate (q - 2) 0 ++ [0x80]
  let start := (chunks rate (msg.length / rate + 1) (msg ++ pad)).foldl (fun a b =>
    keccak ((a.zip ((chunks 8 25 (b ++ List.replicate (200 - rate) 0)).map natLE)).map fun x => x.1 ^^^ x.2)) (List.replicate 25 0)
  ((List.range n).foldl (fun (v : List (List Byte) × List Nat) _ => (v.1 ++ [(v.2.flatMap (bytesLE 8)).take rate], keccak v.2)) ([], start)).1.flatten

/-- SHAKE128 and SHAKE256, by blocks of output. -/
def shake128 : List Byte → Nat → List Byte := shake 168
/-- SHAKE256. -/
def shake256 : List Byte → Nat → List Byte := shake 136

/-! ### Ed25519 (RFC 8032) -/

/-- A power modulo a number; `n` bounds the bits of the exponent. -/
def powMod (m b : Nat) : Nat → Nat → Nat
  | 0, _ => 1
  | n + 1, e => let h := powMod m b n (e / 2); if e % 2 = 1 then h * h % m * b % m else h * h % m

/-- The field's prime. -/
def edP : Nat := 2 ^ 255 - 19
/-- The order of the base point. -/
def edL : Nat := 2 ^ 252 + 27742317777372353535851937790883648493
/-- An inverse in the field. -/
def edInv (x : Nat) : Nat := powMod edP x 256 (edP - 2)
/-- The curve's constant: -121665/121666. -/
def edD : Nat := (edP - 121665) * edInv 121666 % edP

/-- A point as X, Y, Z and T with x = X/Z, y = Y/Z, xy = T/Z. -/
abbrev EdPoint := Nat × Nat × Nat × Nat

/-- The sum of two points. -/
def edAdd (p q : EdPoint) : EdPoint :=
  let (x1, y1, z1, t1) := p
  let (x2, y2, z2, t2) := q
  let a := (y1 + edP - x1) * (y2 + edP - x2) % edP
  let b := (y1 + x1) * (y2 + x2) % edP
  let c := 2 * t1 * t2 % edP * edD % edP
  let d := 2 * z1 * z2 % edP
  let (e, f, g, h) := (b + edP - a, d + edP - c, d + c, b + a)
  (e * f % edP, g * h % edP, f * g % edP, e * h % edP)

/-- A multiple of a point; `n` bounds the bits of the factor. -/
def edMul (p : EdPoint) : Nat → Nat → EdPoint
  | 0, _ => (0, 1, 1, 0)
  | n + 1, k => let h := edMul p n (k / 2); let h := edAdd h h; if k % 2 = 1 then edAdd h p else h

/-- Are two points the same? -/
def edSame (p q : EdPoint) : Bool := p.1 * q.2.2.1 % edP == q.1 * p.2.2.1 % edP && p.2.1 * q.2.2.1 % edP == q.2.1 * p.2.2.1 % edP

/-- The point that 32 bytes encode (RFC 8032, 5.1.3). -/
def edDecode (bs : List Byte) : Option EdPoint :=
  let n := natLE bs
  let y := n % 2 ^ 255
  let u := (y * y + edP - 1) % edP
  let v := (edD * (y * y % edP) + 1) % edP
  let x := u * edInv v % edP
  let r := powMod edP x 256 ((edP + 3) / 8)
  let r := if r * r % edP = x then r else r * powMod edP 2 256 ((edP - 1) / 4) % edP
  if bs.length ≠ 32 ∨ edP ≤ y ∨ r * r % edP ≠ x ∨ (r = 0 ∧ n / 2 ^ 255 = 1) then none
  else
    let r := if r % 2 = n / 2 ^ 255 then r else edP - r
    some (r, y, 1, r * y % edP)

/-- The base point. -/
def edBase : EdPoint := (edDecode (bytesLE 32 (4 * edInv 5 % edP))).getD (0, 1, 1, 0)

/-- Does an Ed25519 signature of a message verify under an encoded public key (RFC 8032, 5.1.7)? -/
def ed25519 (key msg sig : List Byte) : Bool :=
  let s := natLE (sig.drop 32)
  match edDecode key, edDecode (sig.take 32) with
  | some a, some r =>
    let k := natLE (Sha2.s512.digest (sig.take 32 ++ key ++ msg)) % edL
    sig.length == 64 && decide (s < edL) && edSame (edMul (edMul edBase 256 s) 4 8) (edMul (edAdd r (edMul a 256 k)) 4 8)
  | _, _ => false

/-! ### ML-DSA-65 (FIPS 204) -/

/-- The modulus. -/
def dsaQ : Nat := 8380417
/-- A polynomial of 256 coefficients. -/
abbrev Poly := List Nat

/-- Eight bits in reverse. -/
def rev8 (i : Nat) : Nat := (List.range 8).foldl (fun v b => 2 * v + i / 2 ^ b % 2) 0
/-- The points at which a transformed polynomial gives its values. -/
def dsaPoints : List Nat := (List.range 256).map fun i => powMod dsaQ 1753 9 (2 * rev8 i + 1)
/-- The values of a polynomial at those points: its transform. -/
def dsaNtt (a : Poly) : Poly := dsaPoints.map fun x => a.foldr (fun c v => (v * x + c) % dsaQ) 0
/-- The polynomial of a transform. -/
def dsaInv (a : Poly) : Poly :=
  let inv := powMod dsaQ 256 24 (dsaQ - 2)
  let back := dsaPoints.map fun x => powMod dsaQ x 24 (dsaQ - 2)
  ((List.range 256).foldl (fun (v : List Nat × List Nat) _ =>
    (v.1 ++ [(v.2.foldl (fun t c => (t + c) % dsaQ) 0) * inv % dsaQ], v.2.zipWith (fun c x => c * x % dsaQ) back)) ([], a)).1

/-- The sum of products of transformed polynomials. -/
def dsaDot (xs ys : List Poly) : Poly :=
  (xs.zip ys).foldl (fun v x => v.zipWith (fun t p => (t + p) % dsaQ) (x.1.zipWith (fun a b => a * b % dsaQ) x.2)) (List.replicate 256 0)

/-- A transformed polynomial of the matrix, from its seed. -/
def dsaSample (seed : List Byte) : Poly :=
  (((chunks 3 1024 (shake128 seed 12)).map fun b => natLE b % 2 ^ 23).filter fun v => decide (v < dsaQ)).take 256

/-- The challenge polynomial of a hash, with 49 coefficients of 1 and -1. -/
def dsaBall (hash : List Byte) : Poly :=
  let stream := shake256 hash 4
  let signs := natLE (stream.take 8)
  ((List.range 49).foldl (fun (v : Poly × List Byte) n =>
    let i := 207 + n
    let rest := v.2.dropWhile fun b => decide (i < b.toNat)
    let j := (rest.headD 0).toNat
    ((v.1.set i ((v.1[j]?).getD 0)).set j (if signs / 2 ^ n % 2 = 1 then dsaQ - 1 else 1), rest.drop 1))
    (List.replicate 256 0, stream.drop 8)).1

/-- Numbers of `w` bits packed in bytes. -/
def unpackBits (w n : Nat) (bs : List Byte) : List Nat := let v := natLE bs; (List.range n).map fun i => v / 2 ^ (w * i) % 2 ^ w

/-- The hint of a signature: for each of the six polynomials the places that it marks; none where its encoding is not canonical. -/
def dsaHint (bs : List Byte) : Option (List (List Nat)) :=
  let ps := (bs.take 55).map (·.toNat)
  let ends := ((bs.drop 55).map (·.toNat)).take 6
  let from_ := 0 :: ends
  let parts := (from_.zip ends).map fun x => (ps.take x.2).drop x.1
  let rising (xs : List Nat) : Bool := (xs.zip (xs.drop 1)).all fun x => decide (x.1 < x.2)
  if (from_.zip ends).all (fun x => decide (x.1 ≤ x.2) && decide (x.2 ≤ 55)) && parts.all rising && (ps.drop (ends.getLastD 0)).all (· == 0)
  then some parts else none

/-- The high part of a coefficient, moved by its hint. -/
def dsaHigh (hint : Bool) (r : Nat) : Nat :=
  let a := 523776
  let low := r % a
  -- the low part is at most half of `a`, else it is taken as negative and the high part is one more; q - 1 is 16 times `a`
  let up := decide (a / 2 < low)
  let high := (r / a + (if up then 1 else 0)) % 16
  if !hint then high else if !up && decide (0 < low) then (high + 1) % 16 else (high + 15) % 16

/-- Does an ML-DSA-65 signature of a message verify under an encoded public key, with an empty context string (FIPS 204, 5.3 and 6.3)? -/
def mlDsa65 (key msg sig : List Byte) : Bool :=
  let rho := key.take 32
  let t1 := (chunks 320 6 (key.drop 32)).map (unpackBits 10 256)
  let hash := sig.take 48
  let zs := ((chunks 640 5 ((sig.drop 48).take 3200)).map (unpackBits 20 256))
  match dsaHint (sig.drop 3248) with
  | none => false
  | some hints =>
    let small := zs.all fun z => z.all fun v => decide (196 < v) && decide (v < 1048380)
    let tr := (shake256 key 1).take 64
    let mu := (shake256 (tr ++ [0, 0] ++ msg) 1).take 64
    let c := dsaNtt (dsaBall hash)
    let zh := zs.map fun z => dsaNtt (z.map fun v => (2 ^ 19 + dsaQ - v) % dsaQ)
    let w := (t1.zip hints).zipIdx.map fun x =>
      let row := (List.range 5).map fun j => dsaSample (rho ++ [BitVec.ofNat 8 j, BitVec.ofNat 8 x.2])
      let ct := (dsaNtt (x.1.1.map fun t => t * 8192 % dsaQ)).zipWith (fun t u => t * u % dsaQ) c
      let r := dsaInv ((dsaDot row zh).zipWith (fun a b => (a + dsaQ - b) % dsaQ) ct)
      r.zipIdx.map fun v => dsaHigh (x.1.2.contains v.2) v.1
    let packed := w.flatMap fun p => (chunks 2 128 p).map fun v => BitVec.ofNat 8 ((v[0]?).getD 0 + 16 * (v[1]?).getD 0)
    key.length == 1952 && sig.length == 3309 && small && (shake256 (mu ++ packed) 1).take 48 == hash

end Sys2Proof.Machine
end

