-- ==== Sys2Proof/Machine/Flags.lean ====
section
/-! DEFINITION. Machine/Flags.lean: the sticky flags (R110, R111), the number formats (R96 to R101), rounding (R105),
range and saturation (R106 to R109), and exact arithmetic on values. A rounding mode is its MIN code: 0 RNE, 1 RTZ,
2 RDN, 3 RUP. -/

namespace Sys2Proof

/-! ### Types -/

/-- The width of a type. -/
def Typ.width : Typ → Nat
  | .s64 | .n64 => 64 | .s16 | .n16 | .f16 | .bf16 => 16 | .s8 | .n8 | .e4m3 | .e5m2 | .ds8 => 8 | .mx4 => 4 | _ => 32

/-- Least value of an integer type. -/
def Typ.lo (t : Typ) : Int := if t.isSigned then -(2 ^ (t.width - 1) : Nat) else 0
/-- Greatest value of an integer type. -/
def Typ.hi (t : Typ) : Int := if t.isSigned then (2 ^ (t.width - 1) : Nat) - 1 else (2 ^ t.width : Nat) - 1

/-- The value of the low bits of a word as a type (R95, R126). -/
def Typ.value (t : Typ) (v : Nat) : Int :=
  if t.isSigned then Machine.signed (t.width) v else ((v % 2 ^ t.width : Nat) : Int)

/-- The register words of a value of a type: extended to 32 bits (R95), or a pair, low word first (R31). -/
def Typ.words (t : Typ) (v : Int) : List Word :=
  if t.is64 then [Machine.wrapTo 32 v, Machine.wrapTo 32 (v / 2 ^ 32)]
  else if t.width < 32 then [Machine.wrapTo 32 (t.value (v % 2 ^ t.width).toNat)]
  else [Machine.wrapTo 32 v]

/-- Is a page format block-scaled? -/
def Typ.scaled (p : Typ) : Bool := p == .mx4 || p == .ds8

end Sys2Proof

namespace Sys2Proof.Machine

open Sys2Proof

/-! ### Flags (R110) -/

/-- SAT. -/
def fSAT : BitVec 7 := 1
/-- OVF. -/
def fOVF : BitVec 7 := 2
/-- INV. -/
def fINV : BitVec 7 := 4
/-- DZ. -/
def fDZ : BitVec 7 := 8
/-- ALT. -/
def fALT : BitVec 7 := 16
/-- ACO. -/
def fACO : BitVec 7 := 32
/-- BND. -/
def fBND : BitVec 7 := 64
/-- A flag under a condition. -/
def flagIf (c : Bool) (f : BitVec 7) : BitVec 7 := if c then f else 0

/-! ### Forms (R96) -/

/-- A floating-point form: mantissa width, bias, and the largest finite value as kmax · 2^qmax. -/
structure FForm where
  width : Nat
  man : Nat
  bias : Nat
  kmax : Nat
  qmax : Int
  /-- has infinities -/
  inf : Bool
  /-- has NaNs -/
  nan : Bool
  canon : Nat
  deriving DecidableEq, Repr

/-- binary32. -/
def formF32 : FForm := ⟨32, 23, 127, 2 ^ 24 - 1, 104, true, true, 0x7FC00000⟩
/-- binary16. -/
def formF16 : FForm := ⟨16, 10, 15, 2 ^ 11 - 1, 5, true, true, 0x7E00⟩
/-- bfloat16. -/
def formBF16 : FForm := ⟨16, 7, 127, 255, 120, true, true, 0x7FC0⟩
/-- E4M3. -/
def formE4M3 : FForm := ⟨8, 3, 7, 14, 5, false, true, 0x7F⟩
/-- E5M2. -/
def formE5M2 : FForm := ⟨8, 2, 15, 7, 13, true, true, 0x7E⟩
/-- E2M1. -/
def formE2M1 : FForm := ⟨4, 1, 1, 3, 1, false, false, 0⟩

/-- The form of a floating type; F32 for the others. -/
def formOf : Typ → FForm
  | .f16 => formF16 | .bf16 => formBF16 | .e4m3 => formE4M3 | .e5m2 => formE5M2 | .mx4 => formE2M1 | _ => formF32

/-- The exponent of the least quantum: 1 − bias − M. -/
def FForm.qmin (f : FForm) : Int := 1 - (f.bias : Int) - (f.man : Int)

/-- A value: a NaN (signalling or quiet), an infinity, or (−1)^neg · m · 2^e exactly. -/
inductive FV where
  | nan (sig : Bool)
  | inf (neg : Bool)
  | fin (neg : Bool) (m : Nat) (e : Int)
  deriving DecidableEq, Repr, Inhabited

/-- The value of an encoding (R96, R97). -/
def FForm.decode (f : FForm) (bs : Nat) : FV :=
  let m := bs % 2 ^ f.man
  let ew := f.width - 1 - f.man
  let e := bs / 2 ^ f.man % 2 ^ ew
  let neg := bs / 2 ^ (f.width - 1) % 2 = 1
  if f.inf && e == 2 ^ ew - 1 then
    if m = 0 then .inf neg else .nan (m / 2 ^ (f.man - 1) % 2 = 0)
  else if !f.inf && f.nan && e == 2 ^ ew - 1 && m == 2 ^ f.man - 1 then .nan false
  else if e = 0 then .fin neg m f.qmin
  else .fin neg (2 ^ f.man + m) (f.qmin + (e : Int) - 1)

/-- Is it a NaN? -/
def FV.isNan : FV → Bool
  | .nan _ => true
  | _ => false
/-- Is it a signalling NaN? -/
def FV.isSig : FV → Bool
  | .nan s => s
  | _ => false
/-- Is it an infinity? -/
def FV.isInf : FV → Bool
  | .inf _ => true
  | _ => false
/-- Is it a zero? -/
def FV.isZero : FV → Bool
  | .fin _ m _ => m == 0
  | _ => false
/-- Its sign; a NaN has none. -/
def FV.neg : FV → Bool
  | .nan _ => false
  | .inf n => n
  | .fin n _ _ => n
/-- With the sign inverted. -/
def FV.negate : FV → FV
  | .nan s => .nan s
  | .inf n => .inf !n
  | .fin n m e => .fin (!n) m e

/-! ### Rounding (R105) -/

/-- Does a quotient `fl` with remainder `r` of 2^sh, and nonzero bits below when `st`, round up in magnitude? -/
def roundsUp (mode : Nat) (neg : Bool) (fl r sh : Nat) (st : Bool) : Bool :=
  let inexact := r != 0 || st
  match mode with
  | 0 => decide (r > 2 ^ (sh - 1)) || (r == 2 ^ (sh - 1) && (st || fl % 2 == 1))
  | 1 => false
  | 2 => neg && inexact
  | _ => !neg && inexact

/-- m · 2^e (and a positive amount below one unit of m more, when `st`) rounded once to a multiple of 2^q. -/
def roundAt (mode : Nat) (neg : Bool) (q : Int) (m : Nat) (e : Int) (st : Bool) : Nat :=
  let d := q - e
  if d ≤ 0 then m * 2 ^ (-d).toNat
  else
    let sh := min d.toNat (Nat.log2 m + 3)
    let fl := m / 2 ^ sh
    if roundsUp mode neg fl (m % 2 ^ sh) sh st then fl + 1 else fl

/-- A magnitude rounded to a form with its exponent range taken as unbounded above (R106): k and q of k · 2^q. -/
def FForm.roundMag (f : FForm) (mode : Nat) (neg : Bool) (m : Nat) (e : Int) (st : Bool) : Nat × Int :=
  let q := max f.qmin (e + (Nat.log2 m : Int) - (f.man : Int))
  (roundAt mode neg q m e st, q)

/-- The sign bit of a form. -/
def FForm.sign (f : FForm) (neg : Bool) : Nat := if neg then 2 ^ (f.width - 1) else 0
/-- The encoding of k · 2^q, in range. -/
def FForm.pack (f : FForm) (neg : Bool) (k : Nat) (q : Int) : Nat :=
  f.sign neg + (if k < 2 ^ f.man then k else (q - f.qmin + 1).toNat * 2 ^ f.man + (k - 2 ^ f.man))
/-- The largest finite value of a sign. -/
def FForm.maxFin (f : FForm) (neg : Bool) : Nat := f.pack neg f.kmax f.qmax
/-- The infinity of a sign. -/
def FForm.infinity (f : FForm) (neg : Bool) : Nat := f.sign neg + (2 ^ (f.width - 1 - f.man) - 1) * 2 ^ f.man

/-- A finite exact value written to a form: rounding (R105), then range (R106 to R108). -/
def FForm.round (f : FForm) (mode : Nat) (neg : Bool) (m : Nat) (e : Int) (st : Bool) : Nat × BitVec 7 :=
  if m = 0 then (f.sign neg, 0)
  else
    let (k, q) := f.roundMag mode neg m e st
    if q > f.qmax ∨ (q = f.qmax ∧ k > f.kmax) then
      if f.width = 32 then
        (if mode = 0 ∨ (mode = 2 ∧ neg) ∨ (mode = 3 ∧ !neg) then f.infinity neg else f.maxFin neg, fOVF)
      else (f.maxFin neg, fSAT)
    else (f.pack neg k q, 0)

/-- A value written to a form: NaN and infinity per R97 and the table of R108. -/
def FForm.write (f : FForm) (mode : Nat) (v : FV) : Nat × BitVec 7 :=
  match v with
  | .nan sig => if f.nan then (f.canon, flagIf sig fINV) else (f.maxFin false, fINV)
  | .inf neg => if f.inf then (f.infinity neg, 0) else (f.maxFin neg, fSAT)
  | .fin neg m e => f.round mode neg m e false

/-! ### Exact arithmetic -/

/-- A finite value as an integer multiple of 2^q, for q at or below its exponent. -/
def scaled (neg : Bool) (m : Nat) (e q : Int) : Int :=
  let v : Int := (m * 2 ^ (e - q).toNat : Nat)
  if neg then -v else v

/-- The exact sum of two finite values, with the sign of an exact zero sum under `mode` (R149). -/
def addFin (mode : Nat) (n1 : Bool) (m1 : Nat) (e1 : Int) (n2 : Bool) (m2 : Nat) (e2 : Int) : Bool × Nat × Int :=
  let q := min e1 e2
  let v := scaled n1 m1 e1 q + scaled n2 m2 e2 q
  if v = 0 then ((if n1 = n2 then n1 else mode = 2), 0, q)
  else (v < 0, v.natAbs, q)

/-- a + b, exactly (R149). -/
def FV.add (mode : Nat) (a b : FV) : FV × BitVec 7 :=
  match a, b with
  | .nan s, _ => (.nan false, flagIf (s || b.isSig) fINV)
  | _, .nan s => (.nan false, flagIf s fINV)
  | .inf m, .inf n => if m = n then (.inf m, 0) else (.nan false, fINV)
  | .inf m, _ => (.inf m, 0)
  | _, .inf n => (.inf n, 0)
  | .fin n1 m1 e1, .fin n2 m2 e2 => let (n, m, e) := addFin mode n1 m1 e1 n2 m2 e2; (.fin n m e, 0)

/-- a · b, exactly. -/
def FV.mul (a b : FV) : FV × BitVec 7 :=
  match a, b with
  | .nan s, _ => (.nan false, flagIf (s || b.isSig) fINV)
  | _, .nan s => (.nan false, flagIf s fINV)
  | .inf m, .inf n => (.inf (m != n), 0)
  | .inf m, .fin n k _ => if k = 0 then (.nan false, fINV) else (.inf (m != n), 0)
  | .fin m k _, .inf n => if k = 0 then (.nan false, fINV) else (.inf (m != n), 0)
  | .fin n1 m1 e1, .fin n2 m2 e2 => (.fin (n1 != n2) (m1 * m2) (e1 + e2), 0)

/-- a · b + c with one rounding to come; 0 · ∞ sets INV whatever c holds (R149). -/
def FV.fma (mode : Nat) (a b c : FV) : FV × BitVec 7 :=
  let (p, f) := a.mul b
  let (r, g) := p.add mode c
  (r, f ||| g)

/-- Order of two values that are no NaNs; the two zeros are equal. -/
def FV.lt (a b : FV) : Bool :=
  match a, b with
  | .inf n, .inf m => n && !m
  | .inf n, _ => n
  | _, .inf m => !m
  | .fin n1 m1 e1, .fin n2 m2 e2 =>
    let q := min e1 e2
    decide (scaled n1 m1 e1 q < scaled n2 m2 e2 q)
  | _, _ => false

/-- A result of an operation written to a form. -/
def FForm.result (f : FForm) (mode : Nat) (r : FV × BitVec 7) : Nat × BitVec 7 :=
  let (v, g) := f.write mode r.1
  (v, r.2 ||| g)

/-- FMIN and FMAX (R150): `max_` chooses, `prop` is PROP. The chosen operand is written; a NaN as the canonical one. -/
def FForm.minMax (f : FForm) (max_ prop : Bool) (a b : Nat) : Nat × BitVec 7 :=
  let x := f.decode a
  let y := f.decode b
  let g := flagIf (x.isSig || y.isSig) fINV
  if x.isNan && y.isNan || (prop && (x.isNan || y.isNan)) then (f.canon, g)
  else if x.isNan then (b, g)
  else if y.isNan then (a, g)
  else
    let less := x.lt y || (x.isZero && y.isZero && x.neg && !y.neg)
    (if less != max_ then a else b, g)

/-! ### Integers (R104) -/

/-- clamp of R126: the value limited to the type's range; SAT when that changes it. -/
def clampTo (t : Typ) (v : Int) : Int × BitVec 7 :=
  if v < t.lo then (t.lo, fSAT) else if v > t.hi then (t.hi, fSAT) else (v, 0)

/-- A value written to an integer type by a conversion (R108, R161): rounded in the mode, then saturated. -/
def toInt (t : Typ) (mode : Nat) (v : FV) : Int × BitVec 7 :=
  match v with
  | .nan _ => (t.hi, fINV)
  | .inf n => (if n then t.lo else t.hi, fSAT)
  | .fin n m e =>
    let k : Int := (roundAt mode n 0 m e false : Nat)
    clampTo t (if n then -k else k)

/-- An integer as a value. -/
def FV.ofInt (v : Int) : FV := .fin (v < 0) v.natAbs 0

/-! ### Block-scaled forms (R99 to R102) -/

/-- The weight of a DS8 byte (R101). -/
def ds8Weight (b : Nat) : Int :=
  let term (s c : Nat) : Int := if c = 7 then 0 else if s = 1 then -((2 ^ c : Nat) : Int) else ((2 ^ c : Nat) : Int)
  term (b / 128 % 2) (b / 16 % 8) + term (b / 8 % 2) (b % 8)

/-- The byte that R67 chooses for a weight: 0x77 for 0, else the smallest byte of that weight. -/
def ds8Byte (w : Int) : Nat := if w = 0 then 0x77 else ((List.range 256).find? fun b => ds8Weight b == w).getD 0x77

/-- The magnitudes of DS8 weights between 2^a and 2^(a+1), and above 128 those of the extended set (R106). From 64 to 128 no weight is a
difference, because C1 and C2 end at 6 (R101). -/
def ds8Near (a : Nat) : List Nat :=
  2 ^ a :: 2 ^ (a + 1) :: (List.range (a + 1)).flatMap fun b => if a = 6 then [2 ^ a + 2 ^ b] else [2 ^ a + 2 ^ b, 2 ^ (a + 1) - 2 ^ b]

/-- The greatest member of the extended DS8 set at or below n. -/
def ds8Floor (n : Nat) : Nat := if n = 0 then 0 else ((ds8Near (Nat.log2 n)).filter fun x => decide (x ≤ n)).foldl max 0
/-- The least member of the extended DS8 set at or above n. -/
def ds8Ceil (n : Nat) : Nat :=
  if n = 0 then 0 else ((ds8Near (Nat.log2 n)).filter fun x => decide (n ≤ x)).foldl min (2 ^ (Nat.log2 n + 1))

/-- A magnitude rounded onto the DS8 weights, extended above 128 (R105, R106, R165); a tie goes to the smaller magnitude. -/
def ds8Round (mode : Nat) (neg : Bool) (m : Nat) (e : Int) : Nat :=
  let n := if e ≥ 0 then m * 2 ^ e.toNat else m / 2 ^ (-e).toNat
  let exact_ := e ≥ 0 || m % 2 ^ (-e).toNat == 0
  if exact_ && ds8Floor n == n then n
  else
    let lo := ds8Floor n
    let hi := ds8Ceil (n + 1)
    let up := match mode with
      -- 2v against lo + hi
      | 0 => if e ≥ 0 then decide (2 * (m * 2 ^ e.toNat) > lo + hi) else decide (2 * m > (lo + hi) * 2 ^ (-e).toNat)
      | 1 => false
      | 2 => neg
      | _ => !neg
    if up then hi else lo

/-- A value v already divided by its scale, encoded as a DS8 byte (R108, R165). -/
def ds8Encode (mode : Nat) (v : FV) : Nat × BitVec 7 :=
  match v with
  | .nan _ => (ds8Byte 128, fINV)
  | .inf n => (ds8Byte (if n then -128 else 128), fSAT)
  | .fin n m e =>
    -- a magnitude of 2^9 or more saturates in every mode, and one below 2^-3 rounds as 2^-3 does
    let l := e + (Nat.log2 m : Int)
    let (m, e) := if m = 0 then (0, 0) else if l ≥ 9 then (512, 0) else if l < -3 then (1, -3) else (m, e)
    let w := ds8Round mode n m e
    if w > 128 then (ds8Byte (if n then -128 else 128), fSAT)
    else (ds8Byte (if n then -(w : Int) else (w : Int)), 0)

/-- A value v already divided by its scale, encoded as an E2M1 code (R108, R165). -/
def mx4Encode (mode : Nat) (v : FV) : Nat × BitVec 7 := formE2M1.write mode v

/-- x / 2^(s − 127) exactly; a NaN when the scale byte is 0xFF (R165). -/
def unscale (x : FV) (s : Nat) : FV :=
  if s = 255 then .nan false
  else match x with
  | .fin n m e => .fin n m (e - ((s : Int) - 127))
  | v => v

/-- x · 2^(s − 127) exactly; a NaN when the scale byte is 0xFF (R109). -/
def rescale (x : FV) (s : Nat) : FV :=
  if s = 255 then .nan false
  else match x with
  | .fin n m e => .fin n m (e + ((s : Int) - 127))
  | v => v

/-- The exact value of an element of a page format with its scale byte (R96 to R101); `bs` are its bits. -/
def elemValue (p : Typ) (bs scale : Nat) : FV :=
  match p with
  | .mx4 => rescale (formE2M1.decode (bs % 16)) scale
  | .ds8 => rescale (FV.ofInt (ds8Weight (bs % 256))) scale
  | .f32 | .f16 | .bf16 | .e4m3 | .e5m2 => (formOf p).decode (bs % 2 ^ p.width)
  | _ => FV.ofInt (p.value bs)

/-- A value encoded in a page format, RNE (R244): bits and flags. An F32 element is unchanged. -/
def elemEncode (p : Typ) (mode : Nat) (v : FV) (scale : Nat) : Nat × BitVec 7 :=
  match p with
  | .mx4 => mx4Encode mode (unscale v scale)
  | .ds8 => ds8Encode mode (unscale v scale)
  | .f32 | .f16 | .bf16 | .e4m3 | .e5m2 => (formOf p).write mode v
  | _ => let (k, f) := toInt p mode v; ((k % 2 ^ p.width).toNat, f)

/-- Bytes that one element of a page format takes: 4, 2 or 1, and 1 for MX4 (R243). (log 13, DEDUCED) -/
def elemSize (p : Typ) : Nat := match p with
  | .mx4 => 1
  | t => t.width / 8

/-- Scale address of an element (R102). -/
def scaleAddr (p : Typ) (soff : Int) (x : DWord) : DWord :=
  let o := x.toNat % 65536
  BitVec.ofInt 64 ((x.toNat - o : Nat) + soff * 65536 + ((if p == .mx4 then o / 16 else o / 32 : Nat) : Int))

end Sys2Proof.Machine
end

