-- ==== Sys2Proof/Machine/Operands.lean ====
section
/-! DEFINITION. Machine/Operands.lean: reading operands (R29 to R34, R126), special registers (R117), CSRs (R120,
R121), and where results go. -/

namespace Sys2Proof.Machine

open Sys2Proof

/-- One lane issuing one instruction. -/
structure Env where
  s : State
  k : LaneId
  l : Lane
  op : Op

/-- The workgroup of the lane. -/
def Env.wg? (e : Env) : Option Wg := e.s.wgs.get? e.k.wg
/-- The crew of the lane. -/
def Env.crew? (e : Env) : Option Crew := e.s.crews.get? (e.s.crewOf e.k)

/-- %cmask: bit i for lane i of the peloton when it is a non-vacant lane of the crew. -/
def State.cmask (s : State) (c : CrewId) : Nat :=
  match s.crews.get? c with
  | some v => (v.lanes.map fun i => 2 ^ s.slot ⟨c.wg, i⟩).foldl (· + ·) 0
  | none => 0

/-- The value of a special register (R117). -/
def Env.special (e : Env) (r : SReg) : Nat :=
  let s := e.s
  let (ln, gn, wn) := s.names e.k.wg
  match r with
  | .lane => e.k.idx
  | .slot => s.slot e.k
  | .crew => (s.crewOf e.k).crew
  | .cmask => s.cmask (s.crewOf e.k)
  | .peloton => s.pslot e.k
  | .core => s.coreOf e.k
  | .cluster => s.clusterOf e.k
  | .die => s.clusterOf e.k / 24
  | .wg => wn
  | .gang => gn
  | .launch => ln
  | .relaunch => match s.gangs.get? (s.gangOf e.k) with | some g => g.relaunch | none => 0
  | .kdi => match e.wg? with | some w => w.kdi | none => 0
  | .nlane => match e.wg? with | some w => w.desc.lanes | none => 0
  | .rdepth => e.l.regions.length
  | .rtry => match e.l.regions with | g :: _ => g.rtry.toNat | [] => 0
  | .flags => match e.crew? with | some c => c.flags.toNat | none => 0
  | .farm => match e.crew? with | some c => c.farm.toNat | none => 0
  | .cycle => s.now - s.dev.resetAt
  | .ctx => s.ctxOf e.k

/-- k(n) of the lane's crew. -/
def Env.kreg (e : Env) (n : Nat) : Word := match e.crew? with | some c => c.k.getD n 0 | none => 0

/-- A 32-bit source operand (R29, R30, R32). -/
def Env.src (e : Env) (o : Opnd) : Word :=
  match o with
  | .g n => e.l.reg n.val
  | .p n => if e.l.pred n.val then 1 else 0
  | .k n => e.kreg n.val
  | .sr r => BitVec.ofNat 32 (e.special r)
  | .lit => e.op.lit
  | _ => 0

/-- A 64-bit source operand (R31, R32): a pair, low word first. -/
def Env.src64 (e : Env) (t : Typ) (o : Opnd) : DWord :=
  match o with
  | .g n => e.l.reg (n.val + 1) ++ e.l.reg n.val
  | .k n => e.kreg (n.val + 1) ++ e.kreg n.val
  | .p n => if e.l.pred n.val then 1 else 0
  | .sr r => BitVec.ofNat 64 (e.special r)
  | .lit => if t.isSigned then e.op.lit.signExtend 64 else e.op.lit.setWidth 64
  | _ => 0

/-- A source operand as a value of a type (R126). -/
def Env.val (e : Env) (t : Typ) (o : Opnd) : Int :=
  if t.is64 then t.value (e.src64 t o).toNat else t.value (e.src o).toNat
/-- A source operand as raw bits of a type's width. -/
def Env.raw (e : Env) (t : Typ) (o : Opnd) : Nat := if t.is64 then (e.src64 t o).toNat else (e.src o).toNat
/-- A source operand as an F32 value. -/
def Env.f32 (e : Env) (o : Opnd) : FV := formF32.decode (e.src o).toNat
/-- `n` registers from the group that an operand starts. -/
def Env.group (e : Env) (o : Opnd) (n : Nat) : List Word :=
  match o with
  | .g m => (List.range n).map fun i => e.l.reg (m.val + i)
  | .k m => (List.range n).map fun i => e.kreg (m.val + i)
  | _ => List.replicate n 0

/-- The guard: p[GRD[3:0]] XOR GRD[4] (R34). -/
def guardOf (l : Lane) (op : Op) : Bool := l.pred (op.grd.toNat % 16) != op.grd.getLsbD 4

/-- Effective address of format M (R234). -/
def Env.ea (e : Env) : DWord := e.src64 .n64 e.op.fy + (e.src e.op.fz).signExtend 64 + e.op.lit.signExtend 64

/-- Register writes: operand codes (R29) with words. -/
abbrev Writes := List (Nat × Word)

/-- Words written from the register that an operand names on; z takes none. (log 38, DEDUCED) -/
def dest (o : Opnd) (ws : List Word) : Writes :=
  match o with
  | .g n => ws.zipIdx.map fun w => (n.val + w.2, w.1)
  | .p n => match ws with | w :: _ => [(0x100 + n.val, w)] | [] => []
  | _ => []

/-- A truth value written to p, g or z (R138). (log 38, DEDUCED) -/
def destBool (o : Opnd) (b : Bool) : Writes := dest o [if b then 1 else 0]

/-- The third source of format Q. -/
def Env.third (e : Env) : Opnd := e.op.third

/-! ### The g registers that an instruction reads (R402, source 2) -/

/-- Majors whose FX is a source. -/
def fxReads : Maj → Bool
  | .st | .ste | .atom | .acas | .afadd | .winit | .wexp | .wwait | .slbind | .smerge | .cpyl | .cpyw | .dpush | .dcfg
  | .drst | .sgath | .sscat | .sscadd => true
  | _ => false

/-- The g registers of an operand in a role. -/
def roleRegs (ks : List Kind) (o : Opnd) : List Nat :=
  match o with
  | .g n => match ks.findSome? fun k => match k with | .g _ c => some c | _ => none with
    | some c => (List.range c).map (n.val + ·)
    | none => []
  | _ => []

/-- Every g register that an instruction reads. -/
def regsRead (op : Op) : List Nat :=
  let f := op.fields
  let r := rolesOf op.maj f
  let fx := if fxReads op.maj || (op.maj == .cvt8 && decide (4 ≤ op.min.toNat)) then roleRegs r.fx op.fx else []
  let rest := match op.maj, op.min.toNat with
    | .rpres, 0 => ((List.range 32).filter fun i => op.lit.getLsbD i).map (f.fy.toNat + ·)
    | .rpres, 2 => (List.range (f.fz.toNat + 1 - f.fy.toNat)).map (f.fy.toNat + ·)
    | .isel, _ => roleRegs r.fy op.fy ++ roleRegs r.fz op.fz ++ roleRegs (rq false) op.third
    | _, _ => roleRegs r.fy op.fy ++ roleRegs r.fz op.fz ++ (if op.maj.fmt == .q then roleRegs r.third op.third else [])
  fx ++ rest

/-- The first register with a parity mark that an instruction reads. -/
def parityHit (l : Lane) (op : Op) : Option Nat := (regsRead op).find? fun n => l.parity.contains n

/-! ### CSRs (R120, R121) -/

/-- The value of a CSR for a lane. -/
def csrValue (s : State) (k : LaneId) (l : Lane) (code : Nat) : Nat :=
  match code with
  | 0x1000 => l.stkBase.toNat
  | 0x1001 => match s.wgs.get? k.wg with | some w => w.desc.undo | none => 0
  | 0x2000 => match s.crews.get? (s.crewOf k) with | some c => c.tpc.toNat | none => 0
  | 0x2001 => match s.crews.get? (s.crewOf k) with | some c => c.tcause.toNat | none => 0
  | 0x3000 => (s.peloton (s.coreOf k) (s.pslot k)).agelim.toNat
  | 0x4000 => (s.core (s.coreOf k)).quantum.toNat
  | 0x5000 => (s.cluster (s.clusterOf k)).cisthw.toNat
  | 0x6000 => match s.ctxs.get? (s.ctxOf k) with | some c => c.bndmask.toNat | none => 0
  | 0x6001 => match s.ctxs.get? (s.ctxOf k) with | some c => c.preempt.toNat | none => 0
  | _ => 0

/-- The AGELIM that a CSRW stores: min(max(v, 1), 15) of bits [3:0] (R121). -/
def agelimOf (v : Word) : BitVec 4 := if v.toNat % 16 = 0 then 1 else BitVec.ofNat 4 (v.toNat % 16)

end Sys2Proof.Machine
end

