-- ==== Sys2Proof/Machine/Translate.lean ====
section
/-! DEFINITION. Machine/Translate.lean: where an address leads (R18, R19, R232, R233), the page-table walk (R356 to
R361), the home slice (R259), and the translation probe (R235). -/

namespace Sys2Proof.Machine

open Sys2Proof

/-- Is a local address in a range that R18 backs? -/
def backed (la : Nat) : Bool :=
  decide (la < 0x24000000000) || (decide (0x40000000000 ≤ la) && decide (la < 0x80000000000)) ||
    decide (0xF0000000000 ≤ la)

/-- Bits [63:56] are zero (R19). -/
def canonical (va : DWord) : Bool := decide (va.toNat < 2 ^ 56)

/-- log2 of a page size by its SIZE code (R358). -/
def pageBits (size : Nat) : Nat := match size with
  | 0 => 16 | 1 => 21 | 2 => 26 | _ => 30

/-- The physical address that a leaf entry gives an address (R358). -/
def leafPA (e : Nat) (va : DWord) : Nat :=
  let n := pageBits (bits e 3 2)
  bits e 87 52 * 2 ^ 16 / 2 ^ n * 2 ^ n + va.toNat % 2 ^ n

/-- Is a leaf entry valid at a level whose index starts at bit `sh` (R356, R358)? -/
def leafOk (sh e : Nat) (va : DWord) : Bool :=
  (if sh = 16 then decide (bits e 3 2 ≤ 1) else if sh = 26 then decide (2 ≤ bits e 3 2) else false) &&
    bits e 127 120 == 0 && bits e 96 88 == 0 && bits e 51 9 == 0 && decide (bits e 99 97 ≤ 5) &&
    (bits e 8 8 == 1 || backed (leafPA e va % 2 ^ 44))

/-- Walk from a table down the levels whose index shifts are listed; the leaf entry, or none for not present. -/
def walkFrom (s : State) (va : DWord) : List Nat → Nat → Option Nat
  | [], _ => none
  | sh :: rest, table =>
    let e := s.num (table + 16 * (va.toNat / 2 ^ sh % 1024)) 16
    if e % 2 = 0 then none
    else if bits e 1 1 = 1 then (if leafOk sh e va then some e else none)
    else
      let next := bits e 87 50 * 2 ^ 14
      if bits e 127 88 ≠ 0 ∨ bits e 49 2 ≠ 0 ∨ next / 2 ^ 44 ≠ s.dev.devno.toNat ∨ backed (next % 2 ^ 44) = false then none
      else walkFrom s va rest next

/-- The walk of an address in a context's page tables (R356). -/
def State.walk (s : State) (ctx : Nat) (va : DWord) : Option Nat :=
  match s.ctxs.get? ctx with
  | some c => walkFrom s va [46, 36, 26, 16] c.ptroot.toNat
  | none => none

/-- Does a leaf entry, cached for a virtual 64 KiB piece, translate an address? It does for every address of its page (R358, R361). -/
def leafCovers (t : Nat × BitVec 128) (va : DWord) : Bool :=
  let n := 2 ^ pageBits (bits t.2.toNat 3 2)
  t.1 * 65536 / n == va.toNat / n

/-- The leaf entry that a probe uses: what a walk finds, or a cached copy that no invalidation has removed (R361). -/
def State.leaf (s : State) (ctx : Nat) (va : DWord) : Option Nat :=
  match s.ctxs.get? ctx with
  | none => none
  | some c =>
    let w := walkFrom s va [46, 36, 26, 16] c.ptroot.toNat
    let old := (c.tlb.filter fun t => leafCovers t va).map fun t => some t.2.toNat
    s.choose (va.toNat / 65536) w ((w :: old).dedup)

/-- A core or engine keeps a copy of the leaf entry that a walk finds (R361). -/
def keepLeaf (ctx : Nat) (va : DWord) : Act := fun s =>
  match s.ctxs.get? ctx, s.walk ctx va with
  | some c, some e =>
    let t := (va.toNat / 65536, BitVec.ofNat 128 e)
    if c.tlb.contains t then [] else [.ctx ctx (some { c with tlb := c.tlb ++ [t] })]
  | _, _ => []

/-- The slice of a line within its home die: the XOR-fold of its physical address (R259). -/
def sliceFold (pa : Nat) : Nat := ((List.range 8).map fun i => pa / 2 ^ (7 + 4 * i) % 16).foldl Nat.xor 0

/-- Does an address lie in the scratchpad window (R232)? -/
def inWindow (va : DWord) : Bool := decide (0xFFFF0000000000 ≤ va.toNat) && decide (va.toNat ≤ 0xFFFFFFFFFFFFFF)

/-- The workgroup and offset that a window address names, when it is in bounds and the workgroup meets a condition (R233). -/
def State.windowIf (s : State) (gang : Nat) (va : DWord) (ok : Wg → Bool) : Option (Nat × Nat) :=
  let v := va.toNat
  if bits v 39 24 ≠ 0 then none
  else match s.gangs.get? gang with
    | none => none
    | some g => match g.wgs[bits v 23 22]? with
      | none => none
      | some w => match s.wgs.get? w with
        | none => none
        | some x => if ok x && decide (v % 2 ^ 22 < x.desc.scratch) then some (w, v % 2 ^ 22) else none

/-- The workgroup and offset that a window address names, when it is present (R233). -/
def State.windowAt (s : State) (gang : Nat) (va : DWord) : Option (Nat × Nat) := s.windowIf gang va fun w => !w.exited

/-- The place of a byte of a workgroup's scratchpad, for a gang (R233). -/
def State.scratchLoc (s : State) (gang w off : Nat) : Loc :=
  let cl := match s.gangs.get? gang with | some g => g.cluster | none => 0
  { key := scratchKey w off, home := .bank cl, typ := .b32, soff := 0, rd := true, wr := true, ex := false, cache := false, scratch := some (w, off) }

/-- Where a canonical address leads for a gang of a context (R232); none when not present. -/
def State.locate (s : State) (ctx gang : Nat) (va : DWord) : Option Loc :=
  if inWindow va then
    (s.windowAt gang va).map fun x => s.scratchLoc gang x.1 x.2
  else
    match s.leaf ctx va with
    | none => none
    | some e =>
      let pa := leafPA e va
      let host := bits e 8 8 == 1
      let own := pa / 2 ^ 44 == s.dev.devno.toNat
      some { key := if host then hostBase + pa else pa,
             home := if host then .host else if own then .slice (bits e 99 97 * 16 + sliceFold pa) else .remote (pa / 2 ^ 44),
             typ := Typ.ofCode (bits e 103 100), soff := signed 16 (bits e 119 104), rd := bits e 4 4 == 1,
             wr := bits e 5 5 == 1, ex := bits e 6 6 == 1, cache := bits e 7 7 == 1 && own && !host && decide (pa % 2 ^ 44 < 0xF0000000000), scratch := none }

/-- Does a window byte lie in an active weir slot (R375)? -/
def State.inWeir (s : State) (l : Loc) : Bool :=
  match l.scratch with
  | none => false
  | some (w, off) => match s.wgs.get? w with
    | some x => x.weirs.contains (off / 16 * 16)
    | none => false

/-- The first bytes of the 16-byte granules that an access touches. -/
def granules (va : DWord) (n : Nat) : List DWord :=
  if n = 0 then []
  else va :: (List.range ((va.toNat % 16 + n - 1) / 16)).map fun i => BitVec.ofNat 64 (va.toNat / 16 * 16 + 16 * (i + 1))

/-- What an access needs of its pages. -/
structure Need where
  rd : Bool
  wr : Bool
  /-- host memory fails with cause rights (R247, R279) -/
  noHost : Bool := false
  /-- active weir slots fail with cause weir access -/
  weir : Bool := true
  /-- page formats accepted -/
  fmt : Typ → Bool := fun _ => true

/-- R235 orders 2 to 6 on the bytes of an access, after its alignment: the cause and the address of the byte. -/
def State.probe (s : State) (ctx gang : Nat) (va : DWord) (n : Nat) (need : Need) : Option (Nat × DWord) :=
  let gs := granules va n
  match gs.find? fun g => !canonical g with
  | some g => some (0x02, g)
  | none =>
    let ls := gs.map fun g => (g, s.locate ctx gang g)
    match ls.find? fun l => l.2.isNone with
    | some l => some (0x03, l.1)
    | none =>
      let bad (p : Loc → Bool) : Option DWord := (ls.find? fun l => match l.2 with | some x => p x | none => false).map (·.1)
      match bad fun x => (need.rd && !x.rd) || (need.wr && !x.wr) || (need.noHost && x.home == .host) with
      | some g => some (0x04, g)
      | none =>
        match bad fun x => !need.fmt x.typ with
        | some g => some (0x05, g)
        | none => match bad fun x => need.weir && s.inWeir x with
          | some g => some (0x06, g)
          | none => none

/-- R235 with the alignment that the entry gives. -/
def State.probeAligned (s : State) (ctx gang : Nat) (va : DWord) (n : Nat) (need : Need) : Option (Nat × DWord) :=
  if va.toNat % n ≠ 0 then some (0x01, va) else s.probe ctx gang va n need

/-- The page formats that LDE and STE accept (R243). -/
def elemPage (p : Typ) : Bool := match p with
  | .b32 | .s64 | .n64 => false
  | _ => true

/-- R235 for LDE and STE: the size is that of the element format of the page found (R235, R243), and a scale byte is
probed with the element. `hi` is the HI form. (log 13, DEDUCED) -/
def State.probeElem (s : State) (ctx gang : Nat) (va : DWord) (wr hi : Bool) : Option (Nat × DWord) :=
  if !canonical va then some (0x02, va)
  else match s.locate ctx gang va with
    | none => some (0x03, va)
    | some l =>
      if va.toNat % elemSize l.typ ≠ 0 then some (0x01, va)
      else
        let sa := scaleAddr l.typ l.soff va
        let sc := if l.typ.scaled then
            (if !canonical sa then some (0x02, sa)
             else match s.locate ctx gang sa with
               | none => some (0x03, sa)
               | some x => if !x.rd then some (0x04, sa) else if s.inWeir x then some (0x06, sa) else none)
          else none
        let el := if (if wr then !l.wr else !l.rd) then some (0x04, va)
          else if !elemPage l.typ || (hi && l.typ != .mx4) || l.scratch.isSome then some (0x05, va)
          else none
        match sc, el with
        | none, e => e
        | c, none => c
        | some c, some e => if c.1 ≤ e.1 && c.1 ≠ e.1 then some c else some e

end Sys2Proof.Machine
end

