-- ==== Sys2Proof/Machine/Object.lean ====
section
/-! DEFINITION. Machine/Object.lean: the Myoskeo object format (R74 to R85): an object, the bytes of its file, and the object that a
file holds. -/

namespace Sys2Proof.Machine

open Sys2Proof

/-! ### Objects -/

/-- A section (R76); `data` are its bytes in the file, none for kind `zero`. -/
structure OSec where
  name : Nat
  kind : Nat
  typ : Nat
  pset : Bool
  home : Nat
  hset : Bool
  align : Nat
  soff : Nat
  size : Nat
  addr : Nat
  data : List Byte
  deriving DecidableEq, Repr, Inhabited

/-- A symbol (R77). -/
structure OSym where
  name : Nat
  sect : Nat
  bind : Nat
  kind : Nat
  value : Nat
  kdx : Nat
  deriving DecidableEq, Repr, Inhabited

/-- A relocation (R79); the addend is 64 bits of two's complement. -/
structure ORel where
  offset : Nat
  sect : Nat
  type : Nat
  sym : Nat
  addend : Nat
  deriving DecidableEq, Repr, Inhabited

/-- A kernel descriptor as an object holds it (R82). -/
structure OKd where
  entry : Nat
  lanes : Nat
  gang : Nat
  regs : Nat
  scratch : Nat
  undo : Nat
  esect : Nat
  tiles : Nat
  stack : Nat
  name : Nat
  resx : Nat
  resn : Nat
  deriving DecidableEq, Repr, Inhabited

/-- A resource entry (R83). -/
structure ORes where
  kind : Nat
  port : Nat
  a : Nat
  b : Nat
  deriving DecidableEq, Repr, Inhabited

/-- A binding entry (R84). -/
structure OBind where
  slsym : Nat
  rgsym : Nat
  sladd : Nat
  rgadd : Nat
  len : Nat
  deriving DecidableEq, Repr, Inhabited

/-- A signature block (R85). -/
structure OSig where
  edkey : Nat
  mlkey : Nat
  edsig : List Byte
  mlsig : List Byte
  deriving DecidableEq, Repr, Inhabited

/-- An object. -/
structure Obj where
  linked : Bool
  secs : List OSec
  /-- the null symbol first -/
  syms : List OSym
  strs : List Byte
  kds : List OKd
  rels : List ORel
  binds : List OBind
  res : List ORes
  sig : Option OSig
  deriving DecidableEq, Repr, Inhabited

/-! ### Layout (R75 to R85) -/

/-- The number that fields make: each a bit position and a value. -/
def fieldsNat (fs : List (Nat × Nat)) : Nat := (fs.map fun f => f.2 * 2 ^ f.1).foldl (· + ·) 0
/-- 1 for true. -/
def bitNat (b : Bool) : Nat := if b then 1 else 0

/-- The 32 bytes of a section entry, its contents at a file offset. -/
def OSec.entry (x : OSec) (foff : Nat) : List Byte := bytesLE 32 (fieldsNat
  [(0, x.name), (32, x.kind), (40, x.typ), (44, bitNat x.pset), (48, x.home), (55, bitNat x.hset), (56, x.align), (64, x.soff), (96, foff),
   (128, x.size), (192, x.addr)])
/-- The 24 bytes of a symbol entry. -/
def OSym.entry (x : OSym) : List Byte := bytesLE 24 (fieldsNat
  [(0, x.name), (32, x.sect), (48, x.bind), (56, x.kind), (64, x.value), (128, x.kdx)])
/-- The 24 bytes of a relocation entry. -/
def ORel.entry (x : ORel) : List Byte := bytesLE 24 (fieldsNat
  [(0, x.offset), (32, x.sect), (48, x.type), (64, x.sym), (128, x.addend)])
/-- The 64 bytes of a kernel descriptor (R82). -/
def OKd.bytes (x : OKd) : List Byte := bytesLE 64 (fieldsNat
  [(0, x.entry), (64, x.lanes), (80, x.gang), (88, x.regs), (96, x.scratch), (128, x.undo), (160, x.esect), (176, x.tiles), (192, x.stack),
   (224, x.name), (256, x.resx), (272, x.resn)])
/-- The 128 bits of a resource entry (R83). -/
def ORes.num (x : ORes) : Nat := fieldsNat [(0, x.kind), (8, x.port), (32, x.a), (64, x.b)]
/-- The 32 bytes of a binding entry. -/
def OBind.entry (x : OBind) : List Byte := bytesLE 32 (fieldsNat
  [(0, x.slsym), (32, x.rgsym), (64, x.sladd), (128, x.rgadd), (192, x.len)])
/-- The 3,400 bytes of a signature block. -/
def OSig.block (x : OSig) : List Byte :=
  bytesLE 8 1 ++ bytesLE 8 x.edkey ++ bytesLE 8 x.mlkey ++ x.edsig ++ x.mlsig ++ List.replicate 3 0

/-- The next multiple of 8. -/
def up8 (n : Nat) : Nat := (n + 7) / 8 * 8
/-- A list filled up with zero bytes to a length. -/
def padTo (n : Nat) (bs : List Byte) : List Byte := bs ++ List.replicate (n - bs.length) 0

/-- The offset of a table of `n` bytes that comes next after `at_`; a table without entries has offset 0. -/
def tableAt (at_ n : Nat) : Nat := if n = 0 then 0 else up8 at_

/-- The bytes of an object's file: the header, the section table, the contents, the symbols, the strings, the descriptors, then the
relocations, bindings and resources, and the signature last (R74, R75). (log 45, DESIGN CHOICE) -/
def Obj.file (o : Obj) : List Byte :=
  let secoff := 72
  let cont := secoff + 32 * o.secs.length
  let offs := (o.secs.foldl (fun (a : List Nat × Nat) x => (a.1 ++ [if x.kind = 3 then 0 else a.2], a.2 + x.data.length)) ([], cont)).1
  let symoff := up8 (cont + (o.secs.map fun x => x.data.length).foldl (· + ·) 0)
  let stroff := up8 (symoff + 24 * o.syms.length)
  let e1 := stroff + o.strs.length
  let kdoff := tableAt e1 o.kds.length
  let e2 := if o.kds.isEmpty then e1 else kdoff + 64 * o.kds.length
  let reloff := tableAt e2 o.rels.length
  let e3 := if o.rels.isEmpty then e2 else reloff + 24 * o.rels.length
  let bindoff := tableAt e3 o.binds.length
  let e4 := if o.binds.isEmpty then e3 else bindoff + 32 * o.binds.length
  let resoff := tableAt e4 o.res.length
  let e5 := if o.res.isEmpty then e4 else resoff + 16 * o.res.length
  let signed_ := o.sig.isSome
  let header := bytesLE 72 (fieldsNat
    [(0, 0x534F594D), (32, 1), (48, 1), (64, bitNat o.linked), (65, bitNat signed_), (96, o.secs.length), (112, o.kds.length), (128, secoff),
     (160, symoff), (192, o.syms.length), (224, stroff), (256, o.strs.length), (288, reloff), (320, o.rels.length), (352, kdoff),
     (384, bindoff), (416, o.binds.length), (448, if signed_ then e5 else 0), (480, if signed_ then 3400 else 0), (512, resoff),
     (544, o.res.length)])
  let body := header ++ (o.secs.zip offs).flatMap (fun x => x.1.entry x.2) ++ o.secs.flatMap (·.data)
  let body := padTo symoff body ++ o.syms.flatMap (·.entry)
  let body := padTo stroff body ++ o.strs
  let body := padTo kdoff body ++ o.kds.flatMap (·.bytes)
  let body := padTo reloff body ++ o.rels.flatMap (·.entry)
  let body := padTo bindoff body ++ o.binds.flatMap (·.entry)
  let body := padTo resoff body ++ o.res.flatMap (fun x => bytesLE 16 x.num)
  body ++ (match o.sig with | some x => x.block | none => [])

/-! ### Reading a file (R74 to R85, R90) -/

/-- The causes of a refused load (R90), in the order of R86. -/
inductive Cause where
  | notOpen | badMagic | badRev | badTable | sigFail | noSpace | addrBusy | unresolved | dupSym | relForm | relRange | bindAlign
  | bindOverlap | bindFull | kdFull
  deriving DecidableEq, Repr, Inhabited

/-- The number in `n` bytes of a file at an offset. -/
def numAt (f : List Byte) (off n : Nat) : Nat := natLE ((f.drop off).take n)
/-- The entries of a table, as numbers. -/
def tableOf (f : List Byte) (off n size : Nat) : List Nat := (List.range n).map fun i => numAt f (off + size * i) size

/-- Is there a name of 1 to 255 characters at an offset of the string table, and does it begin there (R78)? The empty name at offset 0
is none: a NAME of 0 is refused but in the null symbol. (log 57, DESIGN CHOICE) -/
def nameOk (strs : List Byte) (off : Nat) : Bool :=
  let n := (strs.drop off).takeWhile fun b => b != 0
  decide (0 < off) && (strs[off - 1]? == some 0) && decide (1 ≤ n.length) && decide (n.length ≤ 255) && decide (off + n.length < strs.length) &&
    n.all fun b => decide (b.toNat < 128)
/-- The name at an offset of the string table. -/
def nameAt (strs : List Byte) (off : Nat) : List Byte := (strs.drop off).takeWhile fun b => b != 0

/-- A section entry, with its contents; none where a field is not as R76 has it. (log 46, DEDUCED) -/
def readSec (f : List Byte) (linked : Bool) (v : Nat) : Option OSec :=
  let kind := bits v 39 32
  let size := bits v 191 128
  let foff := bits v 127 96
  let x : OSec :=
    { name := bits v 31 0, kind := kind, typ := bits v 43 40, pset := bits v 44 44 == 1, home := bits v 50 48, hset := bits v 55 55 == 1,
      align := bits v 63 56, soff := bits v 79 64, size := size, addr := bits v 255 192,
      data := if kind = 3 then [] else (f.drop foff).take size }
  let typ := Typ.ofCode x.typ
  if bits v 95 80 = 0 && bits v 54 51 == 0 && bits v 47 45 == 0 && decide (kind ≤ 3) && decide (x.home ≤ 5) && (x.hset || x.home == 0) &&
      (x.pset || x.typ == 0) && (typ.scaled || x.soff == 0) && decide (x.align ≤ 16) && decide ((if kind = 0 then 6 else 7) ≤ x.align) &&
      (if kind = 3 then foff == 0 else decide (foff + size ≤ f.length)) && (if linked then canonical (BitVec.ofNat 64 x.addr) else x.addr == 0)
  then some x else none

/-- A symbol entry. (log 46, DEDUCED; log 63, DESIGN CHOICE) -/
def readSym (nsec nkd v : Nat) : Option OSym :=
  let x : OSym :=
    { name := bits v 31 0, sect := bits v 47 32, bind := bits v 55 48, kind := bits v 63 56, value := bits v 127 64, kdx := bits v 143 128 }
  if bits v 191 144 = 0 && decide (x.bind ≤ 2) && decide (x.kind ≤ 3) && (x.sect == 0xFFFF || decide (x.sect ≤ nsec)) &&
      ((x.sect == 0) == (x.bind == 2)) && (x.bind != 2 || x.value == 0) &&
      (if x.kind = 2 ∧ x.bind ≠ 2 then decide (x.kdx < nkd) else x.kdx == 0xFFFF) then some x else none

/-- A relocation entry. (log 46, DEDUCED; log 63, DESIGN CHOICE) -/
def readRel (secs : List OSec) (nsym v : Nat) : Option ORel :=
  let x : ORel := { offset := bits v 31 0, sect := bits v 47 32, type := bits v 63 48, sym := bits v 95 64, addend := bits v 191 128 }
  let size := match secs[x.sect - 1]? with | some y => y.size | none => 0
  let n := if x.type = 0 then 0 else if x.type = 1 then 8 else if x.type ≤ 5 ∨ x.type = 12 then 4 else 12
  if bits v 127 96 = 0 && decide (1 ≤ x.sect) && decide (x.sect ≤ secs.length) && decide (x.type ≤ 12) && decide (1 ≤ x.sym) &&
      decide (x.sym < nsym) && decide (x.offset + n ≤ size) then some x else none

/-- A kernel descriptor of an object (R82). (log 46, DEDUCED) -/
def readKd (secs : List OSec) (nres v : Nat) : Option OKd :=
  let x : OKd :=
    { entry := bits v 63 0, lanes := bits v 79 64, gang := bits v 87 80, regs := bits v 95 88, scratch := bits v 127 96, undo := bits v 159 128,
      esect := bits v 175 160, tiles := bits v 183 176, stack := bits v 223 192, name := bits v 255 224, resx := bits v 271 256,
      resn := bits v 287 272 }
  let inSect := match secs[x.esect - 1]? with | some y => decide (x.entry ≤ y.size) | none => false
  if bits v 511 288 = 0 && bits v 191 184 == 0 && x.stack == 0 && decide (x.tiles ≤ 16) && decide (1 ≤ x.esect) && inSect &&
      decide (x.undo ≤ 65536) && x.undo % 16 == 0 && decide (x.scratch ≤ 3145728) && x.scratch % 128 == 0 && decide (4 ≤ x.regs) &&
      decide (x.regs ≤ 32) && decide (1 ≤ x.gang) && decide (x.gang ≤ 4) && decide (1 ≤ x.lanes) && decide (x.lanes ≤ 1024) &&
      decide (x.resx + x.resn ≤ nres) then some x else none

/-- Is a number a power of two between two bounds? -/
def pow2In (lo hi n : Nat) : Bool := decide (lo ≤ n) && decide (n ≤ hi) && 2 ^ Nat.log2 n == n

/-- A resource entry (R83). (log 46, DEDUCED) -/
def readRes (v : Nat) : Option ORes :=
  let x : ORes := { kind := bits v 7 0, port := bits v 15 8, a := bits v 63 32, b := bits v 95 64 }
  let ditch := x.kind == 1 && decide (x.port ≤ 31) && pow2In 16 65536 x.a && pow2In 4 64 x.b
  let weir := x.kind == 2 && x.port == 0 && x.a % 16 == 0 && decide (1 ≤ x.b) && decide (x.b ≤ 65535)
  if bits v 127 96 = 0 && bits v 31 16 == 0 && (ditch || weir) then some x else none

/-- A binding entry (R84). The null symbol has no value, so index 0 is refused. (log 46, DEDUCED; log 57, DESIGN CHOICE) -/
def readBind (nsym v : Nat) : Option OBind :=
  let x : OBind := { slsym := bits v 31 0, rgsym := bits v 63 32, sladd := bits v 127 64, rgadd := bits v 191 128, len := bits v 223 192 }
  let sym (n : Nat) : Bool := n == 0xFFFFFFFF || (decide (1 ≤ n) && decide (n < nsym))
  if bits v 255 224 = 0 && sym x.slsym && sym x.rgsym && decide (0 < x.len) && x.len % 128 == 0 then some x else none

/-- Is an object signed, with both signatures valid over the bytes of its file before the block, under keys of lists of encoded public
keys (R85)? -/
def Obj.trusted (o : Obj) (f : List Byte) (ed ml : List (List Byte)) : Bool :=
  match o.sig with
  | none => false
  | some x =>
    let msg := f.take (f.length - 3400)
    (ed.any fun k => keyId k == x.edkey && ed25519 k msg x.edsig) && ml.any fun k => keyId k == x.mlkey && mlDsa65 k msg x.mlsig

/-- Do two ranges of a file, an offset and a length each, share no byte? -/
def apart (a b : Nat × Nat) : Bool := a.2 == 0 || b.2 == 0 || decide (a.1 + a.2 ≤ b.1) || decide (b.1 + b.2 ≤ a.1)
/-- Does no range of a list share a byte with a later one? -/
def allApart : List (Nat × Nat) → Bool
  | [] => true
  | a :: l => l.all (apart a) && allApart l

/-- The object that a file holds: the header, the bounds and the overlaps of its tables, and its fields (R86 step 1). (log 46, DEDUCED) -/
def readObj (f : List Byte) : Except Cause Obj :=
  let h := numAt f 0 72
  if numAt f 0 4 ≠ 0x534F594D then .error .badMagic
  else if bits h 47 32 ≠ 1 ∨ bits h 63 48 ≠ 1 then .error .badRev
  else
    let nsec := bits h 111 96
    let nkd := bits h 127 112
    let nsym := bits h 223 192
    let strsz := bits h 287 256
    let nrel := bits h 351 320
    let nbind := bits h 447 416
    let nres := bits h 575 544
    let linked := bits h 64 64 == 1
    let signed_ := bits h 65 65 == 1
    let sigoff := bits h 479 448
    let sigsz := bits h 511 480
    let tables : List (Nat × Nat) :=
      [(bits h 159 128, 32 * nsec), (bits h 191 160, 24 * nsym), (bits h 255 224, strsz), (bits h 319 288, 24 * nrel),
       (bits h 383 352, 64 * nkd), (bits h 415 384, 32 * nbind), (bits h 543 512, 16 * nres)]
    let sigOk := if signed_ then sigsz == 3400 && sigoff + sigsz == f.length else sigoff == 0 && sigsz == 0
    let last := if signed_ then sigoff else f.length
    if f.length < 72 ∨ bits h 95 66 ≠ 0 ∨ nsec = 0 ∨ 65534 < nsec ∨ nsym = 0 ∨ strsz = 0 ∨ 4096 < nbind ∨ sigOk = false ∨
        (linked && nrel != 0) ∨ (tables.all fun t => t.1 % 8 == 0 && (t.2 == 0 || decide (t.1 + t.2 ≤ last))) = false ∨
        allApart ((0, 72) :: tables) = false then .error .badTable
    else
      let secs := (tableOf f (bits h 159 128) nsec 32).mapM (readSec f linked)
      let strs := (f.drop (bits h 255 224)).take strsz
      let conts := (tableOf f (bits h 159 128) nsec 32).map fun v => (bits v 127 96, if bits v 39 32 = 3 then 0 else bits v 191 128)
      match secs with
      | none => .error .badTable
      | some secs =>
        let syms := (tableOf f (bits h 191 160) nsym 24).drop 1 |>.mapM (readSym nsec nkd)
        let rels := (tableOf f (bits h 319 288) nrel 24).mapM (readRel secs nsym)
        let kds := (tableOf f (bits h 383 352) nkd 64).mapM (readKd secs nres)
        let binds := (tableOf f (bits h 415 384) nbind 32).mapM (readBind nsym)
        let res := (tableOf f (bits h 543 512) nres 16).mapM readRes
        let sig : Option OSig := if signed_ then
          some { edkey := numAt f (sigoff + 8) 8, mlkey := numAt f (sigoff + 16) 8, edsig := (f.drop (sigoff + 24)).take 64,
                 mlsig := (f.drop (sigoff + 88)).take 3309 } else none
        let sigFields := !signed_ || (numAt f sigoff 8 == 1 && numAt f (sigoff + 3397) 3 == 0)
        match syms, rels, kds, binds, res with
        | some syms, some rels, some kds, some binds, some res =>
          let names := (secs.map (·.name)) ++ (syms.map (·.name)) ++ kds.map (·.name)
          if numAt f (bits h 191 160) 24 ≠ 0 ∨ strs[0]? ≠ some 0 ∨ (names.all (nameOk strs)) = false ∨ sigFields = false ∨
              (conts.all fun c => ((0, 72) :: tables).all (apart c)) = false ∨ (conts.all fun c => c.2 == 0 || decide (c.1 + c.2 ≤ last)) = false
          then .error .badTable
          else .ok
            { linked := linked, secs := secs, syms := { name := 0, sect := 0, bind := 0, kind := 0, value := 0, kdx := 0 } :: syms,
              strs := strs, kds := kds, rels := rels, binds := binds, res := res, sig := sig }
        | _, _, _, _, _ => .error .badTable

end Sys2Proof.Machine
end

