-- ==== Sys2Proof/Machine/Integer.lean ====
section
/-! DEFINITION. Machine/Integer.lean: the integer, logic, predicate and register-move majors, 0x00 to 0x29 (R126 to
R145), each as the register writes and flags of one lane. -/

namespace Sys2Proof.Machine

open Sys2Proof

/-- What one lane's instruction writes, and the flags it sets. -/
abbrev Result2 := Writes × BitVec 7

/-- FY, FZ and the third source as values of the instruction's type. -/
def Env.a (e : Env) : Int := e.val e.op.typ e.op.fy
/-- FZ as a value of the type. -/
def Env.b (e : Env) : Int := e.val e.op.typ e.op.fz
/-- The third source as a value of the type. -/
def Env.c (e : Env) : Int := e.val e.op.typ e.third
/-- MIN. -/
def Env.mn (e : Env) : Nat := e.op.min.toNat

/-- A value of the instruction's type written to FX, wrapped (R126). -/
def Env.put (e : Env) (v : Int) : Writes := dest e.op.fx (e.op.typ.words v)
/-- WRAP or SAT as MIN says (R130). -/
def Env.wrapSat (e : Env) (v : Int) : Result2 :=
  if e.mn = 0 then (e.put v, 0) else let (w, f) := clampTo e.op.typ v; (e.put w, f)
/-- A 32-bit count or truth written to FX. -/
def Env.put32 (e : Env) (v : Nat) : Result2 := (dest e.op.fx [BitVec.ofNat 32 v], 0)
/-- A 64-bit value written to the FX pair. -/
def Env.put64 (e : Env) (v : Int) : Result2 := (dest e.op.fx [wrapTo 32 v, wrapTo 32 (v / 2 ^ 32)], 0)

/-- IADD (R130). -/
def runIadd (e : Env) : Result2 := e.wrapSat (e.a + e.b)
/-- ISUB (R130). -/
def runIsub (e : Env) : Result2 := e.wrapSat (e.a - e.b)
/-- IADD3 (R130). -/
def runIadd3 (e : Env) : Result2 := (e.put (e.a + e.b + e.c), 0)
/-- IMUL: WRAP, SAT or WIDE (R130). -/
def runImul (e : Env) : Result2 := if e.mn = 2 then e.put64 (e.a * e.b) else e.wrapSat (e.a * e.b)
/-- IMULH: floor(a · b / 2^n) (R130). -/
def runImulh (e : Env) : Result2 := (e.put (e.a * e.b / (2 ^ e.op.typ.width : Nat)), 0)
/-- IMAD: WRAP, or WIDE with a 64-bit third source (R130). (log 38, DEDUCED) -/
def runImad (e : Env) : Result2 :=
  if e.mn = 1 then e.put64 (e.a * e.b + (e.src64 .n64 e.third).toNat) else (e.put (e.a * e.b + e.c), 0)
/-- IMIN (R130). -/
def runImin (e : Env) : Result2 := (e.put (min e.a e.b), 0)
/-- IMAX (R130). -/
def runImax (e : Env) : Result2 := (e.put (max e.a e.b), 0)
/-- IABS (R130). -/
def runIabs (e : Env) : Result2 := e.wrapSat (e.a.natAbs : Int)
/-- INEG (R130). -/
def runIneg (e : Env) : Result2 := e.wrapSat (-e.a)
/-- IADDMIN and IADDMAX (R132). -/
def addCompare (e : Env) (f : Int → Int → Int) : Result2 :=
  if e.mn = 0 then (e.put (f (e.op.typ.value ((e.a + e.b) % (2 ^ e.op.typ.width : Nat)).toNat) e.c), 0)
  else let (w, g) := clampTo e.op.typ (f (e.a + e.b) e.c); (e.put w, g)
/-- IADDMIN (R132). -/
def runIaddmin (e : Env) : Result2 := addCompare e min
/-- IADDMAX (R132). -/
def runIaddmax (e : Env) : Result2 := addCompare e max
/-- ISAD: abs(a − b) + c, modulo 2^32 (R132). -/
def runIsad (e : Env) : Result2 := (e.put ((e.a - e.b).natAbs + ((e.src e.third).toNat : Int)), 0)
/-- LEA (R131). -/
def runLea (e : Env) : Result2 :=
  e.put64 ((e.src64 .n64 e.op.fy).toNat + e.b * (2 ^ e.mn : Nat) + (e.src e.third).toInt)

/-- Integer division: quotient and remainder with their flags (R133). -/
def divide (t : Typ) (a b : Int) : (Int × BitVec 7) × (Int × BitVec 7) :=
  if b = 0 then ((if t.isSigned && decide (a < 0) then t.lo else t.hi, fDZ), (a, fDZ))
  else if t.isSigned && a == t.lo && b == -1 then ((t.hi, fSAT), (0, 0))
  else ((a.tdiv b, 0), (a.tmod b, 0))
/-- IDIV (R133). -/
def runIdiv (e : Env) : Result2 := let (q, f) := (divide e.op.typ e.a e.b).1; (e.put q, f)
/-- IREM (R133). -/
def runIrem (e : Env) : Result2 := let (r, f) := (divide e.op.typ e.a e.b).2; (e.put r, f)

/-! ### Logic, shifts and fields -/

/-- Width of a logic operation: 64 for N64, else 32. -/
def Env.n (e : Env) : Nat := e.op.typ.width
/-- FY as raw bits. -/
def Env.ra (e : Env) : Nat := e.raw e.op.typ e.op.fy
/-- FZ as raw bits. -/
def Env.rb (e : Env) : Nat := e.raw e.op.typ e.op.fz
/-- Raw bits written to FX. -/
def Env.putRaw (e : Env) (v : Nat) : Result2 :=
  if e.op.typ.is64 then e.put64 v else e.put32 v

/-- AND (R134). -/
def runAnd (e : Env) : Result2 := e.putRaw (Nat.land e.ra e.rb)
/-- OR (R134). -/
def runOr (e : Env) : Result2 := e.putRaw (Nat.lor e.ra e.rb)
/-- XOR (R134). -/
def runXor (e : Env) : Result2 := e.putRaw (Nat.xor e.ra e.rb)
/-- ANDN (R134). -/
def runAndn (e : Env) : Result2 := e.putRaw (Nat.land e.ra (2 ^ e.n - 1 - e.rb))
/-- NOT (R134). -/
def runNot (e : Env) : Result2 := e.putRaw (2 ^ e.n - 1 - e.ra)
/-- The shift count: FZ read as N32 (R135). -/
def Env.count (e : Env) : Nat := (e.src e.op.fz).toNat
/-- SHL (R135). -/
def runShl (e : Env) : Result2 :=
  let k := if e.mn = 1 then e.count % e.n else e.count
  e.putRaw (if k ≥ e.n then 0 else e.ra * 2 ^ k % 2 ^ e.n)
/-- SHR (R135). -/
def runShr (e : Env) : Result2 :=
  let k := if e.mn = 1 then e.count % e.n else e.count
  e.putRaw (if k ≥ e.n then 0 else e.ra / 2 ^ k)
/-- SAR (R135). -/
def runSar (e : Env) : Result2 :=
  let k := if e.mn = 1 then e.count % e.n else min e.count e.n
  (e.put (e.a / (2 ^ k : Nat)), 0)
/-- ROL (R135). -/
def runRol (e : Env) : Result2 :=
  let k := e.count % e.n
  e.putRaw (e.ra * 2 ^ k % 2 ^ e.n + e.ra / 2 ^ (e.n - k))
/-- FSHL (R135). -/
def runFshl (e : Env) : Result2 :=
  let v := (e.src e.op.fy).toNat * 2 ^ 32 + (e.src e.op.fz).toNat
  e.put32 (v * 2 ^ ((e.src e.third).toNat % 32) / 2 ^ 32 % 2 ^ 32)
/-- BFX (R136). -/
def runBfx (e : Env) : Result2 :=
  let p := min ((e.src e.op.fz).toNat % 256) 32
  let l := min ((e.src e.third).toNat % 256) (32 - p)
  let v := (e.src e.op.fy).toNat / 2 ^ p % 2 ^ l
  (dest e.op.fx [if l = 0 then 0 else if e.op.typ.isSigned then wrapTo 32 (signed l v) else BitVec.ofNat 32 v], 0)
/-- BFI (R136). -/
def runBfi (e : Env) : Result2 :=
  let c := (e.src e.third).toNat
  let p := min (c % 256) 32
  let l := min (c / 256 % 256) (32 - p)
  let y := (e.src e.op.fy).toNat
  let mid := (e.src e.op.fz).toNat % 2 ^ l
  e.put32 (y / 2 ^ (p + l) * 2 ^ (p + l) + mid * 2 ^ p + y % 2 ^ p)
/-- The bits of a number, least significant first. -/
def bitsOf (n v : Nat) : List Bool := (List.range n).map fun i => v / 2 ^ i % 2 == 1
/-- POPC (R134). -/
def runPopc (e : Env) : Result2 := e.put32 ((bitsOf e.n e.ra).count true)
/-- CLZ (R134). -/
def runClz (e : Env) : Result2 := e.put32 ((bitsOf e.n e.ra).reverse.takeWhile (· == false)).length
/-- CTZ (R134). -/
def runCtz (e : Env) : Result2 := e.put32 ((bitsOf e.n e.ra).takeWhile (· == false)).length
/-- BREV (R134). -/
def runBrev (e : Env) : Result2 :=
  e.putRaw ((bitsOf e.n e.ra).foldl (fun v b => 2 * v + (if b then 1 else 0)) 0)
/-- PRMT (R137). -/
def runPrmt (e : Env) : Result2 :=
  let x := (e.src e.op.fz).toNat * 2 ^ 32 + (e.src e.op.fy).toNat
  let c := (e.src e.third).toNat
  let byte (i : Nat) : Nat :=
    let nb := c / 2 ^ (4 * i) % 16
    let xj := x / 2 ^ (8 * (nb % 8)) % 256
    if nb ≥ 8 then (if xj ≥ 128 then 255 else 0) else xj
  e.put32 (byte 0 + byte 1 * 2 ^ 8 + byte 2 * 2 ^ 16 + byte 3 * 2 ^ 24)

/-! ### Comparison, selection, predicates -/

/-- The conditions EQ to GE on integers (R138). -/
def compareInt (cc : Nat) (a b : Int) : Bool :=
  match cc with
  | 0 => a == b | 1 => a != b | 2 => decide (a < b) | 3 => decide (a ≤ b) | 4 => decide (a > b) | _ => decide (a ≥ b)
/-- ICMP (R138). -/
def runIcmp (e : Env) : Result2 := (destBool e.op.fx (compareInt e.mn e.a e.b), 0)
/-- The condition of ISEL and FSEL: a set predicate, or a nonzero register (R139). -/
def Env.cond (e : Env) : Bool := e.src e.third != 0
/-- ISEL (R139). -/
def runIsel (e : Env) : Result2 := e.putRaw (if e.cond then e.ra else e.rb)
/-- PSET (R140). -/
def runPset (e : Env) : Result2 :=
  let a := e.src e.op.fy != 0
  let b := e.src e.op.fz != 0
  let r := match e.mn with
    | 0 => a && b | 1 => a || b | 2 => a != b | 3 => a && !b | 4 => a || !b | 5 => !(a && b) | 6 => !(a || b)
    | _ => a == b
  (destBool e.op.fx r, 0)
/-- PMOV: PACK, or UNPACK under a mask (R141). -/
def runPmov (e : Env) : Result2 :=
  if e.mn = 0 then e.put32 (1 + 2 * e.l.p.toNat)
  else
    let a := e.src e.op.fy
    let m := e.src e.op.fz
    (((List.range 16).filter fun i => decide (i ≠ 0) && m.getLsbD i).map
      fun i => (0x100 + i, if a.getLsbD i then 1 else 0), 0)
/-- MOV to g registers or z (R142). -/
def runMov (e : Env) : Result2 := e.putRaw e.ra
/-- IEXT (R143). -/
def runIext (e : Env) : Result2 :=
  let v := e.op.typ.value (e.src e.op.fy).toNat
  if e.mn = 1 then e.put64 v else (dest e.op.fx [wrapTo 32 v], 0)
/-- CSRR: the value when the instruction issues (R145). -/
def runCsrr (e : Env) : Result2 :=
  let v := csrValue e.s e.k e.l (e.op.l 15 0)
  match e.op.fx with
  | .p _ => (destBool e.op.fx (v != 0), 0)
  | _ => if csr64 (e.op.l 15 0) then e.put64 v else e.put32 v

/-! ### Writes of shared registers: the lane whose write remains is unspecified (R116) -/

/-- MOV to %flags or %farm: bits [31:7] are written as 0 (R118). (log 5, DESIGN CHOICE) -/
def movShared (ks : List LaneId) (v : LaneId → Word) (r : SReg) : Act := fun s =>
  Act.each (ks.map s.crewOf).dedup (fun c =>
    let w := s.choose c.crew 0 ((ks.filter fun k => s.crewOf k = c).map v)
    updCrew c fun x => if r == .flags then { x with flags := w.setWidth 7 } else { x with farm := w.setWidth 7 }) s

/-- KMOV: the k register or pair of the issuing lane's crew (R144). (log 5, DESIGN CHOICE) -/
def kmovCrews (ks : List LaneId) (n : Nat) (v : LaneId → List Word) : Act := fun s =>
  Act.each (ks.map s.crewOf).dedup (fun c =>
    let ws := s.choose c.crew [] ((ks.filter fun k => s.crewOf k = c).map v)
    updCrew c fun x => { x with k := ws.zipIdx.foldl (fun m w => m.set (n + w.2) w.1) x.k }) s

/-- CSRW of TPC or AGELIM (R121, R145). (log 5, DESIGN CHOICE) -/
def csrwShared (ks : List LaneId) (code : Nat) (v : LaneId → DWord) : Act := fun s =>
  if code = 0x2000 then
    Act.each (ks.map s.crewOf).dedup (fun c =>
      let w := s.choose c.crew 0 ((ks.filter fun k => s.crewOf k = c).map v)
      updCrew c fun x => { x with tpc := w }) s
  else
    match ks with
    | [] => []
    | k :: _ =>
      let w := s.choose 0 0 (ks.map v)
      updPeloton (s.coreOf k, s.pslot k) (fun p => { p with agelim := agelimOf (w.setWidth 32) }) s

end Sys2Proof.Machine
end

