-- ==== Sys2Proof/Machine/Float.lean ====
section
/-! DEFINITION. Machine/Float.lean: the floating-point and conversion majors, 0x30 to 0x57 (R146 to R166), each as the
register writes and flags of one lane. The special functions are computed in integer arithmetic with `fixP` fraction
bits and rounded once. -/

namespace Sys2Proof.Machine

open Sys2Proof

/-- FY as an F32 value. -/
def Env.fa (e : Env) : FV := e.f32 e.op.fy
/-- FZ as an F32 value. -/
def Env.fb (e : Env) : FV := e.f32 e.op.fz
/-- The third source as an F32 value. -/
def Env.fc (e : Env) : FV := e.f32 e.third
/-- The rounding mode: MIN[1:0] (R105). -/
def Env.mode (e : Env) : Nat := e.mn % 4
/-- Register bits with flags, written to FX. -/
def Env.putBits (e : Env) (r : Nat × BitVec 7) : Result2 := (dest e.op.fx [BitVec.ofNat 32 r.1], r.2)
/-- An F32 result. -/
def Env.putF (e : Env) (r : FV × BitVec 7) : Result2 := e.putBits (formF32.result e.mode r)

/-- FADD (R149). -/
def runFadd (e : Env) : Result2 := e.putF (e.fa.add e.mode e.fb)
/-- FSUB (R149): a + (−b). -/
def runFsub (e : Env) : Result2 := e.putF (e.fa.add e.mode e.fb.negate)
/-- FMUL (R149). -/
def runFmul (e : Env) : Result2 := e.putF (e.fa.mul e.fb)
/-- FFMA (R149). -/
def runFfma (e : Env) : Result2 := e.putF (FV.fma e.mode e.fa e.fb e.fc)
/-- FMIN (R150). -/
def runFmin (e : Env) : Result2 := e.putBits (formF32.minMax false (e.mn == 1) (e.src e.op.fy).toNat (e.src e.op.fz).toNat)
/-- FMAX (R150). -/
def runFmax (e : Env) : Result2 := e.putBits (formF32.minMax true (e.mn == 1) (e.src e.op.fy).toNat (e.src e.op.fz).toNat)
/-- FABS (R151). -/
def runFabs (e : Env) : Result2 := e.put32 ((e.src e.op.fy).toNat % 2 ^ 31)
/-- FNEG (R151). -/
def runFneg (e : Env) : Result2 := e.put32 (Nat.xor (e.src e.op.fy).toNat (2 ^ 31))
/-- FADDMIN: FMIN.NUM of the rounded sum and c (R149). -/
def runFaddmin (e : Env) : Result2 :=
  let (v, f) := formF32.result e.mode (e.fa.add e.mode e.fb)
  let (r, g) := formF32.minMax false false v (e.src e.third).toNat
  e.putBits (r, f ||| g)

/-- An operand as a value of a floating type (R95). -/
def Env.fval (e : Env) (t : Typ) (o : Opnd) : FV := (formOf t).decode ((e.src o).toNat % 2 ^ t.width)

/-- The conditions of FCMP (R152) with the INV that they set. -/
def compareFloat (cc : Nat) (a b : FV) : Bool × BitVec 7 :=
  let u := a.isNan || b.isNan
  let lt := a.lt b
  let gt := b.lt a
  let sig := flagIf (a.isSig || b.isSig) fINV
  let any := flagIf u fINV
  match cc with
  | 0 => (!u && !lt && !gt, sig)
  | 1 => (u || lt || gt, sig)
  | 2 => (!u && lt, any)
  | 3 => (!u && !gt, any)
  | 4 => (!u && gt, any)
  | 5 => (!u && !lt, any)
  | 6 => (u, sig)
  | _ => (!u, sig)
/-- FCMP (R152). -/
def runFcmp (e : Env) : Result2 :=
  let (r, f) := compareFloat e.mn (e.fval e.op.typ e.op.fy) (e.fval e.op.typ e.op.fz)
  (destBool e.op.fx r, f)
/-- FSEL (R153). -/
def runFsel (e : Env) : Result2 := (dest e.op.fx [if e.cond then e.src e.op.fy else e.src e.op.fz], 0)
/-- FRND (R154). -/
def runFrnd (e : Env) : Result2 :=
  match e.fa with
  | .fin n m x => e.putBits (formF32.round e.mode n (roundAt e.mode n (max 0 x) m x false) (max 0 x) false)
  | v => e.putBits (formF32.write e.mode v)
/-- FSCALE (R154). -/
def runFscale (e : Env) : Result2 :=
  match e.fa with
  | .fin n m x => e.putBits (formF32.round e.mode n m (x + (e.src e.op.fz).toInt) false)
  | v => e.putBits (formF32.write e.mode v)
/-- The class bit of a value of a form (R155). -/
def classBit (f : FForm) (v : FV) : Nat :=
  match v with
  | .nan s => if s then 8 else 9
  | .inf n => if n then 0 else 7
  | .fin n m _ => if m = 0 then (if n then 3 else 4) else if m < 2 ^ f.man then (if n then 2 else 5) else (if n then 1 else 6)
/-- FCLASS (R155). -/
def runFclass (e : Env) : Result2 :=
  let c := 2 ^ classBit (formOf e.op.typ) (e.fval e.op.typ e.op.fy)
  match e.op.fx with
  | .g _ => e.put32 c
  | o => (destBool o (Nat.land (e.src e.op.fz).toNat c != 0), 0)

/-! ### Special functions (R156, R157) -/

/-- Fraction bits of the fixed-point arithmetic. (log 37, DEDUCED) -/
def fixP : Nat := 640
/-- One. -/
def fixOne : Int := (2 ^ fixP : Nat)
/-- Product. -/
def fixMul (a b : Int) : Int := a * b / fixOne
/-- Quotient. -/
def fixDiv (a b : Int) : Int := a * fixOne / b
/-- A dyadic number as a fixed-point number. -/
def fixOf (n : Bool) (m : Nat) (e : Int) : Int :=
  let v : Int := if e ≥ -(fixP : Int) then (m * 2 ^ (e + fixP).toNat : Nat) else (m / 2 ^ (-(e + fixP)).toNat : Nat)
  if n then -v else v

/-- The sum of `n` terms; each term is the one before it times x, divided by the next divisor. -/
def fixSeries (x : Int) (div : Nat → Int) : Nat → Nat → Int → Int
  | 0, _, _ => 0
  | n + 1, i, t => t + fixSeries x div n (i + 1) (fixMul t x / div i)

/-- e^r for |r| < 1: the Taylor series. -/
def fixExp (r : Int) : Int := fixSeries r (fun i => (i : Int) + 1) 140 0 fixOne

/-- The sum of `n` terms p / (2i + 1), each p being the one before it divided by `d`. -/
def fixOdd (d : Int) (alt : Bool) : Nat → Nat → Int → Int
  | 0, _, _ => 0
  | n + 1, i, p => p / (2 * (i : Int) + 1) + fixOdd d alt n (i + 1) ((if alt then -p else p) / d)

/-- π by Machin's formula, 16 atan(1/5) − 4 atan(1/239). -/
def fixPi : Int := 16 * fixOdd 25 true 150 0 (fixOne / 5) - 4 * fixOdd 57121 true 50 0 (fixOne / 239)
/-- ln 2 = 2 atanh(1/3). -/
def fixLn2 : Int := 2 * fixOdd 9 false 215 0 (fixOne / 3)

/-- The sum of `n` terms p / (2i + 1), each p being the one before it times z2. -/
def fixAtanh (z2 : Int) : Nat → Nat → Int → Int
  | 0, _, _ => 0
  | n + 1, i, p => p / (2 * (i : Int) + 1) + fixAtanh z2 n (i + 1) (fixMul p z2)

/-- ln m for 1 ≤ m < 2: 2 atanh((m − 1)/(m + 1)). -/
def fixLn (m : Int) : Int :=
  let z := fixDiv (m - fixOne) (m + fixOne)
  2 * fixAtanh (fixMul z z) 215 0 z

/-- e^x as v · 2^k, v in fixed point. -/
def fixExpK (x : Int) : Int × Int :=
  let k := x / fixLn2
  (fixExp (x - k * fixLn2), k)

/-- sin and cos of a fixed-point number of radians: reduced into −π to π, then the Taylor series. -/
def fixSinCos (x : Int) : Int × Int :=
  let r := (x + fixPi) % (2 * fixPi) - fixPi
  let r2 := -fixMul r r
  (fixSeries r2 (fun i => (2 * (i : Int) + 2) * (2 * (i : Int) + 3)) 100 0 r,
   fixSeries r2 (fun i => (2 * (i : Int) + 1) * (2 * (i : Int) + 2)) 100 0 fixOne)

/-- A fixed-point result v · 2^k, inexact, rounded to F32. (log 37, DEDUCED) -/
def putFix (mode : Nat) (v : Int) (k : Int) : Nat × BitVec 7 :=
  formF32.round mode (v < 0) v.natAbs (k - fixP) true

/-- floor of the square root, bit by bit. -/
def isqrtFrom (x : Nat) : Nat → Nat → Nat
  | 0, r => r
  | n + 1, r => isqrtFrom x n (if (r + 2 ^ n) * (r + 2 ^ n) ≤ x then r + 2 ^ n else r)
/-- floor √x. -/
def isqrt (x : Nat) : Nat := isqrtFrom x (Nat.log2 x / 2 + 1) 0

/-- FRCP of a value: 1/a (R156, R157). (log 37, DEDUCED) -/
def frcp (v : FV) : Nat × BitVec 7 :=
  match v with
  | .nan _ => formF32.write 0 v
  | .inf n => (formF32.sign n, 0)
  | .fin n m x =>
    if m = 0 then (formF32.infinity n, fDZ)
    else let q := 2 ^ 128 / m; formF32.round 0 n q (-x - 128) (decide (q * m ≠ 2 ^ 128))

/-- A value m · 2^x with an even exponent, as m' · 4^h. -/
def evenExp (m : Nat) (x : Int) : Nat × Int := if x % 2 = 0 then (m, x / 2) else (2 * m, (x - 1) / 2)

/-- FRSQ of a value: 1/√a. (log 37, DEDUCED) -/
def frsq (v : FV) : Nat × BitVec 7 :=
  match v with
  | .nan _ => formF32.write 0 v
  | .inf n => if n then (formF32.canon, fINV) else (0, 0)
  | .fin n m x =>
    if m = 0 then (formF32.infinity n, fDZ)
    else if n then (formF32.canon, fINV)
    else
      let (m', h) := evenExp m x
      let r := isqrt (2 ^ 256 / m')
      formF32.round 0 false r (-h - 128) (decide (r * r * m' ≠ 2 ^ 256))

/-- FSQRT of a value in a mode. (log 37, DEDUCED) -/
def fsqrt (mode : Nat) (v : FV) : Nat × BitVec 7 :=
  match v with
  | .nan _ => formF32.write 0 v
  | .inf n => if n then (formF32.canon, fINV) else (formF32.infinity false, 0)
  | .fin n m x =>
    if m = 0 then (formF32.sign n, 0)
    else if n then (formF32.canon, fINV)
    else
      let (m', h) := evenExp m x
      let r := isqrt (m' * 2 ^ 128)
      formF32.round mode false r (h - 64) (decide (r * r ≠ m' * 2 ^ 128))

/-- FEX2 of a value: 2^a. Beyond ±512 the result is that at ±512. (log 37, DEDUCED) -/
def fex2 (v : FV) : Nat × BitVec 7 :=
  match v with
  | .nan _ => formF32.write 0 v
  | .inf n => (if n then 0 else formF32.infinity false, 0)
  | .fin n m x =>
    if m = 0 then (0x3F800000, 0)
    else if x + (Nat.log2 m : Int) ≥ 9 then formF32.round 0 false 1 (if n then -512 else 512) true
    else if x + (Nat.log2 m : Int) < -60 then (0x3F800000, 0)
    else
      let a := fixOf n m x
      let k := a / fixOne
      let f := a - k * fixOne
      if f = 0 then formF32.round 0 false 1 k false
      else let (w, j) := fixExpK (fixMul f fixLn2); putFix 0 w (k + j)

/-- FLG2 of a value: log2 a. (log 37, DEDUCED) -/
def flg2 (v : FV) : Nat × BitVec 7 :=
  match v with
  | .nan _ => formF32.write 0 v
  | .inf n => if n then (formF32.canon, fINV) else (formF32.infinity false, 0)
  | .fin n m x =>
    if m = 0 then (formF32.infinity true, fDZ)
    else if n then (formF32.canon, fINV)
    else
      let l := Nat.log2 m
      let k := x + (l : Int)
      if m = 2 ^ l then formF32.round 0 (k < 0) k.natAbs 0 false
      else putFix 0 (k * fixOne + fixDiv (fixLn (fixOf false m (-(l : Int)))) fixLn2) 0

/-- FSIN of a value. Below 2^-40 in magnitude sin a lies nearest to a. (log 37, DEDUCED) -/
def fsin (v : FV) : Nat × BitVec 7 :=
  match v with
  | .nan _ => formF32.write 0 v
  | .inf _ => (formF32.canon, fINV)
  | .fin n m x =>
    if m = 0 || decide (x + (Nat.log2 m : Int) < -40) then formF32.round 0 n m x false
    else putFix 0 (fixSinCos (fixOf n m x)).1 0

/-- FCOS of a value. (log 37, DEDUCED) -/
def fcos (v : FV) : Nat × BitVec 7 :=
  match v with
  | .nan _ => formF32.write 0 v
  | .inf _ => (formF32.canon, fINV)
  | .fin n m x =>
    if m = 0 || decide (x + (Nat.log2 m : Int) < -40) then (0x3F800000, 0)
    else putFix 0 (fixSinCos (fixOf n m x)).2 0

/-- FTANH of a value: 1 − 2/(e^2a + 1). (log 37, DEDUCED) -/
def ftanh (v : FV) : Nat × BitVec 7 :=
  match v with
  | .nan _ => formF32.write 0 v
  | .inf n => (formF32.sign n + 0x3F800000, 0)
  | .fin n m x =>
    if m = 0 || decide (x + (Nat.log2 m : Int) < -40) then formF32.round 0 n m x false
    else if x + (Nat.log2 m : Int) ≥ 6 then (formF32.sign n + 0x3F800000, 0)
    else
      let (w, k) := fixExpK (2 * fixOf false m x)
      let t := fixOne - fixDiv (2 * fixOne) (w * (2 ^ k.toNat : Nat) + fixOne)
      putFix 0 (if n then -t else t) 0

/-- FSIGM of a value: 1/(1 + e^−a). Beyond ±128 the result is that at ±128. (log 37, DEDUCED) -/
def fsigm (v : FV) : Nat × BitVec 7 :=
  match v with
  | .nan _ => formF32.write 0 v
  | .inf n => (if n then 0 else 0x3F800000, 0)
  | .fin n m x =>
    if m = 0 || decide (x + (Nat.log2 m : Int) < -60) then (0x3F000000, 0)
    else if x + (Nat.log2 m : Int) ≥ 7 then (if n then 0 else 0x3F800000, 0)
    else
      let (w, k) := fixExpK (fixOf (!n) m x)
      let ex : Int := if k ≥ 0 then w * (2 ^ k.toNat : Nat) else w / (2 ^ (-k).toNat : Nat)
      putFix 0 (fixDiv fixOne (fixOne + ex)) 0

/-- FRCP (R156). -/
def runFrcp (e : Env) : Result2 := e.putBits (frcp e.fa)
/-- FRSQ (R156). -/
def runFrsq (e : Env) : Result2 := e.putBits (frsq e.fa)
/-- FSQRT (R156). -/
def runFsqrt (e : Env) : Result2 := e.putBits (fsqrt e.mode e.fa)
/-- FEX2 (R156). -/
def runFex2 (e : Env) : Result2 := e.putBits (fex2 e.fa)
/-- FLG2 (R156). -/
def runFlg2 (e : Env) : Result2 := e.putBits (flg2 e.fa)
/-- FSIN (R156). -/
def runFsin (e : Env) : Result2 := e.putBits (fsin e.fa)
/-- FCOS (R156). -/
def runFcos (e : Env) : Result2 := e.putBits (fcos e.fa)
/-- FTANH (R156). -/
def runFtanh (e : Env) : Result2 := e.putBits (ftanh e.fa)
/-- FSIGM (R156). -/
def runFsigm (e : Env) : Result2 := e.putBits (fsigm e.fa)

/-! ### Packed halves (R158) and the dot product (R159) -/

/-- Half i of a register. -/
def half (v : Word) (i : Nat) : Nat := v.toNat / 2 ^ (16 * i) % 2 ^ 16
/-- Two halves with their flags. -/
def packHalves (f : Nat → Nat × BitVec 7) : Nat × BitVec 7 := ((f 0).1 + (f 1).1 * 2 ^ 16, (f 0).2 ||| (f 1).2)

/-- HADD2's halves. -/
def addHalves (t : Typ) (mode : Nat) (a b : Word) : Nat × BitVec 7 :=
  let f := formOf t
  packHalves fun i => f.result mode ((f.decode (half a i)).add mode (f.decode (half b i)))
/-- HADD2 (R158). -/
def runHadd2 (e : Env) : Result2 := e.putBits (addHalves e.op.typ e.mode (e.src e.op.fy) (e.src e.op.fz))
/-- HMUL2 (R158). -/
def runHmul2 (e : Env) : Result2 :=
  let f := formOf e.op.typ
  e.putBits (packHalves fun i =>
    f.result e.mode ((f.decode (half (e.src e.op.fy) i)).mul (f.decode (half (e.src e.op.fz) i))))
/-- HFMA2 (R158). -/
def runHfma2 (e : Env) : Result2 :=
  let f := formOf e.op.typ
  e.putBits (packHalves fun i => f.result e.mode (FV.fma e.mode (f.decode (half (e.src e.op.fy) i))
    (f.decode (half (e.src e.op.fz) i)) (f.decode (half (e.src e.third) i))))
/-- HMIN2 (R158). -/
def runHmin2 (e : Env) : Result2 := e.putBits (packHalves fun i =>
  (formOf e.op.typ).minMax false (e.mn == 1) (half (e.src e.op.fy) i) (half (e.src e.op.fz) i))
/-- HMAX2 (R158). -/
def runHmax2 (e : Env) : Result2 := e.putBits (packHalves fun i =>
  (formOf e.op.typ).minMax true (e.mn == 1) (half (e.src e.op.fy) i) (half (e.src e.op.fz) i))

/-- An exact sum with one rounding; every value is added before any rounding. Infinities of opposite sign set INV also beside a NaN. -/
def sumExact (mode : Nat) (vs : List (FV × BitVec 7)) (c : FV) : FV × BitVec 7 :=
  let all := c :: vs.map (·.1)
  let (r, f) := vs.foldl (fun acc v => let (r, f) := acc.1.add mode v.1; (r, acc.2 ||| v.2 ||| f)) (c, 0)
  (r, f ||| flagIf (all.contains (.inf true) && all.contains (.inf false)) fINV)
/-- FDOT4 (R159). -/
def runFdot4 (e : Env) : Result2 :=
  let ta := e.op.typ
  let tb := if decide (4 ≤ e.mn) then (if ta == .e4m3 then Typ.e5m2 else Typ.e4m3) else ta
  let el (t : Typ) (w : Word) (i : Nat) : FV := (formOf t).decode (w.toNat / 2 ^ (8 * i) % 256)
  let c := e.fc
  let ps := (List.range 4).map fun i => (el ta (e.src e.op.fy) i).mul (el tb (e.src e.op.fz) i)
  e.putF (sumExact e.mode ps c)

/-! ### Conversions (R160 to R166) -/

/-- CVT of one value (R161): bits as an integer, and flags. -/
def convert (src dst : Typ) (mode : Nat) (raw : Nat) : Int × BitVec 7 :=
  let v : FV := if src.isInt then FV.ofInt (src.value raw) else (formOf src).decode (raw % 2 ^ src.width)
  if dst.isInt then toInt dst mode v
  else let (b, f) := (formOf dst).write mode v; (b, f)
/-- CVT (R161). (log 38, DEDUCED) -/
def runCvt (e : Env) : Result2 :=
  let src := Typ.ofCode (e.mn / 4)
  let (v, f) := convert src e.op.typ e.mode (e.raw src e.op.fy)
  if e.op.typ.isInt then (e.put v, f) else (dest e.op.fx [wrapTo 32 v], f)
/-- CVTP (R162). -/
def runCvtp (e : Env) : Result2 :=
  let (a, f) := convert .f32 e.op.typ e.mode (e.src e.op.fy).toNat
  let (b, g) := convert .f32 e.op.typ e.mode (e.src e.op.fz).toNat
  (dest e.op.fx [wrapTo 32 (a + b * (2 ^ 16 : Nat))], f ||| g)
/-- CVT8: the low half, or the high half with FX[15:0] kept (R162). -/
def runCvt8 (e : Env) : Result2 :=
  let (a, f) := convert .f32 e.op.typ e.mode (e.src e.op.fy).toNat
  let (b, g) := convert .f32 e.op.typ e.mode (e.src e.op.fz).toNat
  let v := a + b * 256
  (dest e.op.fx [if e.mn < 4 then wrapTo 32 v else wrapTo 32 (v * (2 ^ 16 : Nat) + ((e.src e.op.fx).toNat % 2 ^ 16 : Nat))],
   f ||| g)
/-- UNPK (R163). -/
def runUnpk (e : Env) : Result2 :=
  let t := e.op.typ
  let x := (e.src e.op.fy).toNat / 2 ^ (t.width * e.mn) % 2 ^ t.width
  let v : FV := if t == .ds8 then FV.ofInt (ds8Weight x) else (formOf t).decode x
  e.putBits (formF32.write 0 v)

/-- The least integer x from −127 to 127 with m · 2^e ≤ L · 2^x, counting up from `x0`. -/
def leastScale (L m : Nat) (e : Int) : Nat → Int → Int
  | 0, x => x
  | n + 1, x => if scaled false m e (min e x) ≤ scaled false L x (min e x) then x else leastScale L m e n (x + 1)
/-- The scale byte of a block maximum (R164). -/
def blockScale (L : Nat) (v : FV) : Nat × BitVec 7 :=
  match v with
  | .nan _ => (0xFF, fINV)
  | .inf _ => (0xFE, fSAT)
  | .fin _ m e =>
    if m = 0 then (0x7F, 0)
    else
      let x := leastScale L m e 256 (-127)
      if x > 127 then (254, fSAT) else ((x + 127).toNat, 0)
/-- MXQ: SCALE, or an element against a scale byte (R164, R165). -/
def runMxq (e : Env) : Result2 :=
  if e.mn = 0 then e.putBits (blockScale 6 e.fa)
  else e.putBits (mx4Encode e.mode (unscale e.fa ((e.src e.op.fz).toNat % 256)))
/-- DSQ (R164, R165). -/
def runDsq (e : Env) : Result2 :=
  if e.mn = 0 then e.putBits (blockScale 128 e.fa)
  else e.putBits (ds8Encode e.mode (unscale e.fa ((e.src e.op.fz).toNat % 256)))
/-- MXDQ (R166). -/
def runMxdq (e : Env) : Result2 :=
  e.putBits ((formOf e.op.typ).write 0 (elemValue .mx4 (e.src e.op.fy).toNat ((e.src e.op.fz).toNat % 256)))
/-- DSDQ (R166). -/
def runDsdq (e : Env) : Result2 :=
  e.putBits ((formOf e.op.typ).write 0 (elemValue .ds8 (e.src e.op.fy).toNat ((e.src e.op.fz).toNat % 256)))

end Sys2Proof.Machine
end

