-- ==== Sys2Proof/Machine/Registers.lean ====
section
/-! DEFINITION. Machine/Registers.lean: the registers of the device control space (R426 to R431) and what they read as, the two that are 16
bytes wide, and the sluice object (R279), which may lie among them. -/

namespace Sys2Proof.Machine

open Sys2Proof

/-! ### Work queues (R429) -/

/-- The fields of a work queue's configuration (R429). -/
def WQ.en (q : WQ) : Bool := q.cfg.getLsbD 31
/-- SEQDIE. -/
def WQ.die (q : WQ) : Nat := bits q.cfg.toNat 30 28
/-- LEVEL. -/
def WQ.level (q : WQ) : Nat := bits q.cfg.toNat 27 24
/-- DEPTH. The four bits of LGDEPTH cannot hold its value 16; 0 stands for it. (log 56, DESIGN CHOICE) -/
def WQ.depth (q : WQ) : Nat := if bits q.cfg.toNat 23 20 = 0 then 65536 else 2 ^ bits q.cfg.toNat 23 20
/-- Is it an item queue? -/
def WQ.item (q : WQ) : Bool := q.cfg.getLsbD 19
/-- The owning context. -/
def WQ.ctx (q : WQ) : Nat := bits q.cfg.toNat 11 0
/-- A queue that has never been configured. (log 6, DESIGN CHOICE; log 29, DEDUCED) -/
def WQ.init : WQ := { cfg := 0, recs := [], drops := 0 }
/-- A work queue. -/
def State.wq (s : State) (q : Nat) : WQ := s.queues.getD q WQ.init

/-! ### Registers -/

/-- A register, or a layout of fields, of the control space (R426). -/
inductive Item where
  | identity
  | quantum (core : Nat)
  | cisthw (cluster : Nat)
  | power
  | ring
  | nonce
  | status
  | report
  | queue (q : Nat)
  | context (c : Nat)
  | answer (c : Nat)
  | inval (c : Nat)
  | invdone (c : Nat)
  | preempt (c : Nat)
  | binding (c i : Nat)
  | route (d : Nat)
  deriving DecidableEq, Repr

/-- The item at an offset, with its base. (log 36, DEDUCED) -/
def itemAt (off : Nat) : Option (Item × Nat) :=
  let page := (off - 0x1000000) % 0x1000
  let c := (off - 0x1000000) / 0x1000
  let base := off - page
  if off < 0x40 then some (.identity, 0)
  else if 0x1000 ≤ off ∧ off < 0x1000 + 1152 then some (.quantum ((off - 0x1000) / 2), off / 2 * 2)
  else if 0x2000 ≤ off ∧ off < 0x2000 + 288 then some (.cisthw ((off - 0x2000) / 2), off / 2 * 2)
  else if 0x3000 ≤ off ∧ off < 0x3020 then some (.power, 0x3000)
  else if 0x4000 ≤ off ∧ off < 0x4020 then some (.ring, 0x4000)
  else if 0x5000 ≤ off ∧ off < 0x5020 then some (.nonce, 0x5000)
  else if 0x5020 ≤ off ∧ off < 0x5024 then some (.status, 0x5020)
  else if 0x6000 ≤ off ∧ off < 0x7000 then some (.report, 0x6000)
  else if 0x10000 ≤ off ∧ off < 0x18000 then some (.queue ((off - 0x10000) / 16), off / 16 * 16)
  else if 0x100000 ≤ off ∧ off < 0x200000 then some (.context ((off - 0x100000) / 256), off / 256 * 256)
  else if 0x1000000 ≤ off ∧ off < 0x2000000 then
    (if page < 0x20 then some (.answer c, base)
     else if 0x40 ≤ page ∧ page < 0x50 then some (.inval c, base + 0x40)
     else if 0x60 ≤ page ∧ page < 0x64 then some (.invdone c, base + 0x60)
     else if 0x80 ≤ page ∧ page < 0x88 then some (.preempt c, base + 0x80)
     else none)
  else if 0x1000000000 ≤ off ∧ off < 0x1020000000 then
    some (.binding ((off - 0x1000000000) / 0x20000) ((off - 0x1000000000) % 0x20000 / 32), off / 32 * 32)
  else if 0x2000000000 ≤ off ∧ off < 0x2000000400 then some (.route ((off - 0x2000000000) / 4), off / 4 * 4)
  else none

/-- Bytes of an item. -/
def Item.size : Item → Nat
  | .identity => 64
  | .quantum _ | .cisthw _ => 2
  | .power | .ring | .nonce | .answer _ | .binding _ _ => 32
  | .status | .invdone _ | .route _ => 4
  | .report => 4096
  | .queue _ | .inval _ => 16
  | .context _ => 256
  | .preempt _ => 8

/-- The fields of whole bytes of an item that are registers of their own: offset and size. (log 36, DEDUCED) -/
def Item.fields : Item → List (Nat × Nat)
  | .identity => [(0, 2), (4, 4), (8, 1), (10, 2), (12, 2), (15, 1), (16, 4), (20, 4), (24, 8), (32, 8), (40, 8)]
  | .power => [(0, 4), (4, 1), (5, 1), (28, 4)]
  | .ring => [(0, 8), (8, 1), (16, 4), (20, 4)]
  | .report => (List.range 1024).map fun i => (4 * i, 4)
  | .context _ => [(0, 8), (8, 8), (16, 4), (20, 4), (24, 8), (32, 8), (40, 8), (48, 8), (56, 4), (60, 4), (64, 4), (68, 4),
      (72, 4), (76, 4), (80, 8), (88, 4), (92, 4), (96, 8), (104, 4), (110, 2), (112, 1), (113, 1), (114, 1), (116, 2), (118, 2),
      (120, 2), (124, 4), (128, 8), (136, 4)]
  | .binding _ _ => [(0, 1), (12, 4), (16, 8), (24, 8)]
  | _ => []

/-! ### Values -/

/-- Fields laid out from bit 0: width and value. -/
def packBits : List (Nat × Nat) → Nat
  | [] => 0
  | (w, v) :: r => v % 2 ^ w + 2 ^ w * packBits r

/-- The identity block (R428); all zero while boot has failed (R436). -/
def State.identity (s : State) : Nat :=
  packBits [(16, 1), (16, 0), (32, 0x00090576), (8, s.dev.devno.toNat), (8, 0), (16, 576), (16, 144), (8, 0), (8, 18),
    (32, s.dev.fwver.toNat), (32, s.dev.fwmin.toNat), (64, keyId Config.identityKeys.1), (64, keyId Config.identityKeys.2), (64, Config.serial.toNat)]

/-- A context's entry (R366). -/
def Ctx.entry (c : Ctx) : Nat :=
  packBits [(64, c.ptroot.toNat), (64, c.kdtab.toNat), (32, c.kdn.toNat), (32, c.stack.toNat), (64, c.traptab.toNat), (64, c.fqb.toNat),
    (64, c.eqb.toNat), (64, c.cqb.toNat), (32, c.fqpi.toNat), (32, c.fqci.toNat), (32, c.eqpi.toNat), (32, c.eqci.toNat),
    (32, c.cqpi.toNat), (32, c.cqci.toNat), (64, c.ovfb.toNat), (32, c.ovfn.toNat), (32, c.losterr.toNat), (64, c.undob.toNat),
    (32, c.undosz.toNat), (16, 0), (16, c.bndmask.toNat), (8, c.fqs.toNat), (8, c.eqs.toNat), (8, c.cqs.toNat), (8, 0),
    (16, c.fvec.toNat), (16, c.evec.toNat), (16, c.cvec.toNat), (16, 0), (2, c.state.toNat), (2, c.preempt.toNat),
    (1, if c.sigreq then 1 else 0), (27, 0), (64, c.stkva.toNat), (32, c.stksz.toNat)]

/-- A context of the table. -/
def State.ctx (s : State) (c : Nat) : Ctx := s.ctxs.getD c Ctx.start

/-- What an item reads as. -/
def State.item (s : State) (x : Item) : Nat :=
  match x with
  | .identity => s.identity
  | .quantum n => (s.core n).quantumSet.toNat
  | .cisthw n => (s.cluster n).cisthwSet.toNat
  | .power => packBits [(12, s.dev.pcap.toNat), (20, 0), (8, s.dev.floor.toNat), (8, s.dev.tlim.toNat), (176, 0), (32, s.dev.modpwr.toNat)]
  | .ring => packBits [(64, s.dev.relBase.toNat), (8, s.dev.relSize.toNat), (56, 0), (32, s.dev.relPi.toNat), (32, s.dev.relCi.toNat)]
  | .nonce => s.dev.nonce.toNat
  | .status => s.dev.attStatus.toNat
  | .report => natLE s.dev.report
  | .queue q => (s.wq q).cfg.toNat
  | .context c => (s.ctx c).entry
  | .invdone c => (s.ctx c).invdone.toNat
  | .binding c i => match (s.ctx c).binds[i]? with
    | some b => if b.v then packBits [(1, 1), (95, 0), (32, b.len.toNat), (64, b.start.toNat), (64, b.sluice.toNat)] else 0
    | none => 0
  | .route d => (s.routes.getD d 0).toNat
  | .answer _ | .inval _ | .preempt _ => 0

/-- The item and the bit offset that an access of `n` bytes names, when it is a whole register naturally aligned (R427). (log 36, DEDUCED) -/
def regAt (off n : Nat) : Option (Item × Nat) :=
  match itemAt off with
  | none => none
  | some (x, base) =>
    if off % n = 0 ∧ ((off - base, n) = (0, x.size) ∨ (off - base, n) ∈ x.fields) then some (x, off - base) else none

/-- A read of the control space. (log 18, DEDUCED; log 36, DEDUCED) -/
def State.controlRead (s : State) (off n : Nat) : Nat :=
  match regAt off n with
  | some (x, o) => if s.dev.up then s.item x / 2 ^ (8 * o) % 2 ^ (8 * n) else 0
  | none => 0

/-! ### What a home agent reads -/

/-- Where the control space starts among the local addresses (R18). -/
def controlBase : Nat := 0xF0000000000
/-- The offset in this device's control space that a memory key names. -/
def State.controlOff (s : State) (key : Nat) : Option Nat :=
  if key < hostBase ∧ key / 2 ^ 44 = s.dev.devno.toNat ∧ controlBase ≤ key % 2 ^ 44 then some (key % 2 ^ 44 - controlBase) else none
/-- The little-endian number that an access of `n` bytes reads. -/
def State.homeNum (s : State) (key n : Nat) : Nat := match s.controlOff key with
  | some off => s.controlRead off n
  | none => s.num key n

/-! ### Registers of 16 bytes -/

/-- The nearest end of a range. (log 36, DEDUCED) -/
def clamp (lo hi v : Nat) : Nat := max lo (min hi v)

/-- WORK_QUEUE_CONFIG_WRITE (R429). (log 2, DEDUCED; log 36, DEDUCED; log 56, DESIGN CHOICE) -/
def stepQueueConfig (q : Nat) (v : BitVec 128) : Act := fun s =>
  let w := s.wq q
  let n := v.toNat
  let cfg := packBits [(12, bits n 11 0), (7, 0), (1, bits n 19 19), (4, if bits n 23 20 = 0 then 0 else max 6 (bits n 23 20)), (4, bits n 27 24),
    (3, min 5 (bits n 30 28)), (1, bits n 31 31)]
  if 2048 ≤ q then []
  else if w.en then (if bits n 31 31 = 0 then [.queue q (some { w with cfg := BitVec.ofNat 128 (w.cfg.toNat - 2 ^ 31) })] else [])
  else if w.recs.isEmpty then [.queue q (some { w with cfg := BitVec.ofNat 128 cfg })]
  else []

/-- TRANSLATION_INVALIDATION (R361, R430). Until INVALIDATION_COMPLETE begins to act on it, probes may use older entries. -/
def stepInvalidate (ctx : Nat) (start len : DWord) : Act := fun s =>
  if 4096 ≤ ctx ∨ start.toNat % 65536 ≠ 0 ∨ len.toNat % 65536 ≠ 0 then []
  else [.ctx ctx (some { s.ctx ctx with invals := (s.ctx ctx).invals ++ [{ start := start, len := len, after := none }] })]

/-- A write of 16 bytes to the control space: of the registers of that size alone (R427). -/
def controlWide (off v : Nat) : Act := fun s =>
  if !s.dev.up then [] else
  match regAt off 16 with
  | some (.queue q, _) => stepQueueConfig q (BitVec.ofNat 128 v) s
  | some (.inval c, _) => stepInvalidate c (BitVec.ofNat 64 v) (BitVec.ofNat 64 (v / 2 ^ 64)) s
  | _ => []

/-! ### Sluices (R279) -/

/-- The fields X, WQ, SHR and RELGEN of a sluice (R279). -/
structure Sluice where
  x : Bool
  wq : Bool
  shr : Nat
  relgen : Nat
  deriving DecidableEq, Repr

/-- The object at a memory key. -/
def State.sluice (s : State) (key : Nat) : Sluice :=
  let v := s.homeNum key 16
  { x := v % 2 == 1, wq := bits v 1 1 == 1, shr := bits v 47 32, relgen := bits v 127 64 }

/-- The 128 bits of an object whose reserved fields are as in `old`. -/
def Sluice.word (v : Sluice) (old : Nat) : Nat :=
  v.relgen % 2 ^ 64 * 2 ^ 64 + bits old 63 48 * 2 ^ 48 + v.shr % 2 ^ 16 * 2 ^ 32 + bits old 31 2 * 4 + (if v.wq then 2 else 0) +
    (if v.x then 1 else 0)

/-- Write the object's fields, in memory or in the registers of the control space (R426). -/
def putSluice (key : Nat) (v : Sluice) : Act := fun s =>
  match s.controlOff key with
  | some off => controlWide off (v.word (s.homeNum key 16)) s
  | none => storeBytes key (bytesLE 16 (v.word (s.num key 16))) s

end Sys2Proof.Machine
end

