-- ==== Sys2Proof/Machine/Issue.lean ====
section
/-! DEFINITION. Machine/Issue.lean: what every issue shares: moving a lane past its instruction, parking on W (R37),
results in flight, and the split of an issue into lanes that fault and lanes that go on (R236). -/

namespace Sys2Proof.Machine

open Sys2Proof

/-- A lane has issued its instruction: it goes on at `pc`, its latch is empty (R167), and it parks on W (R37). (log 9, DEDUCED) -/
def Lane.issued (l : Lane) (pc : DWord) (w : Bool) : Lane :=
  { l with pc := pc, latch := none, parks := if w then { l.parks with wait := .results :: l.parks.wait } else l.parks }

/-- Lanes retire their instructions and go on at the next ones. (log 9, DEDUCED) -/
def retire (es : List Env) : Act := Act.each es fun e => updLane e.k fun l => l.issued (l.pc + 12) e.op.w

/-- Lanes that have taken their instruction park on its W bit (R37). -/
def parkOnW (es : List Env) : Act := Act.each es fun e => fun s =>
  Act.when (e.op.w && s.laneIs e.k fun l => !l.parks.fault && !l.parks.trap) (updParks e.k fun p => { p with wait := .results :: p.wait }) s

/-- Does an instruction of class L leave nothing outstanding (R45): it writes z, and no predicate beside it? -/
def Op.silent (op : Op) : Bool := op.fx == .z && !((op.maj == .dpop || op.maj == .dpeek) && op.fz != .z)

/-- A lane's long-latency result is outstanding (R37). -/
def addResult (k : LaneId) (r : Result) : Act := updLane k fun l => { l with results := l.results ++ [r] }

/-- Give each element a number of its own. -/
def withIds {α : Type} (xs : List α) (f : List (α × Nat) → Act) : Act := fun s =>
  Act.seq (fun s => [.fresh (s.fresh + xs.length)]) (f (xs.zipIdx.map fun x => (x.1, s.fresh + x.2))) s

/-- A result that is known at issue and is written in a later cycle (R128, R145, R147). -/
def resultNow (xs : List (Env × Result2)) : Act :=
  withIds xs fun ys => Act.each ys fun y => fun s => addResult y.1.1.k
    { id := y.2, vals := some y.1.2.1, flags := y.1.2.2, err := none, readyAt := s.now + 1, req := none, silent := Op.silent y.1.1.op } s

/-- Short-latency results: written with their flags; the lane is ready again 4 cycles after issue (R168). Of the cycles that R113 allows
for the flags, from the issue to the lane's next, the model takes the first. (log 59, DESIGN CHOICE) -/
def writeShort (xs : List (Env × Result2)) : Act := Act.each xs fun x => fun s =>
  Act.all [updLane x.1.k fun l => { l.writes x.2.1 with shortUntil := s.now + 4 }, setFlags x.1.k x.2.2] s

/-- The lane counts one more access or command (R239). -/
def countAccess (es : List Env) : Act := Act.each es fun e => updLane e.k fun l => { l with seq := l.seq + 1 }

/-- What stops a lane at its instruction: a kind of fault record, a cause and an address. -/
structure Stop where
  kind : Nat
  cause : Nat
  addr : DWord
  deriving DecidableEq, Repr

/-- Split an issue (R236): lanes for which `bad` finds a stop fault-park at their instruction, one record for each
kind, workgroup and PC, in ascending order of the lowest %slot of each (R390); the others go on. -/
def split (es : List Env) (bad : Env → Option Stop) (run : List Env → Act) : Act := fun s =>
  let fs := (es.filterMap fun e => (bad e).map fun b => (e, b)).mergeSort fun x y =>
    decide (s.slot x.1.k ≤ s.slot y.1.k)
  let key (f : Env × Stop) : Nat × Nat × DWord := (f.2.kind, f.1.k.wg, f.1.l.pc)
  Act.all [
    Act.each (fs.map key).reverse.dedup.reverse fun kd =>
      faultRecord kd.1 0 ((fs.filter fun f => key f = kd).map fun f => ⟨f.1.k, f.2.cause, f.2.addr⟩),
    run (es.filter fun e => (bad e).isNone)] s

/-- A stop of kind 1 for a failed probe (R236, R389). -/
def probeStop (r : Option (Nat × DWord)) : Option Stop := r.map fun x => ⟨1, x.1, x.2⟩
/-- A stop of kind 2 for a condition of the instruction's entry (R389): the address slot holds the PC. -/
def entryStop (c : Bool) (e : Env) (cause : Nat) : Option Stop := if c then some ⟨2, cause, e.l.pc⟩ else none

/-- The first stop of several. -/
def firstStop (xs : List (Option Stop)) : Option Stop := xs.findSome? id

end Sys2Proof.Machine
end

