-- ==== Sys2Proof/Machine/Memory.lean ====
section
/-! DEFINITION. Machine/Memory.lean: the clusters' L1 (R254, R263, R264, R438), requests to home agents (R238, R261),
and the issue of the nine memory majors (R234 to R252). -/

namespace Sys2Proof.Machine

open Sys2Proof

/-! ### L1 lines -/

/-- The mark of a line after an access with a cache hint (R263): `l2` is the slice's column for a miss. -/
def markAfter (m : Option Mark) (ch : BitVec 2) (l2 : Bool) : Option Mark :=
  match m, ch.toNat with
  | some .el, _ => some .el
  | _, 1 => some .ef
  | _, 2 => some .el
  | some m, 3 => some m
  | none, 3 => if l2 then some .ef else none
  | _, _ => some .n

/-- The line of a cluster's L1, if it holds one. -/
def Cluster.line? (c : Cluster) (line : Nat) : Option L1Line := c.l1.find? fun l => l.line == line
/-- Put a line as the most recently used. -/
def Cluster.putLine (c : Cluster) (l : L1Line) : Cluster := { c with l1 := c.l1.filter (fun x => x.line != l.line) ++ [l] }
/-- Drop a line. -/
def Cluster.dropLine (c : Cluster) (line : Nat) : Cluster := { c with l1 := c.l1.filter fun x => x.line != line }
/-- Is a bank leaving cache mode (R257)? -/
def Cluster.draining (c : Cluster) (bank : Nat) : Bool := c.drains.any fun d => d.bank == bank
/-- The cache-mode banks that may still allocate (R254, R257). -/
def Cluster.ways (c : Cluster) : List Nat := (List.range 32).filter fun b => c.bank b == 0 && !c.draining b
/-- Has the cluster an L1 (R254)? -/
def Cluster.hasL1 (c : Cluster) : Bool := (List.range 32).any fun b => c.bank b == 0

/-- The bank for a new line and the line that gives way to it (R264); none when no bank allocates. -/
def Cluster.wayFor (c : Cluster) (line : Nat) : Option (Nat × Option L1Line) :=
  let set := c.l1.filter fun l => l.line % 64 == line % 64
  match c.ways.find? fun b => decide ((set.filter fun l => l.bank == b).length < 12) with
  | some b => some (b, none)
  | none =>
    let cand := set.filter fun l => c.ways.contains l.bank
    let pick (m : Mark) : Option L1Line := cand.find? fun l => l.mark == m
    match (pick .ef <|> pick .n) <|> pick .el with
    | some v => some (v.bank, some v)
    | none => none

/-- The valid bytes of a line without the clean ones that `p` takes; a line without a valid byte is no copy. -/
def Cluster.dropClean (c : Cluster) (p : L1Line → L1Byte → Bool) : Cluster :=
  { c with l1 := (c.l1.map fun l => { l with bytes := l.bytes.filter fun b => b.2.dirty || !p l b.2 }).filter fun l =>
      !l.bytes.isEmpty }

/-! ### Requests -/

/-- Does the operation of an access return a reply (R261)? -/
def AccOp.replies : AccOp → Bool
  | .load _ _ _ | .snap _ _ | .ste _ _ _ _ _ _ _ | .unitRead _ => true
  | .rmw _ _ _ _ res => res.isSome
  | _ => false

/-- Does it leave memory as it is? -/
def AccOp.reads : AccOp → Bool
  | .load _ _ _ | .prefetch | .snap _ _ | .ste _ _ _ _ _ _ _ | .unitRead _ => true
  | _ => false

/-- Is it a write-back of an L1? -/
def AccOp.isWback : AccOp → Bool
  | .wback _ => true
  | _ => false

/-- The command whose access it is, if it is no lane's own. -/
def AccOp.unit : AccOp → Option UnitRef
  | .unitRead u | .unitWrite u _ | .unitAdd u _ _ => some u
  | _ => none

/-- Is it an access of the lane that it names, which orders it (R239) and for which a FENCE waits (R285)? -/
def AccOp.own (o : AccOp) : Bool := o.unit.isNone && !o.isWback

/-- The line of a scale byte that it reads too (R102). -/
def AccOp.also : AccOp → List Nat
  | .load (.lde _ _ (some k) _ _) _ _ => [lineOf k]
  | .encode _ _ _ _ k _ => [lineOf k]
  | _ => []

/-- Is an access the read of a scale byte alone, for an LDE or STE whose element lies in another line? PREF's has no bytes. -/
def Access.scaleOnly (a : Access) : Bool := decide (a.op = .prefetch) && decide (0 < a.size)

/-- The memory key and size of the bytes that an access reads or writes: of an STE that waits for its scale byte, the element's. -/
def Access.span (a : Access) : Nat × Nat := match a.op with
  | .ste _ _ _ l _ _ _ => (l.key, 1)
  | _ => (a.key, a.size)

/-- The scale byte that an access reads beside its element (R102). -/
def Access.scaleKey (a : Access) : Option Nat := match a.op with
  | .load (.lde _ _ sc _ _) _ _ => sc
  | .encode _ _ _ _ k _ => some k
  | .ste _ _ _ _ _ _ _ => some a.key
  | _ => none

/-- All the ranges that an access touches. -/
def Access.touches (a : Access) : List (Nat × Nat) := a.span :: a.scaleKey.toList.map fun k => (k, 1)

/-- Do two ranges of keys share a byte? -/
def meet (x y : Nat × Nat) : Bool := decide (x.1 < y.1 + y.2) && decide (y.1 < x.1 + x.2)

/-- Send one request (R261); `parent` is the STE whose element it stores, if any (R244). -/
def sendReqFor (parent : Option Nat) (ctx cl line : Nat) (home : Home) (cache : Bool) (after : List Nat) (acc : List Access) : Act :=
  Act.fresh fun n => updReqs fun rs => rs ++ [
    { id := n, ctx := ctx, cluster := cl, line := line, home := home, st := .flying, acc := acc,
      reply := acc.any fun a => a.op.replies || a.scaleOnly, cache := cache,
      also := ((acc.flatMap fun a => a.op.also).filter fun l => l != line).dedup, after := after, acceptedAt := 0,
      order := 0, parent := parent }]

/-- Send one request of its own (R261). -/
def sendReq : Nat → Nat → Nat → Home → Bool → List Nat → List Access → Act := sendReqFor none

/-- The requests of a cluster that bring in lines of scale bytes, and that have not been performed. -/
def State.bringing (s : State) (cl : Nat) (lines : List Nat) : List Nat :=
  (s.reqs.filter fun r => lines.contains r.line && r.cluster == cl && !r.done && r.acc.any Access.scaleOnly).map (·.id)

/-- Accesses of one issue: one request for each 128-byte line, each with its accesses in ascending %slot order (R261). An
access that reads a scale byte waits for the request of the scale's line, where that has been sent. -/
def sendLines (after : List Nat) (xs : List (Access × Loc)) : Act := fun s =>
  Act.each (xs.map fun x => (lineOf x.1.key, x.2.home)).dedup (fun lh => Act.read fun t =>
    let here := (xs.filter fun x => lineOf x.1.key == lh.1 && x.2.home == lh.2).mergeSort fun x y => decide (x.1.slot ≤ y.1.slot)
    match here with
    | [] => Act.skip
    | x :: _ =>
      let acc := here.map (·.1)
      let cl := s.clusterOf x.1.lane
      sendReq (s.ctxOf x.1.lane) cl lh.1 lh.2 (here.any fun y => y.2.cache) (after ++ t.bringing cl (acc.flatMap fun a => a.op.also)) acc) s

/-- Elements of STEs of a cluster that wait for their scale bytes reach their home slices as soon as they are encoded, where a write-back
of their line is asked for meanwhile. (log 50, DEDUCED) -/
def steHome (cl : Nat) (line : Nat) : Act := fun s =>
  let hit (r : Req) (a : Access) : Bool := match a.op with
    | .ste _ _ _ l _ _ home => r.cluster == cl && !home && lineOf l.key == line
    | _ => false
  if s.reqs.any fun r => r.acc.any (hit r) then
    updReqs (fun rs => rs.map fun r => { r with acc := r.acc.map fun a => match a.op with
      | .ste p v t l kn d _ => if hit r a then { a with op := .ste p v t l kn d true } else a
      | _ => a }) s
  else []

/-- The lines of the elements of a cluster's STEs that wait for their scale bytes. -/
def State.steLines (s : State) (cl : Nat) : List Nat := (s.reqs.flatMap fun r => r.acc.filterMap fun a => match a.op with
  | .ste _ _ _ l _ _ _ => if r.cluster = cl then some (lineOf l.key) else none
  | _ => none).dedup

/-- Write the dirty bytes of a line that are not on their way back to the home slice (R438). A write-back carries CH normal to the
slice's mark of the line. (log 48, DESIGN CHOICE) -/
def sendDirty (cl line : Nat) : Act := fun s =>
  match (s.cluster cl).line? line with
  | none => []
  | some l =>
    let bs := (l.bytes.filter fun b => b.2.dirty && b.2.sent.isNone)
    if bs.isEmpty then [] else
    Act.all [
      updCluster cl fun c => { c with l1 := c.l1.map fun x =>
        if x.line = line then { x with bytes := x.bytes.map fun b =>
          (b.1, { b.2 with sent := if b.2.dirty && b.2.sent.isNone then some s.fresh else b.2.sent }) } else x },
      sendReq l.ctx cl line l.home true [] [
        { lane := l.by_, slot := 0, pc := l.pc, seq := 0, va := 0, key := line * 128, size := 128, ch := 0,
          op := .wback (bs.map fun b => (b.1, b.2.v)), bad := l.bad }]] s

/-- Write a line's dirty bytes back, with what STEs that wait have for it. -/
def sendWback (cl line : Nat) : Act := Act.all [steHome cl line, sendDirty cl line]

/-- Write every dirty byte of a cluster's L1 back. -/
def sendWbacks (cl : Nat) : Act := fun s => Act.each ((s.cluster cl).l1.map (·.line) ++ s.steLines cl) (sendWback cl) s

/-- Make room for a line and add it with no byte valid (R264); nothing when no bank allocates. -/
def allocate (cl line : Nat) (mark : Mark) (home : Home) (ctx : Nat) (by_ : LaneId) (pc : DWord) : Act := fun s =>
  match (s.cluster cl).wayFor line with
  | none => []
  | some (b, v) =>
    Act.all [
      Act.opt v fun x => Act.all [sendWback cl x.line, updCluster cl (·.dropLine x.line)],
      updCluster cl (·.putLine
        { line := line, bytes := [], mark := mark, bank := b, home := home, ctx := ctx, by_ := by_, pc := pc })] s

/-- Is a cluster's copy of a line poisoned (R433)? -/
def Cluster.badLine (c : Cluster) (line : Nat) : Bool := (c.line? line).any (·.bad)

/-- Write bytes into a cluster's L1 under WB, allocating on a miss (R242, R438). A poisoned copy stays so, and the store is reported
(R251). -/
def storeL1 (cl ctx : Nat) (by_ : LaneId) (pc va : DWord) (home : Home) (ch : BitVec 2) (key : Nat) (bs : List Byte) : Act := fun s =>
  let line := lineOf key
  Act.all [
    Act.when ((s.cluster cl).badLine line) (writeError (s.errOf by_ 0x02 pc.toNat va.toNat)),
    Act.when ((s.cluster cl).line? line).isNone (allocate cl line ((markAfter none ch false).getD .n) home ctx by_ pc),
    Act.read fun t => Act.opt ((t.cluster cl).line? line) fun l => updCluster cl (·.putLine
      { l with
        bytes := bs.zipIdx.foldl (fun m b => m.set (key % 128 + b.2) { v := b.1, dirty := true, sent := none, since := t.tick }) l.bytes,
        mark := (markAfter (some l.mark) ch false).getD l.mark, ctx := ctx, by_ := by_, pc := pc })] s

/-- A CA access served by the L1: it touches the line and its mark (R263). -/
def touchL1 (cl line : Nat) (ch : BitVec 2) : Act := updCluster cl fun c =>
  match c.line? line with
  | some l => c.putLine { l with mark := (markAfter (some l.mark) ch false).getD l.mark }
  | none => c

/-- Invalidate the clean bytes of one line. -/
def dropCleanLine (cl line : Nat) : Act := updCluster cl fun c => c.dropClean fun l _ => l.line == line
/-- Invalidate every clean byte of a cluster's L1. -/
def dropCleanAll (cl : Nat) : Act := updCluster cl fun c => c.dropClean fun _ _ => true

/-- Has a lane a release on its way of a sluice that has one of `n` bytes (R293)? -/
def State.releasing (s : State) (k : LaneId) (key n : Nat) : Bool := s.slrels.any fun x => decide (x.lane = k) && meet (x.key, 16) (key, n)

/-- Has a lane a store, an atomic, an STE or a sluice release on a byte that has not been performed, or a load of it through the L1 whose
reply has not come (R239, R277, R293)? -/
def State.pending (s : State) (k : LaneId) (key : Nat) : Bool :=
  (s.reqs.any fun r => r.acc.any fun a => decide (a.lane = k) && a.op.own && (match a.op with
    | .ste _ _ _ _ _ dead _ => !dead && meet a.span (key, 1)
    | o => if o.reads then a.fill && a.touches.any (meet · (key, 1)) else !r.done && meet a.span (key, 1))) ||
  s.releasing k key 1

/-- The valid bytes of the cluster's L1 among `n` bytes from a key on, by key. -/
def Cluster.known (c : Cluster) (key n : Nat) : List (Nat × Byte) :=
  match c.line? (lineOf key) with
  | none => []
  | some l => (List.range n).filterMap fun i => (l.bytes.get? ((key + i) % 128)).map fun b => (key + i, b.v)

/-! ### What a lane's access is -/

/-- The access of a lane to `n` bytes at a key. -/
def Env.access (e : Env) (key n : Nat) (op : AccOp) : Access :=
  { lane := e.k, slot := e.s.slot e.k, pc := e.l.pc, seq := e.l.seq, va := e.ea, key := key, size := n, ch := e.op.ch, op := op }

/-- The same access when the cluster's L1 takes the line. -/
def Access.filling (a : Access) : Access := { a with fill := true }

/-- The same access with no cache hint: CH has a meaning in format M and for streams and operands alone (R39). -/
def Access.plain (a : Access) : Access := { a with ch := 0 }

/-- Where the lane's effective address leads; the probe has passed. -/
def Env.loc (e : Env) : Loc :=
  (e.s.locate (e.s.ctxOf e.k) (e.s.gangOf e.k) e.ea).getD
    { key := 0, home := .host, typ := .b32, soff := 0, rd := false, wr := false, ex := false, cache := false, scratch := none }

/-- The cluster of the lane. -/
def Env.cl (e : Env) : Nat := e.s.clusterOf e.k

/-- The core keeps the leaf entries that the probe used (R361). -/
def keepLeaves (es : List Env) : Act := Act.each es fun e => Act.when (!inWindow e.ea) (keepLeaf (e.s.ctxOf e.k) e.ea)

/-- The destination code of FX. -/
def fxReg (op : Op) : Nat := op.fx.code

/-- Bytes of an LD or ST (R240). -/
def ldSize (op : Op) : Nat := if op.min.toNat ≥ 4 then 16 else op.typ.width / 8

/-- The probe of an access whose size the entry gives (R235). -/
def Env.probeStop (e : Env) (n : Nat) (need : Need) : Option Stop :=
  Sys2Proof.Machine.probeStop (e.s.probeAligned (e.s.ctxOf e.k) (e.s.gangOf e.k) e.ea n need)

/-! ### LD and ST -/

/-- Register words of a value (R95, R240, R243), with the flags that decoding sets. -/
def LoadAs.words (a : LoadAs) (v scale : Nat) : Writes × BitVec 7 :=
  let at_ (r : Nat) (ws : List Word) : Writes := ws.zipIdx.map fun w => (r + w.2, w.1)
  match a with
  | .raw t r => (at_ r (t.words (t.value v)), 0)
  | .quad r => (at_ r ((List.range 4).map fun i => BitVec.ofNat 32 (v / 2 ^ (32 * i))), 0)
  | .lde p hi _ t r =>
    let x := if p == .mx4 then (if hi then v / 16 else v % 16) else v
    let (b, f) := (formOf t).write 0 (elemValue p x scale)
    (at_ r [BitVec.ofNat 32 b], f)

/-- How a lane's load becomes register words (R240, R243). -/
def Env.loadAs (e : Env) (p : Typ) (scale : Option Nat) : LoadAs :=
  if e.op.maj == .lde then .lde p (e.op.min.toNat % 2 == 1) scale e.op.typ (fxReg e.op)
  else if e.op.min.toNat ≥ 4 then .quad (fxReg e.op)
  else .raw e.op.typ (fxReg e.op)

/-- A load of `n` bytes under a policy (R242): served by the L1 when every byte that it needs is valid there, and the
lane has no earlier write of one of them under way; else sent to the home agent. `scale` is the key of a scale byte. (log 49, DEDUCED) -/
structure Load where
  e : Env
  loc : Loc
  n : Nat
  ca : Bool
  scale : Option (Nat × Loc)

/-- Does a load read bytes at a place through the cluster's L1? -/
def Load.cached (x : Load) (s : State) (l : Loc) : Bool := x.ca && l.cache && (s.cluster x.e.cl).hasL1

/-- The bytes from a key on that the L1 gives a load: all of them, or none. -/
def Load.held (x : Load) (s : State) (l : Loc) (key n : Nat) : List (Nat × Byte) :=
  let kn := (s.cluster x.e.cl).known key n
  if x.cached s l && kn.length == n && kn.all fun b => !s.pending x.e.k b.1 then kn else []

/-- The element or datum as the L1 gives it. -/
def Load.data (x : Load) (s : State) : List (Nat × Byte) := x.held s x.loc x.loc.key x.n
/-- The scale byte as the L1 gives it. -/
def Load.scaleByte (x : Load) (s : State) : List (Nat × Byte) := match x.scale with | some (k, l) => x.held s l k 1 | none => []
/-- Is every byte that it needs known? -/
def Load.hits (x : Load) (s : State) : Bool := !(x.data s).isEmpty && (x.scale.isNone || !(x.scaleByte s).isEmpty)

/-- The value of known bytes. -/
def knownNum (kn : List (Nat × Byte)) (key n : Nat) : Nat :=
  natLE ((List.range n).map fun i => ((kn.find? fun b => b.1 == key + i).map (·.2)).getD 0)

/-- How a load's bytes become register words. -/
def Load.as (x : Load) : LoadAs := x.e.loadAs x.loc.typ (x.scale.map (·.1))

/-- What a load that is not served by the L1 asks of home agents: for `res`, its datum's bytes, or its scale byte where the L1 gives
the element; and the line of a scale byte that neither the L1 nor the element's line gives. -/
def Load.asks (x : Load) (s : State) (res : Nat) : List (Access × Loc) × List (Access × Loc) :=
  let fill (l : Loc) (a : Access) : Access := if x.cached s l then a.filling else a
  let here (kn : List (Nat × Byte)) (key n : Nat) (l : Loc) : Access × Loc := (fill l (x.e.access key n (.load x.as kn res)), l)
  match x.scale with
  | none => ([], [here [] x.loc.key x.n x.loc])
  | some (k, l) =>
    if !(x.data s).isEmpty then ([], [here (x.data s) k 1 l])
    else if !(x.scaleByte s).isEmpty || lineOf k == lineOf x.loc.key then ([], [here (x.scaleByte s) x.loc.key x.n x.loc])
    else ([(fill l (x.e.access k 1 .prefetch), l)], [here [] x.loc.key x.n x.loc])

/-- Does it take bytes from a poisoned copy in the L1 (R251, R433)? -/
def Load.bad (x : Load) (s : State) : Bool := (!(x.data s).isEmpty && (s.cluster x.e.cl).badLine (lineOf x.loc.key)) ||
  match x.scale with
  | some (k, _) => !(x.scaleByte s).isEmpty && (s.cluster x.e.cl).badLine (lineOf k)
  | none => false

/-- A load that consumes poisoned data from the L1 (R251). (log 17, DEDUCED) -/
def Load.consume (x : Load) (res : Nat) : Act := fun s => Act.all [
  writeError (s.errOf x.e.k 0x01 x.e.l.pc.toNat x.e.ea.toNat),
  addResult x.e.k
    { id := res, vals := some ((x.as.words 0 0).1.map fun w => (w.1, 0)), flags := 0,
      err := some { source := 1, code := 0, pc := x.e.l.pc }, readyAt := s.now + 1, req := none }] s

/-- Issue loads. Dirty bytes of the lines that are read at home are written back first (R438). (log 49, DEDUCED) -/
def issueLoads (xs : List Load) : Act := withIds xs fun ys => fun s =>
  let (bad, good) := ys.partition fun y => y.1.bad s
  let (hits, rest) := good.partition fun y => y.1.hits s
  let miss := rest.map fun y => (y, y.1.asks s y.2)
  let asked := (miss.flatMap fun y => y.2.1) ++ miss.flatMap fun y => y.2.2
  Act.all [
    Act.each asked fun a => sendWback (s.clusterOf a.1.lane) (lineOf a.1.key),
    Act.each hits fun y =>
      let (ws, f) := y.1.as.words (knownNum (y.1.data s) y.1.loc.key y.1.n)
        (match y.1.scale with | some (k, _) => knownNum (y.1.scaleByte s) k 1 | none => 0)
      Act.all [
        Act.each ((y.1.loc.key :: (y.1.scale.map (·.1)).toList).map lineOf).dedup fun l => touchL1 y.1.e.cl l y.1.e.op.ch,
        addResult y.1.e.k { id := y.2, vals := some ws, flags := f, err := none, readyAt := s.now + 1, req := none }],
    Act.each bad fun y => y.1.consume y.2,
    Act.each miss fun y => addResult y.1.1.e.k
      { id := y.1.2, vals := none, flags := 0, err := none, readyAt := s.now + 1, req := none },
    sendLines [] asked] s

/-- LD (R240, R241). -/
def issueLd (es : List Env) : Act :=
  split es (fun e => e.probeStop (ldSize e.op) { rd := true, wr := false }) fun ok =>
    Act.all [keepLeaves ok,
      issueLoads (ok.map fun e => { e := e, loc := e.loc, n := ldSize e.op, ca := e.op.min.toNat % 2 == 0, scale := none }),
      countAccess ok, retire ok]

/-- A store of known bytes under a policy. -/
structure Store where
  e : Env
  loc : Loc
  bytes : List Byte
  wb : Bool

/-- Is store `i` of an issue written into the L1 in a state (R242, R254, R257)? A hit is, except in a draining bank; a miss
is once a store of the issue at or before it allocates the line. None of a line is where a release of a sluice among its bytes is on its
way (R293). -/
def wbServed (s : State) (xs : List Store) (i : Nat) (x : Store) : Bool :=
  let c := s.cluster x.e.cl
  x.wb && x.loc.cache && c.hasL1 &&
    !(xs.any fun y => lineOf y.loc.key == lineOf x.loc.key && y.e.cl == x.e.cl && s.releasing y.e.k y.loc.key y.bytes.length) &&
    match c.line? (lineOf x.loc.key) with
    | some l => !c.draining l.bank
    | none => !c.ways.isEmpty && (xs.take (i + 1)).any fun y =>
        lineOf y.loc.key == lineOf x.loc.key && y.e.cl == x.e.cl && y.e.op.ch.toNat != 3

/-- A store of a lane into the L1 supersedes the element of an earlier STE of the lane that still waits for its scale byte (R239, R244).
(log 50, DEDUCED) -/
def supersede (k : LaneId) (key n : Nat) : Act := fun s =>
  let hit (a : Access) : Bool := match a.op with
    | .ste _ _ _ l _ dead _ => decide (a.lane = k) && !dead && meet (l.key, 1) (key, n)
    | _ => false
  if s.reqs.any fun r => r.acc.any hit then
    updReqs (fun rs => rs.map fun r => { r with acc := r.acc.map fun a => match a.op with
      | .ste p v t l kn _ h => if hit a then { a with op := .ste p v t l kn true h } else a
      | _ => a }) s
  else []

/-- The line leaves a cluster's L1 for a store at its home agent (R257, R438): dirty bytes go home, the copy is invalidated, and one in a
draining bank goes whole. -/
def homeLine (cl line : Nat) : Act := fun s => Act.all [
  sendWback cl line, dropCleanLine cl line,
  Act.when (match (s.cluster cl).line? line with | some l => (s.cluster cl).draining l.bank | none => false) (updCluster cl (·.dropLine line))] s

/-- Issue stores, in ascending %slot order (R238): into the L1, or at the home agent after the line's dirty bytes are
written back and the copy is invalidated (R438). -/
def issueStores (xs : List Store) : Act := fun s =>
  let xs := xs.mergeSort fun x y => decide (s.slot x.e.k ≤ s.slot y.e.k)
  let (wb, cg) := (xs.zipIdx.partition fun x => wbServed s xs x.2 x.1)
  Act.all [
    Act.each cg fun x => homeLine x.1.e.cl (lineOf x.1.loc.key),
    sendLines [] (cg.map fun x => (x.1.e.access x.1.loc.key x.1.bytes.length (.store x.1.bytes), x.1.loc)),
    Act.each wb fun x => supersede x.1.e.k x.1.loc.key x.1.bytes.length,
    Act.each wb fun x => storeL1 x.1.e.cl (s.ctxOf x.1.e.k) x.1.e.k x.1.e.l.pc x.1.e.ea x.1.loc.home x.1.e.op.ch x.1.loc.key x.1.bytes] s

/-- The bytes that ST stores: the low bytes of FX, pair or quad (R241). -/
def Env.stBytes (e : Env) : List Byte :=
  ((e.group e.op.fx ((ldSize e.op + 3) / 4)).flatMap fun w => bytesLE 4 w.toNat).take (ldSize e.op)

/-- ST (R240, R241). -/
def issueSt (es : List Env) : Act :=
  split es (fun e => e.probeStop (ldSize e.op) { rd := false, wr := true }) fun ok =>
    Act.all [keepLeaves ok,
      issueStores (ok.map fun e => { e := e, loc := e.loc, bytes := e.stBytes, wb := e.op.min.toNat % 2 == 0 }),
      countAccess ok, retire ok]

/-! ### LDE and STE -/

/-- The scale byte of the lane's element, when its page is block-scaled (R102). -/
def Env.scaleOf (e : Env) (l : Loc) : Option (Nat × Loc) :=
  if l.typ.scaled then
    (e.s.locate (e.s.ctxOf e.k) (e.s.gangOf e.k) (scaleAddr l.typ l.soff e.ea)).map fun x => (x.key, x)
  else none

/-- LDE (R243): read like LD.CA. (log 13, DEDUCED) -/
def issueLde (es : List Env) : Act :=
  split es (fun e => probeStop (e.s.probeElem (e.s.ctxOf e.k) (e.s.gangOf e.k) e.ea false (e.op.min.toNat % 2 == 1))) fun ok =>
    Act.all [keepLeaves ok,
      issueLoads (ok.map fun e => { e := e, loc := e.loc, n := elemSize e.loc.typ, ca := true, scale := e.scaleOf e.loc }),
      countAccess ok, retire ok]

/-- What a bound register does to a value (R421). -/
inductive BndRes where
  | keep
  | flag
  | clamp (w : Word)
  | trap
  deriving DecidableEq, Repr

/-- The check of a value against a bound register (R421). -/
def Bound.check (b : Bound) (v : FV) : BndRes :=
  let lo := formF32.decode b.lo.toNat
  let hi := formF32.decode b.hi.toNat
  let inc := lo.isNan || hi.isNan || hi.lt lo
  if !(inc || v.isNan || v.lt lo || hi.lt v) then .keep
  else match b.mode.toNat with
    | 1 => if inc then .flag else if v.isNan || v.lt lo then .clamp b.lo else .clamp b.hi
    | 2 => .trap
    | _ => .flag

/-- The bound register of an STE or a MOUT: number when BE is set. -/
def steBound (op : Op) : Option Nat := if op.min.toNat ≥ 32 then some (op.min.toNat / 2 % 16) else none

/-- Does BNDMASK allow a bound register to a lane (R122)? -/
def State.bndAllowed (s : State) (k : LaneId) (n : Nat) : Bool :=
  match s.ctxs.get? (s.ctxOf k) with
  | some c => c.bndmask.getLsbD n
  | none => false

/-- The F32 value that an STE stores, unless its bound register traps; and the flags of the check. -/
def Env.steValue (e : Env) : Option (Word × Typ) × BitVec 7 :=
  let t := e.op.typ
  let w := e.src e.op.fx
  match steBound e.op with
  | none => (some (w, t), 0)
  | some n =>
    match ((e.s.core (e.s.coreOf e.k)).bnd n).check ((formOf t).decode (w.toNat % 2 ^ t.width)) with
    | .keep => (some (w, t), 0)
    | .flag => (some (w, t), fBND)
    | .clamp b => (some (b, .f32), 0)
    | .trap => (none, 0)

/-- An element of a page encoded from a value (R244): an F32 element is stored unchanged. -/
def encodeElem (page : Typ) (w : Word) (t : Typ) (scale : Nat) : Nat × BitVec 7 :=
  if page == .f32 then (if t == .f32 then w.toNat else w.toNat % 2 ^ 16 * 2 ^ 16, 0)
  else elemEncode page 0 ((formOf t).decode (w.toNat % 2 ^ t.width)) scale

/-- The scale byte that the L1 holds for an STE, as a CA load would find it (R244). -/
def Env.steScale (e : Env) (s : State) (k : Nat) (l : Loc) : Option Byte :=
  if l.cache && (s.cluster e.cl).hasL1 && !s.pending e.k k then ((s.cluster e.cl).known k 1).head?.map (·.2) else none

/-- An STE that stores: its lane, the value and its type, and the scale byte's key and place. -/
structure Ste where
  e : Env
  v : Word
  t : Typ
  scale : Option (Nat × Loc)

/-- The place of an STE's element. -/
def Ste.span (x : Ste) : Nat × Nat := (x.e.loc.key, elemSize x.e.loc.typ)

/-- How an STE of an issue goes (R238, R244): the scale byte where it is at hand, whether it waits for one or is encoded at its home agent,
and the lanes at lower %slot behind whose accesses it has to be performed. -/
structure SteWay where
  x : Ste
  known : Option Byte
  late : Bool
  behind : List LaneId

/-- What an STE that does not wait stores, and its flags. -/
def SteWay.elem (w : SteWay) : Nat × BitVec 7 := encodeElem w.x.e.loc.typ w.x.v w.x.t (match w.known with | some b => b.toNat | none => 0)

/-- Must an STE be performed after a late one at lower %slot: do they share an element's byte, or is the element of one the scale byte of the
other? -/
def SteWay.blocks (w : SteWay) (x : Ste) : Bool :=
  let scale (y : Ste) : Option (Nat × Nat) := y.scale.map fun k => (k.1, 1)
  w.late && (meet w.x.span x.span || (scale x).any (meet w.x.span) || (scale w.x).any (meet x.span))

/-- The STEs of an issue in ascending %slot order, each as those before it allow. -/
def steWays (s : State) (xs : List Ste) : List SteWay := xs.foldl (fun ws x =>
  let given (k : Nat) : Option Byte := (ws.reverse.find? fun w => !w.late && meet w.x.span (k, 1)).map fun w =>
    BitVec.ofNat 8 (w.elem.1 / 256 ^ (k - w.x.e.loc.key))
  let known := x.scale.bind fun k => given k.1 <|> x.e.steScale s k.1 k.2
  let behind := (ws.filter fun w => w.blocks x).map fun w => w.x.e.k
  ws ++ [{ x := x, known := known, behind := behind,
           late := x.e.loc.typ == .mx4 || !behind.isEmpty || (x.scale.isSome && known.isNone) }]) []

/-- Is an STE performed as ST.WB into an L1 (R242, R244)? -/
def SteWay.wb (w : SteWay) (s : State) : Bool := w.x.e.loc.typ != .mx4 && w.x.e.loc.cache && (s.cluster w.x.e.cl).hasL1

/-- The access that a late STE sends: the read of its scale byte, or, where it is performed at its element's home agent, its encoding there;
one without a scale byte that follows another lane's stores its element there. `home`: a lane at higher %slot follows it, so its element
goes home. -/
def SteWay.access (w : SteWay) (s : State) (home : Bool) : Access × Loc :=
  let e := w.x.e
  match w.x.scale with
  | none => (e.access e.loc.key (elemSize e.loc.typ) (.store (bytesLE (elemSize e.loc.typ) w.elem.1)), e.loc)
  | some (k, l) =>
    if w.wb s then ((e.access k 1 (.ste e.loc.typ w.x.v w.x.t e.loc w.known false home)).filling, l)
    else (e.access e.loc.key 1 (.encode e.loc.typ (e.op.min.toNat % 2 == 1) w.x.v w.x.t k w.known), e.loc)

/-- The requests of a lane's access (by its place in the lane's order) that are no prefetches. -/
def State.sentFor (s : State) (k : LaneId) (seq : Nat) : List Nat := (s.reqs.filter fun r => r.acc.any fun a =>
  a.lane == k && a.seq == seq && decide (a.op ≠ .prefetch) && a.op.own).map (·.id)

/-- Send the late STEs of an issue: those that follow no other in requests by line, the others one by one behind those that they follow. -/
def sendStes (ws : List SteWay) : Act := fun s =>
  let home (w : SteWay) : Bool := ws.any fun x => x.behind.contains w.x.e.k
  let free := ws.filter fun w => w.behind.isEmpty
  let other (w : SteWay) : Option (Access × Loc) := match w.x.scale with
    | some (k, l) => if w.known.isSome || w.wb s || lineOf k == lineOf w.x.e.loc.key then none else some ((w.x.e.access k 1 .prefetch).filling, l)
    | none => none
  Act.all [
    sendLines [] (free.filterMap other ++ free.map fun w => w.access s (home w)),
    Act.each (ws.filter fun w => !w.behind.isEmpty) fun w => Act.read fun t =>
      sendLines (w.behind.flatMap fun k => t.sentFor k (match s.lanes.get? k with | some l => l.seq | none => 0)) [w.access s (home w)]] s

/-- STE (R244): performed as ST.WB, at once when the scale byte is at hand, else when it has been read; to an MX4 page as CG, and so is
one to an uncached page of DS8, whose element is encoded at its home agent. (log 13, DEDUCED; log 40, DEDUCED; log 50, DEDUCED) -/
def issueSte (es : List Env) : Act :=
  split es (fun e => firstStop [
      match steBound e.op with | some n => entryStop (!e.s.bndAllowed e.k n) e 0x12 | none => none,
      probeStop (e.s.probeElem (e.s.ctxOf e.k) (e.s.gangOf e.k) e.ea true (e.op.min.toNat % 2 == 1))]) fun ok => Act.read fun s =>
    let vs := (ok.mergeSort fun a b => decide (s.slot a.k ≤ s.slot b.k)).map fun e => (e, e.steValue)
    let go : List Ste := vs.filterMap fun x => x.2.1.map fun v => { e := x.1, v := v.1, t := v.2, scale := x.1.scaleOf x.1.loc }
    let ways := steWays s go
    let direct := ways.filter fun w => !w.late
    let late := ways.filter (·.late)
    Act.all [keepLeaves ok,
      Act.each vs fun x => setFlags x.1.k x.2.2,
      Act.each (direct ++ late.filter fun w => w.x.scale.isNone) fun w => setFlags w.x.e.k w.elem.2,
      Act.each late fun w => Act.opt w.x.scale fun k => Act.when w.known.isNone (sendWback w.x.e.cl (lineOf k.1)),
      Act.each late fun w =>
        if w.wb s && w.x.scale.isSome then supersede w.x.e.k w.x.e.loc.key 1
        else homeLine w.x.e.cl (lineOf w.x.e.loc.key),
      sendStes late,
      issueStores (direct.map fun w => { e := w.x.e, loc := w.x.e.loc, bytes := bytesLE (elemSize w.x.e.loc.typ) w.elem.1, wb := true }),
      countAccess (go.map (·.e)), retire (go.map (·.e)),
      Act.each (vs.filter fun x => x.2.1.isNone) fun x => takeError x.1.k 5 ((steBound x.1.op).getD 0) x.1.l.pc]

/-! ### PREF and CCTL -/

/-- Where PREF and CCTL act: a canonical address that is mapped to memory of the device, with its location (R245, R246). -/
def Env.quiet (e : Env) : Option Loc :=
  if !canonical e.ea || inWindow e.ea then none
  else match e.s.locate (e.s.ctxOf e.k) (e.s.gangOf e.k) e.ea with
    | some l => match l.home with
      | .slice _ => some l
      | _ => none
    | none => none

/-- PREF (R245). The line comes into the L1, whole, and into the home L2. -/
def issuePref (es : List Env) : Act := fun s =>
  let xs := es.filterMap fun e => match e.quiet with
    | some l => if l.rd && l.cache then some (e, l) else none
    | none => none
  let full (x : Env × Loc) : Bool :=
    ((s.cluster x.1.cl).known (lineOf x.2.key * 128) 128).length == 128
  let l1 (x : Env × Loc) : Bool := x.1.op.min.toNat == 0 && (s.cluster x.1.cl).hasL1
  let acc (x : Env × Loc) : Access × Loc :=
    ({ x.1.access x.2.key 0 .prefetch with fill := l1 x && !full x }, x.2)
  Act.all [
    Act.each (xs.filter fun x => l1 x && full x) fun x => touchL1 x.1.cl (lineOf x.2.key) x.1.op.ch,
    sendLines [] (xs.map acc),
    countAccess es, retire es] s

/-- Remove parcels from the instruction caches of a set of clusters and ports (R28, R246). -/
def dropCodeOf (cl port : Nat → Bool) (p : Nat → Bool) : Act := fun s => Act.all [
  Act.each ((s.clusters.map (·.1)).filter cl) fun c => updCluster c fun c => { c with icache := c.icache.filter fun x => !p x.1 },
  Act.each ((s.ports.map (·.1)).filter port) fun q => updPort q fun q => { q with l0 := q.l0.filter fun x => !p x.1 }] s

/-- Remove parcels from every L0 and every cluster's instruction cache. -/
def dropCode (p : Nat → Bool) : Act := dropCodeOf (fun _ => true) (fun _ => true) p

/-- The code that an instruction-invalidate CCTL names: a line, or all. -/
def codeOf (c : Option Nat) (key : Nat) : Bool := match c with | some line => lineOf key == line | none => true

/-- The write-backs of a line by a cluster that have not been performed. -/
def State.wbacksOf (s : State) (cl line : Nat) : List Nat :=
  (s.reqs.filter fun r => r.cluster == cl && r.line == line && !r.done && r.acc.any fun a => a.op.isWback).map (·.id)

/-- CCTL (R246). The lane's next FENCE waits for the write-back of WB and INV, and completes the removal of code that a fetch has
brought back meanwhile (R28). (log 51, DEDUCED) -/
def issueCctl (es : List Env) : Act := Act.all [
  Act.each es fun e =>
    let code (c : Option Nat) : Act := Act.all [dropCode (codeOf c), updLane e.k fun l => { l with cctl := l.cctl ++ [c] }]
    let wb (line : Nat) : Act := Act.all [sendWback e.cl line,
      fun s => updLane e.k (fun l => { l with cctlReqs := l.cctlReqs ++ s.wbacksOf e.cl line }) s]
    if e.op.min.toNat = 1 then code none
    else Act.opt e.quiet fun l =>
      let line := lineOf l.key
      match e.op.min.toNat with
      | 0 => code (some line)
      | 2 => wb line
      | 3 => Act.all [wb line, updCluster e.cl (·.dropLine line)]
      | _ => Act.all [
          updCluster e.cl fun c => { c with l1 := c.l1.map fun x =>
            if x.line = line ∧ x.mark = .el then { x with mark := .n } else x },
          match l.home with
          | .slice n => updSlice n fun c => { c with lines := match c.lines.get? line with
              | some .el => c.lines.set line .n
              | _ => c.lines }
          | _ => Act.skip],
  countAccess es, retire es]

/-! ### Atomics -/

/-- The operation that MIN names (R248). -/
def atomOp (mn : Nat) : Rmw := match mn % 32 with
  | 0 => .add | 1 => .min | 2 => .max | 3 => .and | 4 => .or | 5 => .xor | 6 => .xchg | 7 => .incw | _ => .decw

/-- The operand size of an atomic (R247). -/
def atomSize (op : Op) : Nat := if op.typ.is64 then 8 else 4

/-- What the probe asks for an atomic (R235, R247). -/
def atomNeed : Need := { rd := true, wr := true, noHost := true, fmt := fun p => !p.scaled }

/-- Issue atomics (R247): the L1's dirty bytes of the line are written back and its copy is invalidated. -/
def issueRmw (es : List Env) (op : Env → Rmw × DWord × DWord) : Act :=
  split es (fun e => e.probeStop (atomSize e.op) atomNeed) fun ok =>
    Act.all [keepLeaves ok,
      Act.each ok fun e => Act.all [sendWback e.cl (lineOf e.loc.key), dropCleanLine e.cl (lineOf e.loc.key)],
      withIds ok fun ys =>
        let ret (e : Env) : Bool := decide (e.op.min.toNat < 32)
        Act.all [
          Act.each (ys.filter fun y => ret y.1) fun y => fun s => addResult y.1.k
            { id := y.2, vals := none, flags := 0, err := none, readyAt := s.now + 1, req := none } s,
          sendLines [] (ys.map fun y =>
            let (r, a, b) := op y.1
            (y.1.access y.1.loc.key (atomSize y.1.op)
              (.rmw r y.1.op.typ a b (if ret y.1 then some (y.2, fxReg y.1.op) else none)), y.1.loc))],
      countAccess ok, retire ok]

/-- ATOM (R248). -/
def issueAtom (es : List Env) : Act := issueRmw es fun e =>
  (atomOp e.mn, if e.op.typ.is64 then e.src64 e.op.typ e.op.fx else (e.src e.op.fx).setWidth 64, 0)
/-- ACAS (R249): compare value and new value. -/
def issueAcas (es : List Env) : Act := issueRmw es fun e =>
  match e.group e.op.fx 4 with
  | [a, b, c, d] => if e.op.typ.is64 then (.cas, b ++ a, d ++ c) else (.cas, a.setWidth 64, b.setWidth 64)
  | _ => (.cas, 0, 0)
/-- AFADD (R250). -/
def issueAfadd (es : List Env) : Act := issueRmw es fun e => (.fadd, (e.src e.op.fx).setWidth 64, 0)

end Sys2Proof.Machine
end

