-- ==== Sys2Proof/Machine/Sync.lean ====
section
/-! DEFINITION. Machine/Sync.lean: fences (R285, R386), sluices and the binding table (R279 to R284, R363 to R365), weirs
(R375 to R379), barriers (R380 to R383), CARVE (R256, R387), and the performance counters (R374). -/

namespace Sys2Proof.Machine

open Sys2Proof

/-! ### Order and reach -/

/-- Lanes in ascending %slot. (log 41, DEDUCED) -/
def State.ordered (s : State) (es : List Env) : List Env := es.mergeSort fun a b => decide (s.slot a.k ≤ s.slot b.k)

/-- Is a home agent reachable: a remote one over a link that is up and named in its route (R431, R432)? (log 19, DEDUCED) -/
def State.reach (s : State) (h : Home) : Bool :=
  match h with
  | .remote d => (List.range 18).any fun i => (s.routes.getD d 0).getLsbD i && (s.link i).up
  | _ => true

/-- Can the home agent of a key be reached? -/
def State.keyReach (s : State) (key : Nat) : Bool :=
  if key < hostBase ∧ key / 2 ^ 44 ≠ s.dev.devno.toNat then s.reach (.remote (key / 2 ^ 44)) else true

/-- Is the piece of a line being migrated (R271)? -/
def State.pieceMoves (s : State) (line : Nat) : Bool := s.dev.migrating.any fun m => m.1 == s.phys (line * 128) / 65536

/-! ### What a fence of a scope waits for (R285) -/

/-- Does a fence of a scope wait for requests to a home agent? -/
def Home.inScope (h : Home) (scope : Nat) : Bool :=
  match h with
  | .slice _ | .bank _ => decide (1 ≤ scope)
  | .remote _ => decide (5 ≤ scope)
  | .host => decide (6 ≤ scope)

/-- Is a request a write-back of a cluster's L1? -/
def Req.isWback (r : Req) (cl : Nat) : Bool := r.cluster == cl && r.acc.any fun a => a.op.isWback

/-- The home agent of a memory key, as far as scopes are concerned. -/
def State.homeOf (s : State) (key : Nat) : Home :=
  if key < hostBase ∧ key / 2 ^ 44 ≠ s.dev.devno.toNat then .remote (key / 2 ^ 44) else .slice 0

/-- Is it a floating atomic that returns nothing, whose flags a fence of device scope waits for (R250)? -/
def AccOp.flagsLate : AccOp → Bool
  | .rmw .fadd _ _ _ none => true
  | _ => false

/-- The requests and sluice releases that a fence of a scope by a lane waits for (R285, R294): its own, the write-backs of its cluster,
and those of its CCTLs. (log 41, DEDUCED) -/
def State.fenceSet (s : State) (k : LaneId) (scope : Nat) : List Nat :=
  (s.reqs.filter fun r => !r.done &&
    ((r.home.inScope scope && (r.isWback (s.clusterOf k) || r.acc.any fun a => a.lane == k && a.op.own)) ||
      (decide (4 ≤ scope) && r.acc.any fun a => a.lane == k && a.op.flagsLate))).map (·.id) ++
  (s.slrels.filter fun r => r.lane == k && (s.homeOf r.key).inScope scope).map (·.id) ++
  match s.lanes.get? k with | some l => l.cctlReqs.filter fun i => !s.performed i | none => []

/-- FENCE (R386): the cluster's dirty bytes go home, and the lane parks. -/
def issueFence (es : List Env) : Act := Act.all [
  Act.each es fun e => Act.when (decide (1 ≤ e.mn)) (sendWbacks e.cl),
  retire es,
  Act.each es fun e => fun s =>
    updParks e.k (fun p => { p with wait := p.wait ++ [.fence e.mn (s.fenceSet e.k e.mn) s.tick] }) s]

/-- The lane's CCTLs have reached every cache within a scope (R28, R246): code that a fetch has brought back goes again. -/
def endCctl (k : LaneId) (scope : Nat) : Act := fun s =>
  match s.lanes.get? k with
  | none => []
  | some l =>
    let cl := s.clusterOf k
    Act.all [
      Act.each l.cctl fun c => if 4 ≤ scope then dropCode (codeOf c)
        else if 1 ≤ scope then dropCodeOf (· == cl) (fun p => p / 16 == cl) (codeOf c)
        else dropCodeOf (· == cl) (· == 4 * s.coreOf k + s.pslot k / 4) (codeOf c),
      updLane k fun l => { l with cctl := if 4 ≤ scope then [] else l.cctl, cctlReqs := [] }] s

/-- FENCE_COMPLETE (R285): once every request is performed, a fence of DEV scope or wider invalidates the clean bytes that
the cluster's L1 held when it issued, and the lane leaves the park. (log 51, DEDUCED) -/
def stepFence (k : LaneId) : Act := fun s =>
  match s.lanes.get? k with
  | none => []
  | some l =>
    match l.parks.wait.find? fun w => match w with | .fence _ after _ => s.allPerformed after | _ => false with
    | some (.fence scope after issued) =>
      Act.all [
        Act.when (decide (4 ≤ scope)) (updCluster (s.clusterOf k) fun c => c.dropClean fun _ b => decide (b.since ≤ issued)),
        endCctl k scope,
        updParks k fun p => { p with wait := p.wait.filter fun w => decide (w ≠ .fence scope after issued) }] s
    | _ => []

/-! ### The binding table (R363 to R365) -/

/-- Does a context's table hold a range of sluice `sva` in which a line lies (R282)? -/
def State.rangeHas (s : State) (ctx gang : Nat) (sva : DWord) (line : Nat) : Bool :=
  match s.ctxs.get? ctx with
  | none => false
  | some c => (c.binds.filter fun b => b.v && b.sluice == sva).any fun b =>
      (List.range ((b.len.toNat + b.start.toNat % 65536 + 65535) / 65536)).any fun i =>
        let lo := if i = 0 then b.start.toNat else b.start.toNat / 65536 * 65536 + i * 65536
        let hi := min (b.start.toNat + b.len.toNat) (b.start.toNat / 65536 * 65536 + (i + 1) * 65536)
        match s.locate ctx gang (BitVec.ofNat 64 lo) with
        | some l => decide (lineOf l.key ≤ line) && decide (line < lineOf (l.key + (hi - lo)))
        | none => false

/-- The check of SLBIND on a table (R365). -/
def bindCheck (bs : List Binding) (b : Binding) : Option Nat :=
  let n := b.len.toNat
  let lo := b.start.toNat
  if b.sluice.toNat % 16 ≠ 0 ∨ !canonical b.sluice ∨ lo % 128 ≠ 0 ∨ n = 0 ∨ n % 128 ≠ 0 ∨ lo + n > 2 ^ 56 ∨
      lo + n > 0xFFFF0000000000 then some 0x30
  else if bs.any fun x => x.v && decide (lo < x.start.toNat + x.len.toNat) && decide (x.start.toNat < lo + n) then some 0x31
  else if (bs.filter (·.v)).length ≥ 4096 then some 0x32
  else none

/-- A new entry takes the first place whose entry is not valid. (log 61, DESIGN CHOICE) -/
def addBinding (bs : List Binding) (b : Binding) : List Binding := match bs with
  | [] => [b]
  | x :: r => if x.v then x :: addBinding r b else b :: r

/-- A change that a lane asks of the table: a new entry, or a start to unbind. -/
def bindOne (bs : List Binding) (x : Env × (Binding ⊕ DWord)) : List Binding × Option Nat :=
  match x.2 with
  | .inl b => match bindCheck bs b with
    | some c => (bs, some c)
    | none => (addBinding bs b, none)
  | .inr st => if bs.any fun b => b.v && b.start == st then
      (bs.map fun b => if b.v && b.start == st then { b with v := false } else b, none) else (bs, some 0x33)

/-- Changes in %slot order, each lane's outcome beside it. -/
def bindAll : List Binding → List (Env × (Binding ⊕ DWord)) → List Binding × List (LaneId × Option Nat)
  | bs, [] => (bs, [])
  | bs, x :: xs =>
    let (b1, r) := bindOne bs x
    let (b2, rs) := bindAll b1 xs
    (b2, (x.1.k, r) :: rs)

/-- SLBIND and SLUNB for lanes of one context (R365): the change is visible at once. -/
def issueBinds (es : List Env) (f : Env → Binding ⊕ DWord) : Act := fun s =>
  match es.mergeSort fun a b => decide (s.slot a.k ≤ s.slot b.k) with
  | [] => []
  | e :: r =>
    let ctx := s.ctxOf e.k
    match s.ctxs.get? ctx with
    | none => []
    | some c =>
      let (bs, out) := bindAll c.binds ((e :: r).map fun x => (x, f x))
      let fail (x : Env) : Option Nat := (out.find? fun o => o.1 == x.k).bind (·.2)
      Act.all [updCtx ctx fun c => { c with binds := bs },
        split (e :: r) (fun x => (fail x).map fun cause => ⟨2, cause, x.l.pc⟩) retire] s

/-- SLBIND (R364). (log 41, DEDUCED) -/
def issueSlbind (es : List Env) : Act := issueBinds es fun e =>
  .inl { sluice := e.src64 .n64 e.op.fx, start := e.src64 .n64 e.op.fy, len := e.src e.op.fz }
/-- SLUNB (R364). -/
def issueSlunb (es : List Env) : Act := issueBinds es fun e => .inr (e.src64 .n64 e.op.fy)

/-! ### Sluices -/

/-- May a request be granted when no other waits before it (R281)? -/
def Sluice.grants (v : Sluice) (excl : Bool) : Bool := !v.x && (!excl || v.shr == 0)
/-- The object after a grant. -/
def Sluice.granted (v : Sluice) (excl : Bool) : Sluice := if excl then { v with x := true } else { v with shr := v.shr + 1 }
/-- The object after a release. -/
def Sluice.released (v : Sluice) (excl : Bool) : Sluice :=
  { v with x := if excl then false else v.x, shr := if excl then v.shr else v.shr - 1, relgen := v.relgen + 1 }

/-- The probe of a sluice access (R384). -/
def Env.sluiceStop (e : Env) : Option Stop := e.probeStop 16 { rd := true, wr := true, noHost := true }

/-- The entry of a lane's hold list for an address. -/
def Lane.hold? (l : Lane) (va : DWord) : Option Hold := l.holds.find? fun h => h.va == va

/-- Hold-list faults of SLACQ and SLTRY (R280). -/
def holdStop (e : Env) : Option Stop :=
  entryStop ((e.l.hold? e.ea).isNone && decide (4 ≤ e.l.holds.length)) e 0x18

/-- The line of a sluice leaves the L1 of a cluster: its dirty bytes go home, so that the operation acts after them (R293). -/
def freshSluice (cl key : Nat) : Act := Act.all [sendWback cl (lineOf key), dropCleanLine cl (lineOf key)]

/-- Ask for a sluice: the lane parks; `try_` is SLTRY's result and register. -/
def askSluice (e : Env) (try_ : Option (Nat × Nat)) : Act := Act.all [freshSluice e.cl e.loc.key, Act.fresh fun n => Act.all [
  updSlReqs fun rs => rs ++ [{ id := n, lane := e.k, va := e.ea, key := e.loc.key, excl := e.mn == 0, try_ := try_, waiting := false,
                               slot := e.s.slot e.k, home := e.loc.home }],
  updParks e.k fun p => { p with acq := p.acq ++ [.sluice n] }]]

/-- SLACQ (R385): a lane that holds the sluice already goes on; the others send requests, in %slot order, and park. (log 53, DEDUCED) -/
def issueSlacq (es : List Env) : Act :=
  split es (fun e => firstStop [e.sluiceStop, holdStop e]) fun ok => Act.all [keepLeaves ok, countAccess ok, retire ok,
    Act.read fun s => Act.each (s.ordered ok) fun e => Act.when (e.l.hold? e.ea).isNone (askSluice e none)]

/-- The word for a truth value (R138). -/
def truth (b : Bool) : Word := if b then 1 else 0

/-- SLTRY (R385): the lane issues nothing until the request has been granted or has failed (R294). (log 53, DEDUCED) -/
def issueSltry (es : List Env) : Act :=
  split es (fun e => firstStop [e.sluiceStop, holdStop e]) fun ok => Act.all [keepLeaves ok, countAccess ok, retire ok,
    Act.read fun s => withIds (s.ordered ok) fun ys => Act.each ys fun y =>
      let e := y.1
      let held := (e.l.hold? e.ea).isSome
      Act.all [
        addResult e.k { id := y.2, silent := Op.silent e.op, vals := if held then some (destBool e.op.fx true) else none, flags := 0, err := none,
                        readyAt := s.now + 1, req := none },
        Act.when (!held) (askSluice e (some (y.2, fxReg e.op)))]]

/-- Send a release (R282). One that publishes has what its cluster's L1 holds dirty on its way home before it; which of it has to be there
first is settled when the release is performed (R284). (log 53, DEDUCED) -/
def sendRelease (k : LaneId) (h : Hold) (publish : Bool) : Act := fun s => Act.all [
  Act.when publish (sendWbacks (s.clusterOf k)),
  freshSluice (s.clusterOf k) h.key,
  Act.fresh fun n => updSlRels fun rs => rs ++ [
    { id := n, lane := k, key := h.key, va := h.va, excl := h.excl, publish := publish, pc := s.pcOf k, home := h.home }]] s

/-- SLREL (R385). -/
def issueSlrel (es : List Env) : Act :=
  split es (fun e => firstStop [entryStop (!e.l.regions.isEmpty) e 0x1A, e.sluiceStop,
      entryStop (e.l.hold? e.ea).isNone e 0x19]) fun ok => Act.all [keepLeaves ok, countAccess ok,
    Act.each ok fun e => Act.opt (e.l.hold? e.ea) fun h => Act.all [
      updLane e.k fun l => { l with holds := l.holds.filter fun x => x.va != e.ea },
      sendRelease e.k h true],
    retire ok]

/-! ### Weirs -/

/-- A weir slot's image (R375). -/
structure Weir where
  gen : Nat
  exp : Nat
  pend : Nat
  btgt : Nat
  bcnt : Nat
  a : Bool
  ovf : Bool
  deriving DecidableEq, Repr

/-- The image as 128 bits. -/
def Weir.word (w : Weir) : Nat :=
  (if w.ovf then 2 ^ 113 else 0) + (if w.a then 2 ^ 112 else 0) + w.bcnt % 2 ^ 32 * 2 ^ 80 + w.btgt % 2 ^ 32 * 2 ^ 48 +
    w.pend % 2 ^ 16 * 2 ^ 32 + w.exp % 2 ^ 16 * 2 ^ 16 + w.gen % 2 ^ 16

/-- The fields of an image. -/
def Weir.ofWord (v : Nat) : Weir :=
  { gen := bits v 15 0, exp := bits v 31 16, pend := bits v 47 32, btgt := bits v 79 48, bcnt := bits v 111 80,
    a := bits v 112 112 == 1, ovf := bits v 113 113 == 1 }

/-- The weir of a slot, by memory key. -/
def State.weir (s : State) (key : Nat) : Weir := Weir.ofWord (s.num key 16)
/-- The workgroup of a scratchpad key. -/
def wgOfKey (key : Nat) : Nat := (key - 2 ^ 54) / 2 ^ 22
/-- The scratchpad offset of a key. -/
def offOfKey (key : Nat) : Nat := (key - 2 ^ 54) % 2 ^ 22
/-- Is a slot an active weir (R375)? -/
def State.weirActive (s : State) (key : Nat) : Bool :=
  match s.wgs.get? (wgOfKey key) with | some w => w.weirs.contains (offOfKey key) | none => false
/-- The scratchpad address of a slot in its gang's window (R233). -/
def State.windowVA (s : State) (key : Nat) : Nat :=
  match s.wgs.get? (wgOfKey key) with | some w => 0xFFFF0000000000 + w.idx * 2 ^ 22 + offOfKey key | none => 0

/-- A fresh weir (R379). -/
def Weir.init (e : Nat) : Weir := { gen := 0, exp := e, pend := e, btgt := 0, bcnt := 0, a := true, ovf := false }

/-- The advance (R376). -/
def Weir.advance (w : Weir) : Weir :=
  if w.a ∧ w.pend = 0 ∧ w.bcnt = w.btgt then { w with gen := (w.gen + 1) % 2 ^ 16, pend := w.exp, bcnt := 0, btgt := 0 }
  else w

/-- A byte count (R377): counted, with an overflow when it exceeds the target. -/
def Weir.count (w : Weir) (n : Nat) : Weir × Bool := ({ w with bcnt := (w.bcnt + n) % 2 ^ 32 }, decide (w.bcnt + n > w.btgt))
/-- A rise of the byte target (R377, R379). -/
def Weir.expect (w : Weir) (n : Nat) : Weir × Bool :=
  if w.btgt + n ≥ 2 ^ 32 then ({ w with btgt := 2 ^ 32 - 1 }, true) else ({ w with btgt := w.btgt + n }, false)
/-- One arrival (R377, R379). -/
def Weir.arrive (w : Weir) : Weir × Bool := if w.pend = 0 then (w, true) else ({ w with pend := w.pend - 1 }, false)

/-- Make a weir active, or replace it (R379). -/
def weirInit (key e : Nat) : Act := Act.all [
  updWg (wgOfKey key) fun w => { w with weirs := if w.weirs.contains (offOfKey key) then w.weirs else w.weirs ++ [offOfKey key] },
  storeBytes key (bytesLE 16 (Weir.init e).word)]

/-- A change to an active weir at its bank, with R376's check and R377's record, for a lane and PC. -/
def weirChange (key : Nat) (k : LaneId) (pc : DWord) (f : Weir → Weir × Bool) : Act := fun s =>
  if !s.weirActive key then [] else
  let (w, bad) := f (s.weir key)
  let w := Weir.advance { w with ovf := w.ovf || bad }
  Act.all [storeBytes key (bytesLE 16 w.word),
    Act.when bad (writeError { s.errOf k 0x04 pc.toNat (s.windowVA key) with aux := w.word })] s

/-- A lane's change performed (R376). -/
def weirOp (k : LaneId) (key : Nat) (op : WeirOp) (pc : DWord) : Act :=
  match op with
  | .arr => weirChange key k pc Weir.arrive
  | .exp n => weirChange key k pc (·.expect n)
  | .init e => weirInit key e

/-- The probe of the weir instructions (R379). (log 41, DEDUCED) -/
def Env.weirStop (e : Env) (active : Bool) : Option Stop :=
  match e.s.probeAligned (e.s.ctxOf e.k) (e.s.gangOf e.k) e.ea 16 { rd := false, wr := false, weir := false } with
  | some r => Sys2Proof.Machine.probeStop (some r)
  | none => match e.loc.scratch with
    | none => some ⟨1, 0x06, e.ea⟩
    | some _ => if e.s.weirActive e.loc.key = active then none else some ⟨1, 0x06, e.ea⟩

/-- A weir change that waits: its lane, its slot's key, what it does, the requests before it, its number and that of its issue. -/
structure HeldWeir where
  lane : LaneId
  key : Nat
  op : WeirOp
  pc : DWord
  after : List Nat
  id : Nat
  issue : Nat
  deriving DecidableEq, Repr

/-- The weir changes that wait. -/
def State.heldWeirs (s : State) : List HeldWeir := s.lanes.flatMap fun l => l.2.arriving.filterMap fun a => match a with
  | .weir key op pc after id issue => some { lane := l.1, key := key, op := op, pc := pc, after := after, id := id, issue := issue }
  | .barrier _ _ _ => none

/-- Does a lane's change to a slot stand behind one that waits: an earlier one of the lane, or of a lower %slot of the issue (R376)? -/
def HeldWeir.before (h : HeldWeir) (key : Nat) (k : LaneId) (id issue : Nat) : Bool :=
  h.key == key && decide (h.id < id) && (decide (h.lane = k) || h.issue == issue)

/-- A lane's weir change: at once, or once the requests of `after` are performed and those before it at the slot are made. (log 41, DEDUCED) -/
def queueWeir (issue : Nat) (e : Env) (op : WeirOp) (after : List Nat) : Act := fun s =>
  if after.isEmpty && !s.heldWeirs.any (fun h => h.before e.loc.key e.k s.fresh issue) then weirOp e.k e.loc.key op e.l.pc s
  else Act.fresh (fun n => updLane e.k fun l => { l with arriving := l.arriving ++ [.weir e.loc.key op e.l.pc after n issue] }) s

/-- The weir changes of an issue, in ascending %slot order (R376). -/
def queueWeirs (es : List Env) (op : Env → WeirOp) (after : State → LaneId → List Nat) : Act := Act.fresh fun n => Act.read fun t =>
  Act.each (t.ordered es) fun e => queueWeir n e (op e) (after t e.k)

/-- WINIT (R379). (log 10, DEDUCED) -/
def issueWinit (es : List Env) : Act := fun s =>
  split es (fun e => firstStop [e.weirStop false, entryStop ((e.src e.op.fx).toNat % 2 ^ 16 == 0) e 0x38]) (fun ok => Act.all [
    queueWeirs ok (fun e => .init ((e.src e.op.fx).toNat % 2 ^ 16)) fun _ _ => [],
    countAccess ok, retire ok]) s
/-- WEXP (R379). -/
def issueWexp (es : List Env) : Act := fun s =>
  split es (fun e => e.weirStop true) (fun ok => Act.all [
    queueWeirs ok (fun e => .exp (e.src e.op.fx).toNat) fun _ _ => [],
    countAccess ok, retire ok]) s
/-- WARR (R379): the arrival waits for the lane's earlier accesses (R287), and for the arrivals of its issue at lower %slot (R376). -/
def issueWarr (es : List Env) : Act := fun s =>
  split es (fun e => e.weirStop true) (fun ok => Act.all [
    Act.each ok fun e => sendWbacks e.cl,
    queueWeirs ok (fun _ => .arr) fun t k => t.fenceSet k 3,
    countAccess ok, retire ok]) s
/-- WWAIT (R379): no park when the generation differs already. -/
def issueWwait (es : List Env) : Act :=
  split es (fun e => e.weirStop true) fun ok => Act.all [retire ok,
    Act.each ok fun e => fun s =>
      let g := (e.src e.op.fx).setWidth 16
      if (s.weir e.loc.key).gen = g.toNat then
        updParks e.k (fun p => { p with weir := some { key := e.loc.key, gen := g, ret := false } }) s
      else []]
/-- WTEST (R379). -/
def issueWtest (es : List Env) : Act :=
  split es (fun e => e.weirStop true) fun ok => Act.all [
    Act.read fun s => resultNow (ok.map fun e =>
      let v := s.num e.loc.key 16
      (e, (dest e.op.fx (if e.mn = 0 then [BitVec.ofNat 32 (v % 2 ^ 16)] else (List.range 4).map fun i => BitVec.ofNat 32 (v / 2 ^ (32 * i))), 0))),
    retire ok]
/-- WRET (R379): the slot retires once no command names it and the lane's earlier changes to it are made (WEIR_RETIRE). -/
def issueWret (es : List Env) : Act :=
  split es (fun e => e.weirStop true) fun ok => Act.all [retire ok,
    Act.each ok fun e => updParks e.k fun p => { p with weir := some { key := e.loc.key, gen := 0, ret := true } }]

/-- Does an unfinished command name a slot as gate, count or arrival? -/
def State.named (s : State) (key : Nat) : Bool :=
  (s.cores.any fun c => c.2.mq.any fun m => match m.kind with
    | .loop l => (l.gate.map (·.1)) == some key
    | _ => false) ||
  s.clusters.any fun c => c.2.cmds.any fun m => (m.gate.map (·.1)) == some key || m.arrive == some key || m.count == some key

/-- Lanes that wait at a slot. -/
def State.weirWaiters (s : State) (key : Nat) (ret : Bool) : List LaneId :=
  (s.lanes.filter fun l => !l.2.exited && match l.2.parks.weir with | some p => p.key == key && p.ret == ret | none => false).map (·.1)

/-- The lane stands at the instruction that it issued last, as if it had not issued it. (log 9, DEDUCED) -/
def backUp (k : LaneId) : Act := updLane k fun l => { l with pc := l.pc - 12, latch := none }

/-- Split lanes by peloton, whose records are in order (R390); the order of those of different pelotons is open (R297). (log 5, DESIGN CHOICE) -/
def State.groups (s : State) (ks : List LaneId) : List (List LaneId) :=
  let key (k : LaneId) : Nat × Nat := (s.coreOf k, s.pslot k)
  (s.anyOrder (2 ^ 42) (fun g => 16 * g.1 + g.2) (ks.map key).dedup).map fun g => ks.filter fun k => key k = g

/-- Does a slot retire: a lane waits in a WRET on it with no earlier change of its own under way, or its workgroup has exited (R70, R379)? -/
def State.retires (s : State) (w : Wg) (off key : Nat) : Bool :=
  w.weirs.contains off && (w.retiring.contains off ||
    (s.weirWaiters key true).any fun k => !s.heldWeirs.any fun h => decide (h.lane = k) && h.key == key)

/-- WEIR_RETIRE (R70, R379): the slot becomes inactive, and lanes in a weir park on it fault-park at their WWAIT. (log 9, DEDUCED; log 41, DEDUCED) -/
def stepWeirRetire (wg off : Nat) : Act := fun s =>
  let key := scratchKey wg off
  match s.wgs.get? wg with
  | none => []
  | some w =>
    if !s.retires w off key || s.named key then [] else
    let ws := s.weirWaiters key false
    Act.all [
      storeBytes key (bytesLE 16 { s.weir key with a := false }.word),
      updWg wg fun w => { w with weirs := w.weirs.filter (· != off), retiring := w.retiring.filter (· != off) },
      Act.each (s.weirWaiters key true ++ ws) fun k => updParks k fun p => { p with weir := none },
      Act.each ws backUp,
      Act.each (s.groups ws) fun g => faultLanes 1 0 (g.map fun k => ⟨k, 0x06, BitVec.ofNat 64 (s.windowVA key)⟩)] s

/-! ### Barriers -/

/-- The trap of a trap fence (R112): (%flags AND %farm) is nonzero. -/
def State.armed (s : State) (k : LaneId) : BitVec 7 :=
  match s.crews.get? (s.crewOf k) with | some c => c.flags &&& c.farm | none => 0

/-- The arithmetic trap of a lane at its instruction (R392). -/
def arithRaise (s : State) (e : Env) : Raise :=
  { lane := e.k, cls := 0, info := (s.armed e.k).toNat, cause := 0, resume := e.l.pc }

/-- Has a lane arrived at a barrier, or issued its arrival (R381)? -/
def Lane.atBar (l : Lane) (gang : Bool) (b : Nat) : Bool :=
  l.arrived.contains (gang, b) || l.arriving.any fun a => match a with
    | .barrier g n _ => g == gang && n == b
    | _ => false

/-- Arrive: the arrival is counted once the lane's earlier accesses are performed (R382). -/
def arriveBar (k : LaneId) (gang : Bool) (b : Nat) : Act := Act.all [
  Act.read fun s => sendWbacks (s.clusterOf k),
  Act.read fun s => updLane k fun l => { l with
    arriving := l.arriving ++ [.barrier gang b (s.fenceSet k (if gang then 3 else 2))] }]

/-- BAR, BARA and GBAR (R381). -/
def issueBarrier (es : List Env) (gang wait fence : Bool) : Act := fun s =>
  let b (e : Env) : Nat := e.op.lit.toNat % (if gang then 4 else 16)
  let trap := if fence then es.filter fun e => s.armed e.k != 0 else []
  let go := if fence then es.filter fun e => s.armed e.k == 0 else es
  Act.all [raiseTraps (trap.map (arithRaise s)), parkOnW trap, retire go,
    Act.each go fun e =>
      if e.l.atBar gang (b e) then updParks e.k fun p => { p with bar := some { gang := gang, bar := b e, again := true, wait := wait } }
      else Act.all [arriveBar e.k gang (b e),
        Act.when wait (updParks e.k fun p => { p with bar := some { gang := gang, bar := b e, again := false, wait := true } })]] s

/-- BAR. -/
def issueBar (es : List Env) : Act := issueBarrier es false true true
/-- BARA. -/
def issueBara (es : List Env) : Act := issueBarrier es false false false
/-- GBAR. -/
def issueGbar (es : List Env) : Act := issueBarrier es true true true

/-- Count the barrier arrivals of a lane that may be counted (R382). -/
def countBars (k : LaneId) : Act := fun s =>
  let due (a : Arrival) : Option (Bool × Nat) := match a with
    | .barrier g b after => if s.allPerformed after then some (g, b) else none
    | .weir .. => none
  Act.when (s.laneIs k fun l => l.arriving.any fun a => (due a).isSome) (updLane k fun l => { l with
    arriving := l.arriving.filter fun a => (due a).isNone, arrived := l.arrived ++ l.arriving.filterMap due }) s

/-- May a weir change that waits be made now (R287, R376)? -/
def State.weirDue (s : State) (h : HeldWeir) : Bool :=
  s.allPerformed h.after && !s.heldWeirs.any fun x => x.before h.key h.lane h.id h.issue

/-- Make the weir changes that may be made, one at a time; of several at a slot a free value names the next. `n` bounds the work. (log 5, DESIGN
CHOICE) -/
def makeWeirs : Nat → Act
  | 0 => Act.skip
  | n + 1 => fun s => match s.heldWeirs.filter s.weirDue with
    | [] => []
    | h :: hs =>
      let c := s.choose (2 ^ 43 + n) h ((h :: hs).filter fun x => x.key == h.key)
      Act.all [
        updLane c.lane fun l => { l with arriving := l.arriving.filter fun a => match a with | .weir _ _ _ _ id _ => id != c.id | _ => true },
        weirOp c.lane c.key c.op c.pc,
        makeWeirs n] s

/-- The lanes that a barrier counts (R381). -/
def State.barLanes (s : State) (gang : Bool) (id : Nat) : List LaneId :=
  (if gang then s.gangLanes id else s.wgLanes id).filter fun k => !s.gone k

/-- What lanes that pass a barrier may still read of values written over, oldest first, and the registers whose last value they must read:
a lane that has passed with the writer of a value reads none from before it (R116). -/
def passStale (passed : List Nat) : List Stale → List Stale × List Nat
  | [] => ([], [])
  | x :: r =>
    let (ys, seen) := passStale passed r
    if passed.contains x.writer || seen.contains x.reg then
      let left := x.readers.filter fun k => !passed.contains k
      (if left.isEmpty then ys else { x with readers := left } :: ys, x.reg :: seen)
    else (x :: ys, seen)

/-- Lanes that have passed a workgroup barrier together see each other's stream registers (R116). (log 5, DESIGN CHOICE) -/
def passBarrier (wg : Nat) (passed : List Nat) : Act := updWg wg fun w => { w with stale := (passStale passed w.stale).1 }

/-- A phase of a barrier completes once every non-exited lane has arrived (R381). -/
def completeBar (gang : Bool) (id b : Nat) : Act := fun s =>
  let ks := s.barLanes gang id
  if ks.isEmpty || !ks.all (fun k => s.laneIs k fun l => l.arrived.contains (gang, b)) then [] else
  let flip (m : Map Nat Bool) : Map Nat Bool := m.set b (!m.getD b false)
  Act.all [
    if gang then updGang id fun g => { g with phases := flip g.phases } else Act.all [
      updWg id fun w => { w with phases := flip w.phases },
      passBarrier id ((ks.filter fun k => s.laneIs k fun l => match l.parks.bar with
        | some p => !p.gang && p.bar == b && !p.again
        | none => false).map (·.idx))],
    Act.each ks fun k => updLane k fun l => { l with arrived := l.arrived.filter fun a => a != (gang, b) },
    Act.each ks fun k => fun t => match (t.lanes.get? k).bind fun l => l.parks.bar with
      | some p =>
        if p.gang = gang ∧ p.bar = b then
          if p.again then
            Act.all [updParks k fun q => { q with bar := if p.wait then some { p with again := false } else none },
              arriveBar k gang b] t
          else updParks k (fun q => { q with bar := none }) t
        else []
      | none => []] s

/-- Count arrivals and complete phases, for workgroups and gangs that have lanes with arrivals. -/
def serveBarriers : Act := Act.all [
  fun s => Act.each ((s.lanes.filter fun l => !l.2.arriving.isEmpty).map (·.1)) countBars s,
  fun s => makeWeirs s.heldWeirs.length s,
  fun s =>
    let at_ := (s.lanes.flatMap fun l => l.2.arrived.map fun a => (a, l.1.wg)).dedup
    Act.each ((at_.map fun x => (x.1.1, (if x.1.1 then s.gangOf ⟨x.2, 0⟩ else x.2), x.1.2)).dedup) (fun x =>
      completeBar x.1 x.2.1 x.2.2) s]

/-- Weir parks end when the generation has changed (R379). -/
def serveWeirs : Act := fun s =>
  Act.each (s.lanes.filter fun l => match l.2.parks.weir with
    | some p => !p.ret && (s.weir p.key).gen != p.gen.toNat
    | none => false) (fun l => updParks l.1 fun p => { p with weir := none }) s

/-- Is a lane in no park but barrier, collective and weir parks, and in one of these (R383)? (log 9, DEDUCED) -/
def Lane.stuckPark (l : Lane) : Bool :=
  let p := l.parks
  (p.bar.isSome || p.coll.isSome || p.weir.isSome) && p.yield.isNone && p.sleep.isNone && !p.trap && p.acq.isEmpty &&
    p.queue.isNone && !p.fault && l.err.isNone

/-- Two operations carry one signature (R182): MAJ, MIN, TYP and TAG. -/
def sameSig (a b : Op) : Bool := a.maj == b.maj && a.min == b.min && a.typ == b.typ && a.l 31 20 == b.l 31 20

/-- The non-exited lanes of a crew, in rank order. -/
def State.crewLive (s : State) (c : CrewId) : List LaneId :=
  match s.crews.get? c with
  | some v => (v.lanes.map fun i => (⟨c.wg, i⟩ : LaneId)).filter fun k => !s.gone k
  | none => []

/-- The collectives at which all the non-exited lanes of a crew are parked, if they all are. -/
def State.atCollective (s : State) (c : CrewId) : Option (List (LaneId × Coll)) :=
  let ks := s.crewLive c
  let cs := ks.filterMap fun k => ((s.lanes.get? k).bind fun l => l.parks.coll).map fun x => (k, x)
  if !ks.isEmpty && cs.length == ks.length then some cs else none

/-- Does a crew meet R184's condition? -/
def State.meets (s : State) (c : CrewId) : Bool :=
  match s.atCollective c with
  | some (x :: xs) => xs.all fun y => sameSig x.2.op y.2.op
  | _ => false

/-- Is a workgroup, or a gang, stuck at a barrier (R383)? -/
def State.stuck (s : State) (gang : Bool) (id : Nat) : Bool :=
  let ks := s.barLanes gang id
  let bars := ks.map fun k => (s.lanes.get? k).bind fun l => match l.parks.bar with
    | some p => if p.gang = gang then some p.bar else none
    | none => none
  let whole := if gang then ks else s.barLanes true (s.gangOf ⟨id, 0⟩)
  bars.any (·.isSome) && ks.all (fun k => s.laneIs k Lane.stuckPark) &&
    !(match bars with | b :: bs => b.isSome && bs.all (· == b) | [] => true) &&
    !((ks.map s.crewOf).dedup.any s.meets) &&
    ks.all fun k => match (s.lanes.get? k).bind fun l => l.parks.weir with
      | some p => !s.named p.key && whole.all fun j => s.laneIs j Lane.stuckPark
      | none => true

/-- BARRIER_UNREACHABLE (R383): every lane parked at such a barrier withdraws its arrival, leaves the park and raises the
trap at its BAR. (log 9, DEDUCED) -/
def stepUnreachable (gang : Bool) (id : Nat) : Act := fun s =>
  if !s.stuck gang id then [] else
  let ks := (s.barLanes gang id).filterMap fun k => ((s.lanes.get? k).bind fun l => l.parks.bar).bind fun p =>
    if p.gang = gang then some (k, p) else none
  Act.all [
    Act.each ks fun x => updLane x.1 fun l => { l with
      pc := l.pc - 12, latch := none, parks := { l.parks with bar := none },
      arrived := l.arrived.filter fun a => a != (gang, x.2.bar),
      arriving := l.arriving.filter fun a => match a with | .barrier g b _ => !(g == gang && b == x.2.bar) | _ => true },
    Act.read fun t => Act.each (t.groups (ks.map (·.1))) fun g => raiseTraps (g.filterMap fun k =>
      (ks.find? fun x => x.1 == k).map fun x =>
        { lane := k, cls := if gang then 5 else 4, info := x.2.bar, cause := 0, resume := t.pcOf k })] s

/-! ### CARVE (R256 to R258, R387) -/

/-- The decision at the bank's controller: the status, or none where a drain starts. -/
def carveDecide (c : Cluster) (bank mode : Nat) : Option Nat :=
  if c.bank bank = mode then some 0
  else if c.draining bank then some 3
  else if c.bank bank = 1 ∧ (c.segs.any fun x => x.1 == bank) then some 1
  else if c.bank bank = 2 ∧ (c.ports.any fun p => p.2.store.any fun x => x.1 == bank) then some 2
  else if c.bank bank = 0 then none
  else some 0

/-- CARVE by one lane. -/
def carveOne (e : Env) : Act := fun s =>
  let bank := (e.src e.op.fy).toNat
  let c := s.cluster e.cl
  match carveDecide c bank e.mn with
  | some st => Act.all [
      Act.when (st == 0) (updCluster e.cl fun c => { c with banks := c.banks.set bank e.mn }),
      resultNow [(e, (dest e.op.fx [BitVec.ofNat 32 st], 0))]] s
  | none => Act.fresh (fun n => Act.all [
      addResult e.k { id := n, silent := Op.silent e.op, vals := none, flags := 0, err := none, readyAt := s.now + 1, req := none },
      updCluster e.cl fun c => { c with drains := c.drains ++ [
        { bank := bank, mode := e.mn, lane := e.k, res := some (n, fxReg e.op) }] },
      Act.each ((s.cluster e.cl).l1.filter fun l => l.bank == bank) fun l => sendWback e.cl l.line]) s

/-- CARVE (R387). -/
def issueCarve (es : List Env) : Act := fun s =>
  split es (fun e => entryStop (decide (31 < (e.src e.op.fy).toNat)) e 0x39) (fun ok => Act.all [
    Act.each (s.ordered ok) carveOne, retire ok]) s

/-- A known value for a lane's outstanding result. -/
def Lane.resolve (l : Lane) (id : Nat) (vals : Writes) : Lane :=
  { l with results := l.results.map fun x => if x.id = id then { x with vals := some vals } else x }

/-- BANK_DRAIN_DONE (R257): every dirty line has gone home, so the lines are invalidated and the bank switches. -/
def stepDrainDone (cl bank : Nat) : Act := fun s =>
  match (s.cluster cl).drains.find? fun d => d.bank == bank with
  | none => []
  | some d =>
    let here (l : L1Line) : Bool := l.bank == bank
    let dirty := (s.cluster cl).l1.filter fun l => here l && l.bytes.any fun b => b.2.dirty
    if dirty.any (fun l => l.bytes.any fun b => b.2.sent.isSome) then []
    else if !dirty.isEmpty then Act.each dirty (fun l => sendWback cl l.line) s
    else Act.all [
      updCluster cl fun c => { c with
        l1 := c.l1.filter fun l => !here l, drains := c.drains.filter fun x => x.bank != bank,
        banks := c.banks.set bank d.mode },
      Act.opt d.res fun r => updLane d.lane fun l => l.resolve r.1 (if r.2 < 256 then [(r.2, 0)] else [])] s

/-! ### Performance counters (R374) -/

/-- L2QPEAK as a read in cycle `now` finds it (R275). -/
def Slice.peak (now : Nat) (x : Slice) : Nat := match x.peakRead with
  | some (t, v) => if t = now then v else x.l2qpeak
  | none => x.l2qpeak

/-- The value of a counter for a lane. -/
def perfValue (s : State) (k : LaneId) (code sel : Nat) : Nat :=
  let sl (f : Slice → Nat) : Nat := if sel < 96 then f (s.slice sel) else 0
  match code with
  | 0x20 => if sel < 2304 then (s.port sel).pcens.toNat else 0
  | 0x21 => if sel < 2304 then (s.port sel).pissue.toNat else 0
  | 0x30 => if sel < 144 then (s.cluster sel).throt.toNat else 0
  | 0x40 => if sel < 16 ∧ ((s.core (s.coreOf k)).tile sel).owner = some k.wg then ((s.core (s.coreOf k)).tile sel).evt.toNat else 0
  | 0x130 => sl fun x => x.queue.length
  | 0x131 => sl (Slice.peak s.now)
  | 0x132 => sl fun x => x.l2req.toNat
  | 0x133 => sl fun x => x.l2miss.toNat
  | 0x134 => sl fun x => x.l2merge.toNat
  | 0x135 => sl fun x => x.l2hold.toNat
  | _ => 0

/-- Clear a counter. -/
def perfClear (code sel : Nat) : Act :=
  let sl (f : Slice → Slice) : Act := Act.when (decide (sel < 96)) (updSlice sel f)
  match code with
  | 0x20 => Act.when (decide (sel < 2304)) (updPort sel fun p => { p with pcens := 0 })
  | 0x21 => Act.when (decide (sel < 2304)) (updPort sel fun p => { p with pissue := 0 })
  | 0x30 => Act.when (decide (sel < 144)) (updCluster sel fun c => { c with throt := 0 })
  | 0x132 => sl fun x => { x with l2req := 0 }
  | 0x133 => sl fun x => { x with l2miss := 0 }
  | 0x134 => sl fun x => { x with l2merge := 0 }
  | 0x135 => sl fun x => { x with l2hold := 0 }
  | _ => Act.skip

/-- PERFR: a read of L2QPEAK restarts it; reads in one cycle return one value (R275). -/
def issuePerfr (es : List Env) : Act := fun s => Act.all [
  resultNow (es.map fun e => (e, (dest e.op.fx [BitVec.ofNat 32 (perfValue s e.k (e.op.l 15 0) (e.src e.op.fy).toNat)], 0))),
  Act.each es fun e => Act.when (e.op.l 15 0 == 0x131 && decide ((e.src e.op.fy).toNat < 96))
    (updSlice (e.src e.op.fy).toNat fun x => { x with l2qpeak := x.queue.length, peakRead := some (s.now, x.peak s.now) }),
  retire es] s
/-- PERFC. -/
def issuePerfc (es : List Env) : Act := Act.all [
  Act.each es fun e => perfClear (e.op.l 15 0) (e.src e.op.fy).toNat, retire es]

end Sys2Proof.Machine
end

