-- ==== Sys2Proof/Machine/Collective.lean ====
section
/-! DEFINITION. Machine/Collective.lean: the ten lane collectives (R182 to R189). -/

namespace Sys2Proof.Machine

open Sys2Proof

/-- Issue of a collective (R184): the lane reads its sources and parks; its result is outstanding. LRDV also waits for
the lane's earlier accesses as a FENCE of CREW scope does (R188). -/
def parkColl (e : Env) : Act := fun s =>
  let w := e.op.typ.is64
  let a := if w then e.src64 e.op.typ e.op.fy else (e.src e.op.fy).setWidth 64
  let b : DWord := (e.src e.op.fz).setWidth 64
  Act.all [
    Act.when (e.op.maj == .lrdv) (sendWbacks e.cl),
    Act.fresh fun n => Act.all [
      addResult e.k { id := n, silent := Op.silent e.op, vals := none, flags := 0, err := none, readyAt := s.now + 1, req := none },
      Act.read fun t =>
        let c : Coll := { op := e.op, a := a, b := b, after := if e.op.maj == .lrdv then t.fenceSet e.k 1 else [], res := some n }
        updParks e.k fun p => { p with coll := some c }]] s

/-- One participant of a collective: its rank, and the sources that it read. -/
structure Part where
  lane : LaneId
  rank : Nat
  c : Coll

/-- The value of a rank among the participants. -/
def rankVal (ps : List Part) (r : Int) : Option DWord := (ps.find? fun p => (p.rank : Int) == r).map fun p => p.c.a

/-- The operation of LSCAN and LRED on two words, with flags (R187): 0 add, 1 min, 2 max, then and, or, xor. -/
def collOp (t : Typ) (op : Nat) (a b : Nat) : Nat × BitVec 7 :=
  match op with
  | 3 => (Nat.land a b, 0)
  | 4 => (Nat.lor a b, 0)
  | 5 => (Nat.xor a b, 0)
  | _ =>
    if t == .f32 then
      match op with
      | 0 => formF32.result 0 ((formF32.decode a).add 0 (formF32.decode b))
      | 1 => formF32.minMax false false a b
      | _ => formF32.minMax true false a b
    else
      match op with
      | 0 => ((a + b) % 2 ^ 32, 0)
      | 1 => (if t.value a ≤ t.value b then a else b, 0)
      | _ => (if t.value a ≥ t.value b then a else b, 0)

/-- A single rank's value as it stands; a NaN becomes the canonical NaN (R187). -/
def collOne (t : Typ) (a : Nat) : Nat × BitVec 7 :=
  if t == .f32 then
    match formF32.decode a with
    | .nan sig => (formF32.canon, flagIf sig fINV)
    | _ => (a, 0)
  else (a, 0)

/-- The identity of an empty X form (R187). -/
def collId (t : Typ) (op : Nat) : Nat :=
  match op with
  | 1 => if t == .f32 then 0x7F800000 else (t.hi % (2 ^ 32 : Nat)).toNat
  | 2 => if t == .f32 then 0xFF800000 else (t.lo % (2 ^ 32 : Nat)).toNat
  | _ => 0

/-- The operation over values in ascending rank (R187). -/
def collFold (t : Typ) (op : Nat) (vs : List Nat) : Nat × BitVec 7 :=
  match vs with
  | [] => (collId t op, 0)
  | [v] => collOne t v
  | v :: w :: rest => (w :: rest).foldl (fun r x => let (y, f) := collOp t op r.1 x; (y, r.2 ||| f)) (v, 0)

/-- A mask of ranks. -/
def rankMask (ps : List Part) (p : Part → Bool) : Nat := ((ps.filter p).map fun x => 2 ^ x.rank).foldl (· + ·) 0

/-- What a participant's FX gets (R186), as words, with the flags of the operations that form it. `n` is the number of
ranks of the crew, `lit` the LIT of the lowest-ranked participant (R183). -/
def collValue (ps : List Part) (n : Nat) (lit : Nat) (me : Part) : List Word × BitVec 7 :=
  let op := me.c.op
  let r : Int := me.rank
  let wide (v : DWord) : List Word := if op.typ.is64 then [v.setWidth 32, (v >>> 32).setWidth 32] else [v.setWidth 32]
  let pair (v : Nat) : List Word := [BitVec.ofNat 32 v, BitVec.ofNat 32 (v / 2 ^ 32)]
  let from_ (src : Int) : DWord :=
    if 0 ≤ src ∧ src < (n : Int) then (rankVal ps src).getD me.c.a else me.c.a
  let first := (ps.head?.map fun p => p.c.a).getD 0
  let t := op.typ
  let true_ (p : Part) : Bool := p.c.a != 0
  match op.maj with
  | .lshf =>
    let d : Int := lit % 64
    (wide (from_ (match op.min.toNat with
      | 0 => me.c.b.toNat
      | 1 => r - d
      | 2 => r + d
      | _ => Nat.xor me.rank (lit % 64))), 0)
  | .lxch => (wide (((ps.find? fun p => p.c.b.toNat == me.rank).map fun p => p.c.a).getD me.c.a), 0)
  | .lbcst =>
    if op.min.toNat = 0 then (wide first, 0)
    else (wide (if lit % 64 < n then (rankVal ps (lit % 64 : Nat)).getD first else first), 0)
  | .lvote =>
    let b := match op.min.toNat with
      | 0 => ps.all true_
      | 1 => ps.any true_
      | _ => ps.all fun p => p.c.a == first
    ([if b then 1 else 0], 0)
  | .lball => (pair (rankMask ps true_), 0)
  | .lscan =>
    let incl := op.min.toNat % 2 = 0
    let (v, f) := collFold t (op.min.toNat / 2) ((ps.filter fun p => decide (p.rank < me.rank) || (incl && p.rank == me.rank)).map fun p => p.c.a.toNat)
    ([BitVec.ofNat 32 v], f)
  | .lred => let (v, f) := collFold t op.min.toNat (ps.map fun p => p.c.a.toNat); ([BitVec.ofNat 32 v], f)
  | .lmatch => (pair (rankMask ps fun p => p.c.a == me.c.a), 0)
  | .lrdv => ([BitVec.ofNat 32 ps.length], 0)
  | _ => ([BitVec.ofNat 32 ((ps.filter fun p => true_ p && (op.min.toNat == 0 || decide (p.rank < me.rank))).length)], 0)

/-- The participants of a crew whose lanes are all parked at collectives, by rank. -/
def State.parts (s : State) (c : CrewId) : List Part :=
  match s.crews.get? c, s.atCollective c with
  | some v, some xs => xs.filterMap fun x => (v.lanes.zipIdx.find? fun y => y.1 == x.1.idx).map fun y =>
      { lane := x.1, rank := y.2, c := x.2 }
  | _, _ => []

/-- COLLECTIVE_EXECUTE (R184): the participants' values are formed, they leave the park, and flags go to the crew. An LRDV
waits until its participants' accesses are performed (R188). -/
def stepCollective (c : CrewId) : Act := fun s =>
  let ps := s.parts c
  if !s.meets c || !ps.all (fun p => s.allPerformed p.c.after) then [] else
  let n := match s.crews.get? c with | some v => v.lanes.length | none => 0
  let lit := (ps.head?.map fun p => p.c.op.lit.toNat).getD 0
  Act.each ps (fun p =>
    let (ws, f) := collValue ps n lit p
    Act.all [
      updLane p.lane fun l => { l with
        parks := { l.parks with coll := none },
        results := l.results.map fun x => if some x.id = p.c.res then
          { x with vals := some (dest p.c.op.fx ws), readyAt := s.now + 1 } else x },
      setFlags p.lane f]) s

/-- RENDEZVOUS_MISMATCH (R185): the signatures differ, and every lane fault-parks at its collective in one KIND 3 record.
The lanes' results are discarded with their sources. (log 39, DEDUCED) -/
def stepMismatch (c : CrewId) : Act := fun s =>
  let ps := s.parts c
  if ps.isEmpty || s.meets c then [] else Act.all [
    Act.each ps fun p => updLane p.lane fun l => { l with
      pc := l.pc - 12, latch := none,
      parks := { l.parks with coll := none, wait := l.parks.wait.filter fun w => decide (w ≠ .results) },
      results := l.results.filter fun x => some x.id ≠ p.c.res },
    Act.read fun t => faultRecord 3 0 (ps.map fun p => ⟨p.lane, 0x0A, t.pcOf p.lane⟩)] s

/-- Issue of the collectives. A crew of one lane executes at issue (R184). -/
def issueColl (es : List Env) : Act := Act.all [
  retire es,
  Act.each es parkColl,
  Act.each es fun e => fun s =>
    let c := s.crewOf e.k
    match s.crews.get? c with
    | some v => if v.lanes.length = 1 then stepCollective c s else []
    | none => []]

end Sys2Proof.Machine
end

