-- ==== Sys2Proof/Machine/Tile.lean ====
section
/-! DEFINITION. Machine/Tile.lean: the arithmetic of accumulator tiles (R190 to R200), and what the matrix unit and the
engines need of memory. -/

namespace Sys2Proof.Machine

open Sys2Proof

/-! ### Rows -/

/-- Leading bits equal to bit [63], minus 1 (R190). -/
def rsb (x : DWord) : Nat := ((List.range 63).reverse.takeWhile fun i => x.getLsbD i == x.getLsbD 63).length
/-- H of a row. -/
def hOf (m : List DWord) : Nat := (m.map rsb).foldl min 63
/-- The residue of mantissas (R198). -/
def rhoOf (m : List DWord) : Nat := ((m.map BitVec.toInt).foldl (· + ·) 0 % 255).toNat
/-- Bits of a magnitude (R193). -/
def bitlen (n : Nat) : Nat := if n = 0 then 0 else Nat.log2 n + 1
/-- The exact quotient v / 2^x rounded to nearest, ties to even, signed (R193). -/
def rne (v : Int) (x : Nat) : Int :=
  let d : Int := (2 ^ x : Nat)
  let q := v / d
  let r := 2 * (v % d)
  if r > d ∨ (r = d ∧ q % 2 = 1) then q + 1 else q

/-- A row with new mantissas: H is recomputed. -/
def TRow.withM (r : TRow) (m : List DWord) : TRow := { r with m := m, h := hOf m }
/-- Has a row a residue mismatch or a parity error? An empty row passes (R198). -/
def TRow.fails (r : TRow) : Bool := !r.empty && (r.bad || r.rho != rhoOf r.m)

/-- A product (q, f), worth q · 2^f (R192). -/
abbrev Product := Int × Int

/-- An exact sum of products and a mantissa, as an integer multiple of 2^least: its sign (R196). -/
def sumSign (mant : Int) (e : Int) (ps : List Product) : Int :=
  let lo := (ps.map (·.2)).foldl min e
  let term (p : Product) : Int := p.1 * ((2 ^ (p.2 - lo).toNat : Nat) : Int)
  (term (mant, e) + (ps.map term).foldl (· + ·) 0).sign

/-- What a step does to a row: the row, its flags, whether an event is counted, whether a check failed. -/
structure RowStep where
  row : TRow
  flags : BitVec 7
  event : Bool
  bad : Bool
  deriving DecidableEq, Repr

/-- A product aligned to a row's exponent (R193): the addend, and whether bits were lost. -/
def align (e : Int) (p : Product) : Int × Bool :=
  if p.2 ≥ e then (p.1 * (2 ^ (p.2 - e).toNat : Nat), false)
  else
    let sh := min (e - p.2).toNat (bitlen p.1.natAbs + 1)
    let d : Int := (2 ^ sh : Nat)
    (p.1 / d, p.1 % d != 0)

/-- Add the products of a step to a row whose exponent has been settled (R193). -/
def TRow.add (r : TRow) (ps : List (List Product)) : TRow × BitVec 7 :=
  let al := ps.map fun p => p.map (align r.e)
  let sums := al.map fun a => (a.map (·.1)).foldl (· + ·) 0
  let m := (r.m.zip sums).map fun x => wrapTo 64 (x.1.toInt + x.2)
  let rho := (((r.rho : Int) + sums.foldl (· + ·) 0) % 255).toNat
  ({ r.withM m with rho := rho }, flagIf (al.any fun a => a.any (·.2)) fALT)

/-- A step of a row (R193 to R196): `ps` gives each element's products. -/
def TRow.step (r : TRow) (g : Nat) (ps : List (List Product)) : RowStep :=
  let ps := ps.map fun p => p.filter fun x => x.1 != 0
  let tops := ps.flatMap fun p => p.map fun x => x.2 + (bitlen x.1.natAbs : Int)
  match tops with
  | [] => { row := r, flags := 0, event := false, bad := false }
  | t :: ts =>
    let top := ts.foldl max t
    if r.empty then
      let base : TRow := { r with empty := false, e := top + g - 63, m := List.replicate 32 0, rho := 0 }
      let (row, f) := base.add ps
      { row := row, flags := f, event := false, bad := false }
    else
      let x := max (r.e + 63 - r.h) top + g - (r.e + 63)
      if x ≤ 0 then let (row, f) := r.add ps; { row := row, flags := f, event := false, bad := false }
      else if r.e + x > 32767 then
        let m := (r.m.zip ps).map fun y =>
          let sg := sumSign y.1.toInt r.e y.2
          if sg > 0 then wrapTo 64 ((2 ^ 62 : Nat) : Int) else if sg < 0 then wrapTo 64 (-((2 ^ 62 : Nat) : Int)) else (0 : DWord)
        { row := { r.withM m with e := 32767, rho := rhoOf m }, flags := fACO, event := true, bad := r.fails }
      else
        let m := r.m.map fun v => wrapTo 64 (rne v.toInt x.toNat)
        let (row, f) := ({ r.withM m with e := r.e + x, rho := rhoOf m }).add ps
        { row := row, flags := f, event := true, bad := r.fails }

/-- MREN.UP on a row (R197). -/
def TRow.raise (r : TRow) (g : Nat) : TRow :=
  if r.empty ∨ r.h ≤ g then r
  else
    let t := min ((r.h : Int) - g) (r.e + 32768)
    let m := r.m.map fun v => wrapTo 64 (v.toInt * (2 ^ t.toNat : Nat))
    { r.withM m with e := r.e - t, rho := rhoOf m }

/-- Bit `b` of M[j] inverted; ρ stays (R423). -/
def TRow.flip (r : TRow) (j b : Nat) : TRow :=
  if r.empty then r else r.withM (r.m.zipIdx.map fun x => if x.2 = j then x.1 ^^^ BitVec.ofNat 64 (2 ^ b) else x.1)

/-- A value converted by readout (R200): bits and flags; past the range it is the largest finite value with SAT. -/
def readout (t : Typ) (mode : Nat) (v : FV) : Nat × BitVec 7 :=
  if t.isInt then let (k, f) := toInt t mode v; ((k % (2 ^ t.width : Nat)).toNat, f)
  else match v with
    | .nan _ => (0, 0)
    | .inf neg => ((formOf t).maxFin neg, fSAT)
    | .fin neg m e =>
      let (b, f) := (formOf t).round mode neg m e false
      if m = 0 then (0, 0)
      else if f = 0 then (if b % 2 ^ (t.width - 1) = 0 then (0, 0) else (b, 0))
      else ((formOf t).maxFin neg, fSAT)

/-- The converted element of a row (R200). -/
def TRow.read (r : TRow) (j : Nat) (t : Typ) (mode : Nat) : Nat × BitVec 7 :=
  let v : Int := if r.empty then 0 else (r.m.getD j 0).toInt
  readout t mode (.fin (v < 0) v.natAbs r.e)

/-- The value of a converted element, for the bound check (R421). -/
def elemFV (t : Typ) (b : Nat) : FV := if t.isInt then FV.ofInt (t.value b) else (formOf t).decode b

/-! ### Operand elements (R109, R192, R216) -/

/-- An element as (q, f), and whether it sets INV. -/
def operand (p : Typ) (b scale : Nat) : Product × Bool :=
  let sc : Int := (scale : Int) - 127
  if p.scaled && scale == 255 then ((0, 0), true)
  else match p with
  | .ds8 => ((ds8Weight (b % 256), sc), false)
  | .s8 | .n8 => ((p.value b, 0), false)
  | _ =>
    let f := formOf p
    match f.decode (b % 2 ^ p.width) with
    | .nan _ => ((0, 0), true)
    | .inf neg => ((if neg then -(f.kmax : Int) else f.kmax, f.qmax), true)
    | .fin neg m e => ((if neg then -(m : Int) else m, e + (if p == .mx4 then sc else 0)), false)

/-- k_F and g of a format pair (R191); none for a pair that is refused. -/
def pairOf (a b : Typ) : Option (Nat × Nat) :=
  let fp8 (t : Typ) : Bool := t == .e4m3 || t == .e5m2
  let i8 (t : Typ) : Bool := t == .s8 || t == .n8
  let both (x y : Typ) : Bool := (a == x && b == y) || (a == y && b == x)
  if both .bf16 .bf16 || both .f16 .f16 then some (8, 4)
  else if (fp8 a && fp8 b) || (i8 a && i8 b) || both .ds8 .bf16 then some (16, 5)
  else if both .mx4 .mx4 || both .ds8 .e4m3 then some (64, 7)
  else none

/-- Byte offset of element number `n` of a row, and its nibble. -/
def elemOff (p : Typ) (n : Nat) : Nat × Bool := if p == .mx4 then (n / 2, n % 2 == 1) else (n * elemSize p, false)

/-! ### Memory as the matrix unit and the engines use it -/

/-- An address plus an integer. -/
def plus (a : DWord) (d : Int) : DWord := BitVec.ofInt 64 (a.toNat + d)

/-- Has a line request of a command brought the line of a place, so that its bytes are there (R261, R262)? Scratchpad is read directly. -/
def State.arrived (s : State) (got : Fetched) (l : Loc) : Bool := l.scratch.isSome || match got.get? (lineOf l.key) with
  | some x => decide (x.2 ≤ s.now)
  | none => false

/-- The bytes from a place on as a command has them. -/
def State.gotBytes (s : State) (got : Fetched) (l : Loc) (n : Nat) : List Byte :=
  if l.scratch.isSome then s.bytes l.key n
  else (List.range n).map fun i => match got.get? (lineOf (l.key + i)) with
    | some x => (x.1[(l.key + i) % 128]?).getD 0
    | none => 0

/-- The home agent and the line of a request of a unit, with what the slice keeps of it. -/
structure UnitLine where
  line : Nat
  home : Home
  cache : Bool
  va : DWord
  deriving DecidableEq, Repr

/-- The lines of places that lie outside the scratchpads, each once. -/
def unitLines (ls : List (Loc × DWord)) : List UnitLine :=
  let xs := (ls.filter fun l => l.1.scratch.isNone).map fun l => { line := lineOf l.1.key, home := l.1.home, cache := l.1.cache, va := l.2 : UnitLine }
  ((xs.map fun x => (x.line, x.home)).dedup).filterMap fun k => xs.find? fun x => decide ((x.line, x.home) = k)

/-- An access of a unit for a lane. -/
def unitAccess (k : LaneId) (pc va : DWord) (key n : Nat) (ch : BitVec 2) (op : AccOp) : Access :=
  { lane := k, slot := 0, pc := pc, seq := 0, va := va, key := key, size := n, ch := ch, op := op }

/-- Is a line request of a command under way? -/
def State.unitAsks (s : State) (u : UnitRef) (line : Nat) : Bool := s.reqs.any fun r =>
  r.line == line && !r.done && r.acc.any fun a => decide (a.op = .unitRead u)

/-- The lines of places that have neither arrived nor been asked for. -/
def State.unasked (s : State) (u : UnitRef) (got : Fetched) (ls : List (Loc × DWord)) : List UnitLine :=
  (unitLines (ls.filter fun l => (got.get? (lineOf l.1.key)).isNone)).filter fun x => !s.unitAsks u x.line

/-- A unit asks for lines (R261, R328). -/
def askLines (u : UnitRef) (cl : Nat) (k : LaneId) (pc : DWord) (ch : BitVec 2) (xs : List UnitLine) : Act := fun s =>
  Act.each xs (fun x => sendReq (s.ctxOf k) cl x.line x.home x.cache [] [unitAccess k pc x.va (x.line * 128) 128 ch (.unitRead u)]) s

/-- A store of a readout or an engine: where, its virtual address, and the bytes, which lie in one line. -/
structure Put where
  at_ : Loc
  va : DWord
  bytes : List Byte
  deriving DecidableEq, Repr

/-- The keys of the bytes of a store. -/
def Put.keys (w : Put) : List Nat := (List.range w.bytes.length).map (w.at_.key + ·)

/-- The byte that stores leave at a key: the last one's. -/
def putAt (ws : List Put) (key : Nat) : Option Byte := (ws.reverse.find? fun w => w.keys.contains key).bind fun w => w.bytes[key - w.at_.key]?

/-- Maximal runs of bytes: keys from `key` on, each with its byte or none. -/
def runsOf : Nat → List (Option Byte) → List (Nat × List Byte)
  | _, [] => []
  | key, none :: r => runsOf (key + 1) r
  | key, some b :: r => match runsOf (key + 1) r with
    | (k, bs) :: more => if k = key + 1 then (key, b :: bs) :: more else (key, [b]) :: (k, bs) :: more
    | [] => [(key, [b])]

/-- Stores of a readout or an engine for a lane (R224, R288): those to scratchpad are performed at once, the others are sent to their
home agents, one request for each line, after those of `after`. Bytes at keys of `skip` are not stored. -/
def storeUnit (u : UnitRef) (cl : Nat) (k : LaneId) (pc : DWord) (ch : BitVec 2) (skip after : List Nat) (ws : List Put) : Act := fun s =>
  let far := ws.filter fun w => w.at_.scratch.isNone
  Act.all [
    Act.each (ws.filter fun w => w.at_.scratch.isSome) fun w => Act.each w.bytes.zipIdx fun b =>
      Act.when (!skip.contains (w.at_.key + b.2)) (storeBytes (w.at_.key + b.2) [b.1]),
    Act.each (unitLines (far.map fun w => (w.at_, w.va))) fun x =>
      let runs := runsOf (x.line * 128) ((List.range 128).map fun i =>
        if skip.contains (x.line * 128 + i) then none else putAt far (x.line * 128 + i))
      Act.when (!runs.isEmpty) (sendReq (s.ctxOf k) cl x.line x.home x.cache after
        (runs.map fun r => unitAccess k pc x.va r.1 r.2.length ch (.unitWrite u r.2)))] s

/-- Has every request of a command been performed? -/
def State.unitDone (s : State) (u : UnitRef) : Bool := !s.reqs.any fun r => !r.done && r.acc.any fun a => a.op.unit == some u

/-- Does the arbiter remove the present cycle of a cluster (R22, R435)? `cut` cycles of every 64 are removed. (log 24, DEDUCED) -/
def cycleCut (cut cl t : Nat) : Bool :=
  decide (0 < cut) && decide (((List.range 64).filter fun i =>
    let u := t / 64 * 64 + i
    decide (Config.cutKey cl u < Config.cutKey cl t) || (Config.cutKey cl u == Config.cutKey cl t && decide (u < t))).length < cut)
/-- Does it in a state? -/
def State.cutNow (s : State) (cl : Nat) : Bool := cycleCut (s.cluster cl).cut cl s.now

/-- The cause of highest priority among the failures found, the first of its kind (R235). (log 39, DEDUCED) -/
def firstCause (fs : List (Nat × DWord)) : Option (Nat × DWord) :=
  fs.foldl (fun a f => match a with
    | none => some f
    | some x => if f.1 < x.1 then some f else some x) none

/-- A tile with every row empty (R203). -/
def Tile.empty (t : Tile) : Tile := { t with rows := List.replicate 32 TRow.none, prog := 0, lastG := Option.none }

end Sys2Proof.Machine
end

