-- ==== Sys2Proof/Machine/Matrix.lean ====
section
/-! DEFINITION. Machine/Matrix.lean: tile ownership, the saddle, the matrix queue, loops, readout, binding and discard
(R203 to R230), and ERRINJ (R423). -/

namespace Sys2Proof.Machine

open Sys2Proof

/-! ### Tiles and their checks (R208) -/

/-- The tile that an operand names. -/
def tileNo : Opnd → Nat
  | .m n => n.val
  | _ => 0

/-- The core of a lane. -/
def Env.core (e : Env) : Core := e.s.core (e.s.coreOf e.k)
/-- The tile of a lane's core that an operand names. -/
def Env.tile (e : Env) (o : Opnd) : Tile := e.core.tile (tileNo o)
/-- Is the tile owned by the workgroup and not freeing? -/
def Tile.ownedBy (t : Tile) (wg : Nat) : Bool := t.owner == some wg && !t.freeing
/-- Check 2. -/
def Env.ownStop (e : Env) (o : Opnd) : Option Stop := entryStop (!(e.tile o).ownedBy e.k.wg) e 0x10
/-- Check 3. -/
def Env.saddleStop (e : Env) : Option Stop := entryStop (e.core.saddle != some (e.s.crewOf e.k)) e 0x11

/-- Change the matrix queue of a core. -/
def updMq (core : Nat) (f : List MCmd → List MCmd) : Act := updCore core fun c => { c with mq := f c.mq }
/-- A command has finished and leaves the queue. -/
def dropCmd (core id : Nat) : Act := updMq core fun q => q.filter fun m => m.id != id
/-- The command that a tile has reached: the first accepted one (R201). -/
def Core.head? (c : Core) (tile : Nat) : Option MCmd := c.mq.find? fun m => m.accepted && m.tile == tile
/-- The accepted, unfinished commands on a tile, MSTAT's reads aside. -/
def Core.cmdsOn (c : Core) (tile : Nat) : List MCmd := c.mq.filter fun m => m.queued && m.tile == tile

/-! ### Binding (R228) -/

/-- Set or clear a tile's TILES bit in the region at a depth of a lane. -/
def regionTile (k : LaneId) (depth tile : Nat) (on : Bool) : Act := updLane k fun l => { l with
  regions := l.regions.zipIdx.map fun r =>
    if l.regions.length - r.2 = depth then
      { r.1 with tiles := (r.1.tiles &&& ~~~ BitVec.ofNat 16 (2 ^ tile)) ||| (if on then BitVec.ofNat 16 (2 ^ tile) else 0) }
    else r.1 }

/-- A tile becomes unbound. (log 11, DEDUCED) -/
def unbindTile (core tile : Nat) : Act := fun s =>
  match ((s.core core).tile tile).bound with
  | some (k, d) => Act.all [updTile core tile fun t => { t with bound := none }, regionTile k d tile false] s
  | none => []

/-- MBIND (R228). -/
def issueMbind (es : List Env) : Act := fun s =>
  split es (fun e => firstStop [e.ownStop e.op.fx, entryStop (e.mn == 0 && e.l.regions.isEmpty) e 0x13]) (fun ok => Act.all [
    Act.each (s.ordered ok) fun e => Act.all [
      unbindTile (e.s.coreOf e.k) (tileNo e.op.fx),
      Act.when (e.mn == 0) (Act.all [
        updTile (e.s.coreOf e.k) (tileNo e.op.fx) fun t => { t with bound := some (e.k, e.l.regions.length) },
        regionTile e.k e.l.regions.length (tileNo e.op.fx) true])],
    retire ok]) s

/-! ### MALLOC (R211) -/

/-- The tiles of a core that a workgroup owns and that are not freeing. -/
def Core.owned (c : Core) (wg : Nat) : List Nat := (List.range 16).filter fun i => (c.tile i).ownedBy wg

/-- MALLOC by one lane. -/
def mallocOne (e : Env) : Act := fun s =>
  let core := s.coreOf e.k
  let c := s.core core
  let n := tileNo e.op.fy
  let t := c.tile n
  let limit := match s.wgs.get? e.k.wg with | some w => w.desc.tiles | none => 0
  let take := !t.freeing && t.owner.isNone && decide ((c.owned e.k.wg).length < limit)
  Act.all [
    Act.when take (updTile core n fun _ => { Tile.none with owner := some e.k.wg }),
    resultNow [(e, (destBool e.op.fx (t.ownedBy e.k.wg || take), 0))]] s

/-- MALLOC. -/
def issueMalloc (es : List Env) : Act := fun s => Act.all [Act.each (s.ordered es) mallocOne, retire es] s

/-! ### The saddle (R204 to R206) -/

/-- The saddle goes to a crew, or is free; the lanes of the crew leave their MSADL park. (log 35, DEDUCED) -/
def setSaddle (core : Nat) (c : Option CrewId) : Act := Act.all [
  updCore core fun v => { v with saddle := c, requests := v.requests.filter fun r => some r ≠ c },
  Act.opt c fun c => fun s => match s.crews.get? c with
    | some v => Act.each v.lanes (fun i => updParks ⟨c.wg, i⟩ fun p => { p with acq := p.acq.filter fun a => a != .saddle }) s
    | none => []]

/-- A free saddle goes to the oldest request. -/
def grantSaddle (core : Nat) : Act := fun s =>
  let c := s.core core
  match c.saddle, c.requests with
  | none, r :: _ => setSaddle core (some r) s
  | _, _ => []

/-- The saddle passes: to the oldest request of the holder's workgroup, else to the oldest request. The crew of a workgroup that has been
parked then has a request ahead of all (R206). (log 41, DEDUCED) -/
def passSaddle (core : Nat) : Act := fun s =>
  let c := s.core core
  match c.saddle with
  | none => []
  | some h => Act.all [
      updCore core fun v => { v with passing := none, requeue := false },
      setSaddle core ((c.requests.find? fun r => r.wg == h.wg) <|> c.requests.head?),
      Act.when (c.requeue && !(s.crewLive h).isEmpty) (Act.all [
        updCore core fun v => { v with requests := h :: v.requests.filter fun r => decide (r ≠ h) },
        grantSaddle core])] s

/-- A pass that waits takes effect when the commands before it have been accepted; the saddle of a crew whose lanes have
all exited passes; a free saddle is granted. -/
def serveSaddle (core : Nat) : Act := Act.all [
  fun s =>
    let c := s.core core
    match c.passing with
    | some ids => if c.mq.all (fun m => m.accepted || !ids.contains m.id) then passSaddle core s else []
    | none => [],
  fun s =>
    match (s.core core).saddle with
    | some h => if (s.crewLive h).isEmpty then passSaddle core s else []
    | none => [],
  updCore core fun c => { c with passing := if c.saddle.isNone then none else c.passing, requeue := c.requeue && c.saddle.isSome },
  grantSaddle core]

/-- MSADL (R205). -/
def issueMsadl (es : List Env) : Act := fun s => Act.all [
  retire es,
  Act.each (s.ordered es) fun e => fun t =>
    let core := t.coreOf e.k
    let c := t.core core
    let w := t.crewOf e.k
    if c.saddle = some w then []
    else Act.all [
      updCore core fun v => { v with requests := if v.requests.contains w then v.requests else v.requests ++ [w] },
      updParks e.k fun p => { p with acq := p.acq ++ [.saddle] }] t,
  Act.each ((es.map fun e => s.coreOf e.k).dedup) grantSaddle] s

/-- The commands of a crew that have not been accepted: a pass of its saddle waits for them (R205, R206). -/
def Core.unaccepted (c : Core) (w : CrewId) : List Nat := (c.mq.filter fun m => !m.accepted && m.crew == w).map (·.id)

/-- MPASS (R205): the pass waits for the crew's commands that have not been accepted. -/
def issueMpass (es : List Env) : Act :=
  split es (fun e => e.saddleStop) fun ok => Act.all [
    retire ok,
    Act.each ok fun e => fun s =>
      let core := s.coreOf e.k
      let c := s.core core
      if c.saddle ≠ some (s.crewOf e.k) ∨ c.passing.isSome then []
      else updCore core (fun v => { v with passing := some (c.unaccepted (s.crewOf e.k)) }) s,
    Act.each (ok.take 1) fun e => fun s => serveSaddle (s.coreOf e.k) s]

/-! ### Submission and acceptance (R207) -/

/-- What the acceptance of a command does at once: an MFREE ends ownership (R212), a loop takes an arming (R423). -/
def onAccept (core : Nat) (m : MCmd) : Act :=
  match m.kind with
  | .free => Act.all [unbindTile core m.tile, updTile core m.tile fun t => { t with freeing := true }]
  | .loop _ => updTile core m.tile fun t => { t with
      arm := t.arm.map fun a => if a.cmd = none then { a with cmd := some m.id } else a }
  | _ => Act.skip

/-- Commands that hold a place of the 32. -/
def Core.load (c : Core) : Nat := (c.mq.filter (·.queued)).length

/-- Submit a command: it is accepted at once when the queue has room and none waits; else the lane queue-parks. The
command's reads and stores come after every earlier access of the lane, and dirty bytes are written back (R221, R224). -/
def submit (e : Env) (kind : MKind) (mem : Bool) : Act := Act.all [
  Act.when mem (sendWbacks e.cl),
  Act.fresh fun n => Act.read fun s =>
    let core := s.coreOf e.k
    let c := s.core core
    let now := decide (c.load < 32) && c.mq.all (·.accepted)
    let m : MCmd :=
      { id := n, lane := e.k, crew := s.crewOf e.k, pc := e.l.pc, seq := e.l.seq, ch := e.op.ch, tile := tileNo e.op.fx,
        kind := kind, after := if mem then s.fenceSet e.k 6 else [], accepted := now, queued := now, prog := 0, begun := false,
        stopped := none, dropped := false, arr := n }
    Act.all [updMq core fun q => q ++ [m],
      if now then onAccept core m else updParks e.k fun p => { p with queue := some (.matrix n) }]]

/-- MATRIX_COMMAND_ACCEPT (R207): the first waiting command is accepted when there is room; its lane resumes and a
pending pass may take effect. -/
def stepMatrixAccept (core : Nat) : Act := fun s =>
  let c := s.core core
  match c.mq.find? fun m => !m.accepted with
  | none => []
  | some m =>
    if 32 ≤ c.load then [] else Act.all [
      Act.fresh fun n => updMq core fun q => q.map fun x => if x.id = m.id then { x with accepted := true, queued := true, arr := n } else x,
      updParks m.lane fun p => { p with queue := if p.queue = some (.matrix m.id) then none else p.queue },
      onAccept core m,
      serveSaddle core] s

/-- A tile command without memory operands. -/
def issueTileCmd (kind : MKind) (es : List Env) : Act := fun s =>
  split es (fun e => firstStop [e.ownStop e.op.fx, e.saddleStop]) (fun ok => Act.all [
    countAccess ok, retire ok, Act.each (s.ordered ok) fun e => submit e kind false]) s

/-- MFREE (R212). -/
def issueMfree : List Env → Act := issueTileCmd .free
/-- MZERO (R213). -/
def issueMzero : List Env → Act := issueTileCmd .zero
/-- MREN.UP (R214). -/
def issueMren : List Env → Act := issueTileCmd .ren

/-! ### Loops (R215 to R222) -/

/-- Where an address leads for a lane. -/
def State.at (s : State) (k : LaneId) (va : DWord) : Option Loc := s.locate (s.ctxOf k) (s.gangOf k) va

/-- The place of an address for a command issued before the number `mark`: a window that was there at its issue stays with it after the
exit of the window's workgroup (R229, R233, R332). -/
def State.placeFor (s : State) (k : LaneId) (mark : Nat) (va : DWord) : Option Loc :=
  if inWindow va then (s.windowIf (s.gangOf k) va fun w => !w.exited || (decide (mark < w.exitMark) && !w.freed)).map fun x =>
    s.scratchLoc (s.gangOf k) x.1 x.2
  else s.at k va

/-- The loop that a lane's MLOOP or MLOOPS submits. -/
def Env.loop (e : Env) : Loop :=
  let w (i : Nat) : Word := ((e.group e.op.fy 8)[i]?).getD 0
  let a := w 1 ++ w 0
  let b := w 3 ++ w 2
  let fz := e.src64 .n64 e.op.fz
  let fmt (x : DWord) : Typ := match e.s.at e.k x with | some l => l.typ | none => .b32
  { a := a, b := b, aStride := (w 4).toInt, bStride := (w 5).toInt, aInc := (w 6).toInt, bInc := (w 7).toInt,
    ks := e.op.l 11 0,
    gate := if e.op.maj == .mloop && e.op.fz != .z then
      some (scratchKey e.k.wg (fz.toNat % 2 ^ 32), (fz >>> 32).setWidth 16) else none,
    sparse := if e.op.maj == .mloops then some (e.mn, fz) else none,
    fa := fmt a, fb := fmt b }

/-- k_F of a loop's pair; 1 where the pair is refused. -/
def Loop.kf (l : Loop) : Nat := match pairOf l.fa l.fb with | some (k, _) => k | none => 1
/-- g of a loop's pair. -/
def Loop.g (l : Loop) : Nat := match pairOf l.fa l.fb with | some (_, g) => g | none => 7
/-- Rows of B that a step covers (R222). -/
def Loop.bRows (l : Loop) : Nat := match l.sparse with
  | none => l.kf
  | some (0, _) => 2 * l.kf
  | some (_, _) => 4 * l.kf

/-- Address and nibble of A's element (R216). -/
def Loop.aElem (l : Loop) (st i kk : Nat) : DWord × Bool :=
  let (o, h) := elemOff l.fa kk
  (plus l.a (st * l.aInc + i * l.aStride + o), h)
/-- Address and nibble of B's element (R216). -/
def Loop.bElem (l : Loop) (st r j : Nat) : DWord × Bool :=
  let (o, h) := elemOff l.fb j
  (plus l.b (st * l.bInc + r * l.bStride + o), h)
/-- Address of the metadata of a row of a step (R222). (log 39, DEDUCED) -/
def Loop.metaAt (l : Loop) (d : DWord) (st i : Nat) : DWord := plus d (((st * 32 + i) * (l.kf / 4) : Nat) : Int)

/-- The byte past the canonical range that a strided operand reaches: rows of `n` bytes (R217). -/
def rangeBad (base : DWord) (ks : Nat) (inc : Int) (rows : Nat) (stride : Int) (n : Nat) : Option (Nat × DWord) :=
  let k : Int := (ks : Int) - 1
  let r : Int := (rows : Int) - 1
  let lo := (base.toNat : Int) + min 0 (k * inc) + min 0 (r * stride)
  let hi := (base.toNat : Int) + max 0 (k * inc) + max 0 (r * stride) + n - 1
  if lo < 0 ∨ lo ≥ (2 ^ 56 : Nat) then some (0x02, BitVec.ofInt 64 lo)
  else if hi ≥ (2 ^ 56 : Nat) then some (0x02, BitVec.ofInt 64 hi) else none

/-- The window address of an offset in a workgroup's scratchpad (R233). -/
def State.ownWindow (s : State) (wg off : Nat) : DWord :=
  BitVec.ofNat 64 (0xFFFF0000000000 + (match s.wgs.get? wg with | some w => w.idx | none => 0) * 2 ^ 22 + off % 2 ^ 22)

/-- Bytes of `n` elements of a row. -/
def rowBytes (p : Typ) (n : Nat) : Nat := if p == .mx4 then n / 2 else n * elemSize p

/-- The checks of R217 and R222 at issue. -/
def Env.loopProbe (e : Env) : Option (Nat × DWord) :=
  let l := e.loop
  let s := e.s
  let page (x : DWord) : Option Loc := if canonical x then s.at e.k x else none
  let size (p : Typ) : Int := if p == .mx4 then 1 else elemSize p
  let mis (x : DWord) (stride inc : Int) : List (Nat × DWord) :=
    match page x with
    | some c => if (x.toNat : Int) % size c.typ ≠ 0 ∨ stride % size c.typ ≠ 0 ∨ inc % size c.typ ≠ 0 then [(0x01, x)] else []
    | none => []
  let first (x : DWord) : List (Nat × DWord) :=
    if !canonical x then [(0x02, x)]
    else match s.at e.k x with
      | none => [(0x03, x)]
      | some c => if c.rd then [] else [(0x04, x)]
  let metaChecks : List (Nat × DWord) := match l.sparse with
    | some (_, d) => (rangeBad d 1 0 1 0 (l.ks * 32 * (l.kf / 4))).toList ++ first d
    | none => []
  let gate : List (Nat × DWord) := match l.gate with
    | some (key, _) =>
      let off := (e.src64 .n64 e.op.fz).toNat % 2 ^ 32
      let size := match s.wgs.get? e.k.wg with | some w => w.desc.scratch | none => 0
      if off % 16 ≠ 0 ∨ size ≤ off then [(0x05, s.ownWindow e.k.wg off)]
      else if s.weirActive key then [] else [(0x06, s.ownWindow e.k.wg off)]
    | none => []
  firstCause (mis l.a l.aStride l.aInc ++ mis l.b l.bStride l.bInc ++
    (rangeBad l.a l.ks l.aInc 32 l.aStride (rowBytes l.fa l.kf)).toList ++
    (rangeBad l.b l.ks l.bInc l.bRows l.bStride (rowBytes l.fb 32)).toList ++ first l.a ++ first l.b ++ metaChecks ++
    (if (pairOf l.fa l.fb).isNone then [(0x05, l.a)] else []) ++ gate)

/-- MLOOP and MLOOPS (R217, R218). -/
def issueLoop (es : List Env) : Act := fun s =>
  split es (fun e => firstStop [e.ownStop e.op.fx, e.saddleStop, probeStop e.loopProbe]) (fun ok => Act.all [
    countAccess ok, retire ok, Act.each (s.ordered ok) fun e => submit e (.loop e.loop) true]) s

/-- MLOOP. -/
def issueMloop (es : List Env) : Act := issueLoop es
/-- MLOOPS. -/
def issueMloops (es : List Env) : Act := issueLoop es

/-- An element as a step finds it: the locations that it reads, or why it cannot be read (R220). -/
def State.readable (s : State) (k : LaneId) (mark : Nat) (want : Option Typ) (x : DWord) : Except (Nat × DWord) (List Loc) :=
  match s.placeFor k mark x with
  | none => .error (0x03, x)
  | some l =>
    if !l.rd then .error (0x04, x)
    else if want.isSome && want != some l.typ then .error (0x05, x)
    else if want.isSome && l.typ.scaled then
      let sa := scaleAddr l.typ l.soff x
      if !canonical sa then .error (0x02, sa)
      else match s.placeFor k mark sa with
        | none => .error (0x03, sa)
        | some c => if c.rd then .ok [l, c] else .error (0x04, sa)
    else .ok [l]

/-- The operand value of an element at locations found. (log 18, DEDUCED) -/
def State.elem (s : State) (got : Fetched) (p : Typ) (hi : Bool) (ls : List Loc) : Product × Bool :=
  match ls with
  | [] => ((0, 0), false)
  | l :: rest =>
    let raw := natLE (s.gotBytes got l (elemSize p))
    let v := if p == .mx4 then (if hi then raw / 16 else raw % 16) else raw
    operand p v (match rest with | c :: _ => natLE (s.gotBytes got c 1) | [] => 0)

/-- The row of B for stored element kk of a row with metadata bits (R222). -/
def sparseRow (pat : Nat) (m kk : Nat) : Nat :=
  let t := m / 4 ^ kk % 4
  if pat = 0 then 4 * (kk / 2) + t else 4 * kk + t

/-- What a step reads: for each row of the tile the rows of B, the places of A's elements, and of the B rows used. -/
structure StepReads where
  rowsOf : List (List Nat)
  a : List (List (DWord × Bool))
  b : Map Nat (List (DWord × Bool))
  extra : List DWord

/-- The reads of the next step of a loop, as far as the metadata that has arrived tells them. -/
def Loop.reads (l : Loop) (s : State) (m : MCmd) : StepReads :=
  let st := m.prog
  let ks := List.range l.kf
  let rowsOf := (List.range 32).map fun i => match l.sparse with
    | none => ks
    | some (pat, d) =>
      let n := l.kf / 4
      let x := l.metaAt d st i
      let v := natLE ((List.range n).map fun (b : Nat) => match s.placeFor m.lane m.id (plus x b) with
        | some c => (s.gotBytes m.got c 1).headD 0
        | none => 0)
      ks.map (sparseRow pat v)
  { rowsOf := rowsOf,
    a := (List.range 32).map fun i => ks.map fun kk => l.aElem st i kk,
    b := (rowsOf.flatten.dedup).map fun r => (r, (List.range 32).map fun j => l.bElem st r j),
    extra := match l.sparse with
      | none => []
      | some (_, d) => (List.range 32).flatMap fun i => (List.range (l.kf / 4)).map fun (b : Nat) => plus (l.metaAt d st i) b }

/-- Every place that a step reads, with the page format that it must have. -/
def StepReads.all (r : StepReads) (l : Loop) : List (Option Typ × DWord) :=
  (r.extra.map fun x => (none, x)) ++ (r.a.flatten.map fun x => (some l.fa, x.1)) ++
    ((r.b.map (·.2)).flatten.map fun x => (some l.fb, x.1))

/-- Has a loop's gate opened (R219)? -/
def State.gateOpen (s : State) (g : Option (Nat × Half)) : Bool :=
  match g with
  | none => true
  | some (key, gen) => (s.weir key).gen != gen.toNat

/-- The locations of places found. -/
def okLocs {ε : Type} (xs : List (Except ε (List Loc))) : List Loc :=
  xs.flatMap fun x => match x with | .ok ls => ls | .error _ => []
/-- The failures among places. (log 39, DEDUCED) -/
def failures (xs : List (Except (Nat × DWord) (List Loc))) : List (Nat × DWord) :=
  xs.filterMap fun x => match x with | .error f => some f | .ok _ => none

/-- May a tile's head, a loop, go on: not stopped, its earlier accesses performed, its gate open? -/
def State.loopReady (s : State) (m : MCmd) : Bool :=
  match m.kind with
  | .loop l => m.stopped.isNone && s.allPerformed m.after && (m.begun || s.gateOpen l.gate)
  | _ => false

/-- Places found, each with the address of its element. -/
def okPlaces {ε : Type} (xs : List (DWord × Except ε (List Loc))) : List (Loc × DWord) :=
  xs.flatMap fun x => match x.2 with | .ok ls => ls.map fun l => (l, x.1) | .error _ => []

/-- The places of the metadata of the next step of a loop, or why they cannot be read. -/
def Loop.meta (l : Loop) (s : State) (m : MCmd) : List (DWord × Except (Nat × DWord) (List Loc)) :=
  (l.reads s m).extra.map fun x => (x, s.readable m.lane m.id none x)

/-- The places of metadata whose lines have yet to arrive. -/
def Loop.metaLacks (l : Loop) (s : State) (m : MCmd) : List (Loc × DWord) := (okPlaces (l.meta s m)).filter fun c => !s.arrived m.got c.1

/-- The places that the next step of a loop reads, or why it cannot: those of the metadata alone until they name the rows of B (R222).
(log 39, DEDUCED) -/
def Loop.found (l : Loop) (s : State) (m : MCmd) : List (DWord × Except (Nat × DWord) (List Loc)) :=
  if (failures ((l.meta s m).map (·.2))).isEmpty && (l.metaLacks s m).isEmpty then
    ((l.reads s m).all l).map fun x => (x.2, s.readable m.lane m.id x.1 x.2)
  else l.meta s m

/-- Why the next step of a loop cannot be taken, if it cannot. -/
def Loop.fault (l : Loop) (s : State) (m : MCmd) : Option (Nat × DWord) := firstCause (failures ((l.found s m).map (·.2)))

/-- The places whose lines have yet to arrive: of the metadata first, then of the elements that it names. -/
def Loop.lacks (l : Loop) (s : State) (m : MCmd) : List (Loc × DWord) := (okPlaces (l.found s m)).filter fun c => !s.arrived m.got c.1

/-- Is the next step of a loop ready to be taken: its operands have arrived? -/
def State.stepReady (s : State) (m : MCmd) : Bool := s.loopReady m && match m.kind with
  | .loop l => (l.lacks s m).isEmpty && (l.fault s m).isNone
  | _ => false

/-- The error source of rows whose check fails: parity 3, residue 4 (R402). -/
def errSource (rows : List TRow) : Nat := if rows.any (fun r => r.fails && r.bad) then 3 else 4

/-- A step's effect on a tile: products, flags, events, and the rows whose residue check failed. -/
def tileStep (s : State) (t : Tile) (m : MCmd) (l : Loop) (r : StepReads) : Tile × BitVec 7 × List TRow :=
  let val (p : Typ) (x : DWord × Bool) : Product × Bool :=
    s.elem m.got p x.2 (match s.readable m.lane m.id (some p) x.1 with | .ok ls => ls | .error _ => [])
  let av := r.a.map fun row => row.map (val l.fa)
  let bv := r.b.map fun row => (row.1, row.2.map (val l.fb))
  let inv := av.any (fun row => row.any (·.2)) || bv.any fun row => row.2.any (·.2)
  let res := t.rows.zipIdx.map fun row =>
    let bRows := ((r.rowsOf[row.2]?).getD []).map fun n => Map.getD bv n []
    let aRow := (av[row.2]?).getD []
    row.1.step l.g ((List.range 32).map fun j => (aRow.zip bRows).map fun x =>
      let b := ((x.2[j]?).getD ((0, 0), false)).1
      (x.1.1.1 * b.1, x.1.1.2 + b.2))
  ({ t with
      rows := res.map (·.row), evt := t.evt + BitVec.ofNat 32 (res.filter (·.event)).length, prog := m.prog + 1,
      lastG := some l.g },
    (res.map (·.flags)).foldl (· ||| ·) (flagIf inv fINV),
    (t.rows.zip res).filterMap fun x => if x.2.bad then some x.1 else none)

/-- Change a command of a matrix unit. -/
def updMCmd (core id : Nat) (f : MCmd → MCmd) : Act := updMq core fun q => q.map fun x => if x.id = id then f x else x

/-- MATRIX_K_STEP (R193, R207, R218): the loop that a tile has reached asks for the operand lines of its next step, takes the step once
they have arrived, or is stopped by a fault (R220); the checks at its end are those of R198. A core takes one step a cycle (R12), of
the ready loop accepted first. (log 54, DEDUCED) -/
def stepKStep (core tile : Nat) : Act := fun s =>
  let c := s.core core
  match c.head? tile with
  | none => []
  | some m =>
    match m.kind with
    | .loop l =>
      if !s.loopReady m then [] else
      let r := l.reads s m
      match l.fault s m with
      | some (cause, addr) => Act.all [
          updMCmd core m.id fun x => { x with begun := true },
          unitFault 4 core m.id (m.prog + tile * 2 ^ 16) m.lane m.pc cause addr fun n => updMCmd core m.id fun x => { x with stopped := some n }] s
      | none =>
        let lacks := l.lacks s m
        let earlier := (c.mq.takeWhile fun x => x.id != m.id).any fun x => x.accepted && c.head? x.tile == some x && s.stepReady x
        if !lacks.isEmpty then
          askLines (.matrix core m.id) (core / 4) m.lane m.pc m.ch (s.unasked (.matrix core m.id) m.got lacks) s
        else if earlier || c.stepAt == some s.now || s.cutNow (core / 4) then []
        else
        let (t1, fl, bad) := tileStep s (c.tile tile) m l r
        let hit := match t1.arm with | some a => a.cmd == some m.id && a.step == m.prog | none => false
        let t2 := match hit, t1.arm with
          | true, some a => { t1 with
              arm := none, rows := t1.rows.zipIdx.map fun x => if x.2 = a.row then x.1.flip a.col a.bit else x.1 }
          | _, _ => t1
        let last := decide (l.ks ≤ m.prog + 1)
        let t3 : Tile := if last then
            { t2 with prog := 0, arm := t2.arm.filter fun a => a.cmd != some m.id } else t2
        let fails := bad ++ (if last then t2.rows.filter (·.fails) else [])
        Act.all [
          updTile core tile fun _ => t3,
          updCore core fun c => { c with stepAt := some s.now },
          setFlags m.lane fl,
          Act.when (!fails.isEmpty) (takeError m.lane (errSource fails) tile (s.unitPc m.lane m.pc)),
          if last then dropCmd core m.id
          else updMCmd core m.id fun x => { x with begun := true, prog := m.prog + 1, got := [] }] s
    | _ => []

/-! ### MZERO, MREN and MFREE when they are reached -/

/-- TILE_COMMAND_REACHED (R201, R212 to R214). (log 39, DEDUCED) -/
def stepTileReached (core tile : Nat) : Act := fun s =>
  let c := s.core core
  match c.head? tile with
  | none => []
  | some m =>
    match m.kind with
    | .zero => Act.all [
        updTile core tile fun t => { t.empty with evt := 0, arm := none },
        dropCmd core m.id] s
    | .ren =>
      let t := c.tile tile
      let bad := t.rows.filter (·.fails)
      Act.all [
        updTile core tile fun t => { t with rows := t.rows.map fun r => r.raise (t.lastG.getD 7) },
        Act.when (!bad.isEmpty) (takeError m.lane (errSource bad) tile (s.unitPc m.lane m.pc)),
        dropCmd core m.id] s
    | .free => Act.all [
        dropCmd core m.id,
        fun s1 => updTile core tile (fun t =>
          let more := (s1.core core).mq.any fun x => x.accepted && x.tile == tile && x.kind == .free
          { t.empty with owner := none, bound := none, arm := none, freeing := more }) s1] s
    | _ => []

/-! ### Readout (R223, R224) -/

/-- The readout that a lane's MOUT submits. -/
def Env.out (e : Env) : Out :=
  { base := e.src64 .n64 e.op.fy, stride := (e.src e.op.fz).toInt, row := e.op.l 4 0, n := e.op.l 10 5, typ := e.op.typ,
    mode := e.mn,
    bnd := if e.op.l 15 15 = 1 then some (e.op.l 14 11, e.core.bnd (e.op.l 14 11)) else none }

/-- Address of an element that row `i` of a readout stores. -/
def Out.elem (o : Out) (i j : Nat) : DWord := plus o.base (i * o.stride + (j * elemSize o.typ : Nat))

/-- The probe of one stored element (R223): not present, rights, format, weir. -/
def State.writable (s : State) (k : LaneId) (mark : Nat) (t : Typ) (x : DWord) : Except (Nat × DWord) (List Loc) :=
  if !canonical x then .error (0x02, x)
  else match s.placeFor k mark x with
    | none => .error (0x03, x)
    | some l =>
      if !l.wr then .error (0x04, x)
      else if l.typ != .b32 && l.typ != t then .error (0x05, x)
      else if s.inWeir l then .error (0x06, x) else .ok [l]

/-- The probe of MOUT at issue. -/
def Env.outProbe (e : Env) : Option (Nat × DWord) :=
  let o := e.out
  let z : Int := elemSize o.typ
  firstCause ((if (o.base.toNat : Int) % z ≠ 0 ∨ o.stride % z ≠ 0 then [(0x01, o.base)] else []) ++
    failures ((List.range o.n).flatMap fun i => (List.range 32).map fun j => e.s.writable e.k e.s.fresh o.typ (o.elem i j)))

/-- MOUT (R223). -/
def issueMout (es : List Env) : Act := fun s =>
  split es (fun e => firstStop [e.ownStop e.op.fx, e.saddleStop,
      match e.out.bnd with | some (n, _) => entryStop (!e.s.bndAllowed e.k n) e 0x12 | none => none,
      probeStop e.outProbe]) (fun ok => Act.all [
    countAccess ok, retire ok, Act.each (s.ordered ok) fun e => submit e (.out e.out) true]) s

/-- Elements of a row converted in order up to the first that traps (R200, R421): bits, with the flags set, and whether
an element trapped. -/
def outRow (o : Out) (r : TRow) : List Nat → List Nat × BitVec 7 × Bool
  | [] => ([], 0, false)
  | j :: js =>
    let (b, f) := r.read j o.typ o.mode
    let go (b : Nat) (f : BitVec 7) : List Nat × BitVec 7 × Bool :=
      let (bs, g, t) := outRow o r js
      (b :: bs, f ||| g, t)
    match o.bnd with
    | none => go b f
    | some (_, n) => match n.check (elemFV o.typ b) with
      | .keep => go b f
      | .flag => go b (f ||| fBND)
      | .clamp w => let (c, g) := readout o.typ o.mode (formF32.decode w.toNat); go c (f ||| g)
      | .trap => ([], f, true)

/-- Does a command read or store in the scratchpad of a workgroup of its gang? -/
def MCmd.uses (m : MCmd) (s : State) (wg : Nat) : Bool :=
  let w := ((s.ownWindow wg 0).toNat, 2 ^ 22)
  match m.kind with
  | .out o => (List.range o.n).any fun i => (List.range 32).any fun j => meet ((o.elem i j).toNat, elemSize o.typ) w
  | .loop l => match l.sparse with | some (_, d) => meet (d.toNat, l.ks * 32 * (l.kf / 4)) w | none => false
  | _ => false

/-- Readouts accepted earlier leave out the bytes that a later one stores (R224). -/
def supersedeOut (arr : Nat) (keys : List Nat) : Act := fun s =>
  let older (m : MCmd) : Bool := m.accepted && decide (m.arr < arr) && match m.kind with | .out _ => true | _ => false
  Act.each ((s.cores.filter fun c => c.2.mq.any older).map (·.1)) (fun core => updMq core fun q => q.map fun m =>
    if older m then { m with skip := m.skip ++ keys } else m) s

/-- Requests of readouts on lines that have not been performed: a later one's follow them (R224). -/
def State.outWrites (s : State) (lines : List Nat) : List Nat := (s.reqs.filter fun r => lines.contains r.line && !r.done &&
  r.acc.any fun a => match a.op with | .unitWrite (.matrix _ _) _ => true | _ => false).map (·.id)

/-- What a row of a readout stores. -/
def Out.puts (o : Out) (i : Nat) (vals : List Nat) (ls : List Loc) : List Put := (vals.zip ls).zipIdx.map fun v =>
  { at_ := v.1.2, va := o.elem i v.2, bytes := bytesLE (elemSize o.typ) v.1.1 }

/-- MOUT_ROW (R223, R224): the next row of the readout that a tile has reached; the readout has finished once its stores are performed.
(log 39, DEDUCED; log 54, DEDUCED) -/
def stepMoutRow (core tile : Nat) : Act := fun s =>
  let c := s.core core
  match c.head? tile with
  | none => []
  | some m =>
    match m.kind with
    | .out o =>
      if m.stopped.isSome || !s.allPerformed m.after then []
      else if o.n ≤ m.prog then Act.when (s.unitDone (.matrix core m.id)) (dropCmd core m.id) s
      else
      let rows := if m.begun then m.snap else ((c.tile tile).rows.drop o.row).take o.n
      let bad := if m.begun then [] else rows.filter (·.fails)
      if !bad.isEmpty then Act.all [takeError m.lane (errSource bad) tile (s.unitPc m.lane m.pc), dropCmd core m.id] s
      else
        let (vals, fl, trap) := outRow o ((rows[m.prog]?).getD TRow.none) (List.range 32)
        let at_ := (List.range 32).map fun j => s.writable m.lane m.id o.typ (o.elem m.prog j)
        match firstCause (failures at_) with
        | some (cause, addr) => Act.all [
            updMCmd core m.id fun x => { x with begun := true, snap := rows },
            unitFault 5 core m.id (o.row + m.prog) m.lane m.pc cause addr fun n => updMCmd core m.id fun x => { x with stopped := some n }] s
        | none =>
          let puts := o.puts m.prog vals (okLocs at_)
          let next := if trap then o.n else m.prog + 1
          Act.all [
            storeUnit (.matrix core m.id) (core / 4) m.lane m.pc 0 m.skip (s.outWrites (puts.map fun w => lineOf w.at_.key)) puts,
            supersedeOut m.arr (puts.flatMap Put.keys),
            setFlags m.lane fl,
            Act.when trap (takeError m.lane 5 (match o.bnd with | some (n, _) => n | none => 0) (s.unitPc m.lane m.pc)),
            updMCmd core m.id fun x => { x with begun := true, prog := next, snap := rows },
            Act.when (decide (o.n ≤ next)) (Act.read fun t => Act.when (t.unitDone (.matrix core m.id)) (dropCmd core m.id))] s
    | _ => []

/-! ### Waiting and status (R225 to R227) -/

/-- MWAIT (R225). -/
def issueMwait (es : List Env) : Act :=
  split es (fun e => e.ownStop e.op.fx) fun ok => Act.all [
    retire ok,
    Act.each ok fun e => fun s =>
      updParks e.k (fun p => { p with
        wait := p.wait ++ [.tile (tileNo e.op.fx) (((s.core (s.coreOf e.k)).cmdsOn (tileNo e.op.fx)).map (·.id))] }) s]

/-- The words that MSTAT writes (R226). -/
def statWords (c : Core) (tile variant row col : Nat) : List Word :=
  let t := c.tile tile
  let r := (t.rows[row]?).getD TRow.none
  let r := if r.empty then TRow.none else r
  match variant with
  | 0 => [(wrapTo 16 r.e).setWidth 32 + BitVec.ofNat 32 (r.h * 2 ^ 16 + (if r.empty then 2 ^ 22 else 0))]
  | 1 => [t.evt]
  | 2 =>
    let loops := (c.cmdsOn tile).filter fun m => match m.kind with | .loop _ => true | _ => false
    [BitVec.ofNat 32 (t.prog % 2 ^ 12 + (if loops.isEmpty then 0 else 2 ^ 12) +
      (if loops.any fun m => m.stopped.isSome then 2 ^ 13 else 0) + (if t.bound.isSome then 2 ^ 14 else 0))]
  | 3 => [BitVec.ofNat 32 r.rho]
  | _ => let m := r.m.getD col 0; [m.setWidth 32, (m >>> 32).setWidth 32]

/-- MSTAT (R226): PROG is read at issue, the others at their place in the tile's order. -/
def issueMstat (es : List Env) : Act :=
  split es (fun e => e.ownStop e.op.fy) fun ok => Act.all [
    Act.each ok fun e => fun s =>
      let core := s.coreOf e.k
      let n := tileNo e.op.fy
      if e.mn = 2 then resultNow [(e, (dest e.op.fx (statWords (s.core core) n 2 0 0), 0))] s
      else Act.fresh (fun r => Act.fresh fun i => Act.all [
        addResult e.k { id := r, silent := Op.silent e.op, vals := none, flags := 0, err := none, readyAt := s.now + 1, req := none },
        updMq core fun q =>
          let m : MCmd :=
            { id := i, lane := e.k, crew := s.crewOf e.k, pc := e.l.pc, seq := e.l.seq, ch := 0, tile := n,
              kind := .stat e.mn (e.op.l 4 0) (e.op.l 9 5) (fxReg e.op) r, after := [], accepted := true, queued := false,
              prog := 0, begun := false, stopped := none, dropped := false }
          q.filter (·.accepted) ++ [m] ++ q.filter fun x => !x.accepted]) s,
    retire ok]

/-- MSTAT's reads that have been reached (R226); `n` bounds the work. -/
def serveStats (core : Nat) : Nat → Act
  | 0 => Act.skip
  | n + 1 => fun s =>
    let c := s.core core
    match (List.range 16).findSome? fun t => (c.head? t).bind fun m => match m.kind with
        | .stat v r j reg res => some (m, v, r, j, reg, res)
        | _ => none with
    | none => []
    | some (m, v, r, j, reg, res) => Act.all [
        updLane m.lane fun l => { l with results := l.results.map fun x => if x.id = res then
          { x with vals := some ((statWords c m.tile v r j).zipIdx.map fun w => (reg + w.2, w.1)), readyAt := s.now + 1 } else x },
        dropCmd core m.id, serveStats core n] s

/-- MFLAG (R227). -/
def issueMflag (es : List Env) : Act :=
  split es (fun e => e.ownStop e.op.fy) fun ok => Act.all [
    Act.read fun s => resultNow (ok.map fun e =>
      let cs := (s.core (s.coreOf e.k)).cmdsOn (tileNo e.op.fy)
      (e, (destBool e.op.fx (if e.mn = 0 then cs.isEmpty else cs.any fun m =>
        m.stopped.isSome && (match m.kind with | .loop _ => true | _ => false)), 0))),
    retire ok]

/-! ### Discard and the end of a workgroup (R228, R229) -/

/-- Drop a command: it completes with its rest undone, and its fault record closes (R228, R406). -/
def dropTileCmd (core : Nat) (m : MCmd) : Act := Act.all [
  Act.opt m.stopped fun n => fun s => closeRecord (s.ctxOf m.lane) n s,
  dropCmd core m.id]

/-- Discard a tile (R228): its loops and the readouts that have not begun are dropped, and its rows become empty; a readout that has
begun goes on with the rows that it found. The tile stays bound. (log 39, DEDUCED) -/
def discardTile (core tile : Nat) : Act := fun s =>
  Act.all [
    Act.each ((s.core core).mq.filter fun m => m.accepted && m.tile == tile && (match m.kind with
        | .loop _ => true
        | .out _ => !m.begun
        | _ => false)) (dropTileCmd core),
    updTile core tile fun t => { t.empty with arm := none }] s

/-- A tile becomes unowned as by MFREE. -/
def freeTile (core tile : Nat) : Act := Act.all [
  unbindTile core tile,
  updTile core tile fun t => { t.empty with owner := none, freeing := false, arm := none }]

/-- Is a tile live (R230): owned, unbound, with a row or an unfinished command, accepted or not? -/
def Core.live (c : Core) (tile : Nat) : Bool :=
  let t := c.tile tile
  t.owner.isSome && t.bound.isNone && (t.rows.any (fun r => !r.empty) || c.mq.any fun m => m.tile == tile && (m.queued || !m.accepted))

/-- The tiles of an exited workgroup are freed once their commands have finished (R229). -/
def freeTilesOf (wg : Nat) : Act := fun s =>
  let core := match s.wgs.get? wg with | some w => w.core | none => 0
  let c := s.core core
  Act.each ((List.range 16).filter fun i => (c.tile i).owner == some wg) (fun i =>
    if c.mq.any fun m => m.tile == i then updTile core i fun t => { t with freeing := true } else freeTile core i) s

/-! ### ERRINJ (R423) -/

/-- ERRINJ. -/
def issueErrinj (es : List Env) : Act := fun s =>
  match es with
  | [] => []
  | e0 :: _ => match e0.mn with
    | 0 => Act.all [retire es, Act.each es fun e => takeError e.k 6 (e.op.l 15 0) e.l.pc] s
    | 1 => split es (fun e => e.ownStop e.op.fx) (fun ok => Act.all [
        Act.each (s.ordered ok) fun e =>
          let v := (e.src e.op.fz).toNat
          updTile (s.coreOf e.k) (tileNo e.op.fx) fun t => { t with
            arm := some { row := bits v 4 0, col := bits v 9 5, step := bits v 21 10, bit := e.op.l 5 0, cmd := none } },
        retire ok]) s
    | _ => Act.all [
        Act.each es fun e => updLane e.k fun l => { l with
          parity := if l.parity.contains (fxReg e.op) then l.parity else l.parity ++ [fxReg e.op] },
        retire es] s

end Sys2Proof.Machine
end

