-- ==== Sys2Proof/Machine/Ditch.lean ====
section
/-! DEFINITION. Machine/Ditch.lean: ditch ports and their controllers (R299 to R310), the firing of engine commands (R303),
SDEF (R312). -/

namespace Sys2Proof.Machine

open Sys2Proof

/-! ### Ports (R299, R301) -/

/-- Words of an entry. -/
def Ditch.ew (d : Ditch) : Nat := 2 ^ d.esz
/-- Bytes of an entry. -/
def Ditch.eb (d : Ditch) : Nat := 4 * d.ew
/-- Entries held. -/
def Ditch.held (d : Ditch) : Nat := (d.pptr - d.cptr).toNat
/-- Room. -/
def Ditch.room (d : Ditch) : Int := (2 ^ d.lgn : Nat) - (d.held : Int) - d.rsv.toNat
/-- The entry at a pointer value. -/
def Ditch.slot (d : Ditch) (v : Word) : List Word := d.slots.getD (v.toNat % 2 ^ d.lgn) (List.replicate d.ew 0)
/-- Push an entry. -/
def Ditch.push (d : Ditch) (ws : List Word) : Ditch :=
  { d with slots := d.slots.set (d.pptr.toNat % 2 ^ d.lgn) ws, pptr := d.pptr + 1 }
/-- The first `n` entries held. -/
def Ditch.first (d : Ditch) (n : Nat) : List (List Word) := (List.range n).map fun i => d.slot (d.cptr + BitVec.ofNat 32 i)
/-- Take `n` entries. -/
def Ditch.drop (d : Ditch) (n : Nat) : Ditch := { d with cptr := d.cptr + BitVec.ofNat 32 n }
/-- A reset (R306). -/
def Ditch.reset (d : Ditch) : Ditch := { d with pptr := 0, cptr := 0, ord := false, slots := [] }

/-- Blocks of 1 KiB that a geometry needs (R299). -/
def blocksOf (lgn esz : Nat) : Nat := (2 ^ lgn * 4 * 2 ^ esz + 1023) / 1024
/-- Free blocks of a ditch-mode bank. (log 40, DEDUCED) -/
def Cluster.freeBlocks (c : Cluster) (b : Nat) : Nat :=
  if c.bank b = 2 then 96 - ((c.ports.flatMap fun p => p.2.store.filter fun x => x.1 == b).map (·.2)).foldl (· + ·) 0 else 0
/-- Blocks for a ditch, bank by bank; none when they do not suffice. -/
def Cluster.takeBlocks (c : Cluster) (need : Nat) : Option (List (Nat × Nat)) :=
  let (left, got) := (List.range 32).foldl (fun (a : Nat × List (Nat × Nat)) b =>
    let n := min a.1 (c.freeBlocks b)
    if n = 0 then a else (a.1 - n, a.2 ++ [(b, n)])) (need, [])
  if left = 0 then some got else none

/-- A configured, empty port. -/
def Ditch.new (gang lgn esz : Nat) (store : List (Nat × Nat)) : Ditch :=
  { gang := gang, lgn := lgn, esz := esz, pptr := 0, cptr := 0, rsv := 0, ord := false, slots := [], store := store }

/-- Change a port. -/
def updPort' (cl p : Nat) (f : Ditch → Ditch) : Act := updCluster cl fun c => { c with ports := match c.ports.get? p with
  | some d => c.ports.set p (f d)
  | none => c.ports }

/-! ### The ports that a command names (R303) -/

/-- Entries that a command takes, in order: port and count. -/
def Cmd.inputs (c : Cluster) (m : Cmd) : List (Nat × Nat) :=
  let idx (x : Place) (n : Nat) : List (Nat × Nat) := match x with | .ditch p => [(p, n)] | _ => []
  let rows (x : Place) (bytes : Nat) : List (Nat × Nat) := match x with
    | .ditch p => [(p, match c.ports.get? p with | some d => bytes / d.eb | none => 0)]
    | _ => []
  match m.kind with
  | .gath _ _ n _ i _ _ _ => idx i n
  | .scat _ rowb n i src => idx i n ++ rows src (n * rowb)
  | .scadd _ rowb n i src _ => idx i n ++ rows src (n * rowb)
  | .merge a b _ na nb _ _ _ => [(a, na), (b, nb)]
  | _ => []

/-- The output ditch of a command and its declared maximum. -/
def Cmd.output (c : Cluster) (m : Cmd) : Option (Nat × Nat) :=
  match m.kind with
  | .gath _ _ n ob _ (.ditch p) _ _ => some (p, match c.ports.get? p with | some d => n * ob / d.eb | none => 0)
  | .merge _ _ out na nb _ _ _ => some (out, na + nb)
  | .nz _ _ n (some p) _ _ _ _ _ => some (p, n)
  | _ => none

/-- Every port that a command names. -/
def Cmd.ports (c : Cluster) (m : Cmd) : List Nat := ((m.inputs c).map (·.1) ++ ((m.output c).map (·.1)).toList).dedup
/-- Is a command a consumer of a port: does it take entries from it (R303)? -/
def Cmd.consumes (c : Cluster) (m : Cmd) (p : Nat) : Bool := (m.inputs c).any fun x => x.1 == p && decide (0 < x.2)
/-- Entries that a command takes from a port. -/
def Cmd.takes (c : Cluster) (m : Cmd) (p : Nat) : Nat := (((m.inputs c).filter fun x => x.1 == p).map (·.2)).foldl (· + ·) 0

/-- Unfinished commands that name a port. -/
def Cluster.naming (c : Cluster) (p : Nat) : List Cmd := c.cmds.filter fun m => m.submitted && (m.ports c).contains p

/-- Is a lane operation a waiting DPOP, a consumer (R303)? -/
def DKind.consumer : DKind → Bool
  | .pop try_ _ _ _ _ => !try_
  | _ => false

/-- Has every live lane of the workgroup issued its CPYW of a round, so that its crew's slice is submitted (R331)? -/
def State.slicesIn (s : State) (wg round : Nat) : Bool := (s.liveLanes wg).all fun k => s.laneIs k fun l => decide (round < l.cpyw)

/-- Can a command fire, the order at its controllers aside (R303, R316, R322)? -/
def State.fireable (s : State) (cl : Nat) (m : Cmd) : Bool :=
  let c := s.cluster cl
  m.submitted && m.queued && m.checked && !m.fired && s.allPerformed m.after && s.gateOpen m.gate &&
    (match m.kind with | .cpyw _ _ _ _ _ _ r => s.slicesIn m.lane.wg r | _ => true) &&
    ((m.ports c).all fun p =>
      (c.cmds.all fun x => !(x.submitted && (x.ports c).contains p && decide (x.id < m.id) && (!x.fired || x.halted))) &&
      (match c.ports.get? p with
        | none => false
        | some d =>
          (!m.consumes c p || (decide (m.takes c p ≤ d.held) &&
            c.dops.all fun o => !(o.port == p && o.kind.consumer && decide (o.id < m.id)))) &&
          (match m.output c with
            | some (q, mx) => q != p || decide ((mx : Int) ≤ d.room + m.takes c p)
            | none => true)))

/-! ### Lane operations at a controller (R305 to R310) -/

/-- Can a lane operation be performed, the order of arrival aside? -/
def Cluster.can (c : Cluster) (o : DOp) : Bool :=
  let before := !(c.naming o.port).any fun m => decide (m.id < o.id)
  match o.kind with
  | .push _ => match c.ports.get? o.port with
    | none => true
    | some d => d.rsv == 0 && decide (1 ≤ d.room) && !c.dops.any fun x =>
        x.port == o.port && decide (x.id < o.id) && (match x.kind with | .push _ => true | _ => false)
  | .pop try_ _ _ _ _ => try_ || match c.ports.get? o.port with
    | none => true
    | some d => decide (1 ≤ d.held) && !(c.dops.any fun x => x.port == o.port && decide (x.id < o.id) && x.kind.consumer) &&
        !(c.naming o.port).any fun m => !m.fired && decide (m.id < o.id) && m.consumes c o.port
  | .peek _ _ _ _ _ => true
  | .reset => before
  | .rel => (c.naming o.port).isEmpty
  | .stat v _ _ => decide (2 ≤ v) || before

/-- May it be performed now: nothing that arrived before it at its ditch could be? -/
def State.dopReady (s : State) (cl : Nat) (o : DOp) : Bool :=
  let c := s.cluster cl
  c.can o && !(c.dops.any fun x => x.port == o.port && decide (x.id < o.id) && c.can x) &&
    !(c.naming o.port).any fun m => decide (m.id < o.id) && s.fireable cl m

/-- A group and its predicate, as register writes. -/
def ditchWrites (reg n : Nat) (p : Option Nat) (ws : Option (List Word)) : Writes :=
  ((ws.getD (List.replicate n 0)).zipIdx.map fun w => (reg + w.2, w.1)) ++ p.toList.map fun q => (0x100 + q, truth ws.isSome)

/-- SSTAT's value (R310). -/
def statDitch (c : Cluster) (gang : Nat) (port v : Nat) : Word :=
  match c.ports.get? port with
  | none => 0
  | some d => match v with
    | 0 => BitVec.ofNat 32 d.held
    | 1 => BitVec.ofInt 32 d.room
    | 2 => d.pptr
    | 3 => d.cptr
    | _ => BitVec.ofNat 32 (d.lgn + d.esz * 2 ^ 5 + 2 ^ 8 + (if d.gang = gang then 2 ^ 9 else 0) +
        (if d.ord then 2 ^ 10 else 0) + (if (c.naming port).isEmpty then 0 else 2 ^ 11))

/-- A lane's operation at a ditch ends: the lane goes on. -/
def endDop (cl : Nat) (o : DOp) : Act := Act.all [
  updCluster cl fun c => { c with dops := c.dops.filter fun x => x.id != o.id },
  updParks o.lane fun p => { p with queue := if p.queue = some (.ditch o.id) then none else p.queue }]

/-- Waiting operations whose port is gone fault "ditch not held" (R307). -/
def faultDops (cl : Nat) (os : List DOp) : Act := fun s => Act.all [
  Act.each os fun o => Act.all [endDop cl o,
    match o.kind with | .pop _ _ _ _ r => dropResult o.lane r | _ => Act.skip,
    backUp o.lane],
  Act.read fun t => Act.each (t.groups (os.map (·.lane))) fun g => faultLanes 2 0 (g.map fun k => ⟨k, 0x21, t.pcOf k⟩)] s

/-- A port is released: its blocks are free, and its waiting DPOPs and DPUSHes fault (R307). -/
def releasePort (cl p : Nat) : Act := fun s => Act.all [
  updCluster cl fun c => { c with ports := c.ports.del p },
  faultDops cl ((s.cluster cl).dops.filter fun o => o.port == p && (match o.kind with
    | .push _ => true
    | .pop t _ _ _ _ => !t
    | _ => false))] s

/-- Perform a lane operation. -/
def performDop (cl : Nat) (o : DOp) : Act := fun s =>
  let c := s.cluster cl
  match c.ports.get? o.port, o.kind with
  | _, .stat v reg res => Act.all [endDop cl o, updLane o.lane fun l => l.resolve res
      (if reg < 256 then [(reg, statDitch c (s.gangOf o.lane) o.port v)] else [])] s
  | none, .peek _ reg n p res => Act.all [endDop cl o, updLane o.lane fun l => l.resolve res (ditchWrites reg n p none)] s
  | none, _ => faultDops cl [o] s
  | some _, .push ws => Act.all [updPort' cl o.port fun d => d.push ws, endDop cl o] s
  | some d, .pop _ reg n p res =>
    let got := c.can { o with kind := .pop false reg n p res }
    Act.all [
      Act.when got (updPort' cl o.port fun d => d.drop 1), endDop cl o,
      updLane o.lane fun l => l.resolve res (ditchWrites reg n p (if got then some (d.slot d.cptr) else none))] s
  | some d, .peek k reg n p res => Act.all [endDop cl o,
      updLane o.lane fun l => l.resolve res
        (ditchWrites reg n p (if k < d.held then some (d.slot (d.cptr + BitVec.ofNat 32 k)) else none))] s
  | some _, .reset => Act.all [updPort' cl o.port Ditch.reset, endDop cl o] s
  | some _, .rel => Act.all [endDop cl o, releasePort cl o.port] s

/-- DITCH_CONTROLLER_OP (R302): one lane operation is performed at its controller. -/
def stepDitchOp (cl op : Nat) : Act := fun s =>
  match (s.cluster cl).dops.find? fun o => o.id == op with
  | none => []
  | some o => if s.dopReady cl o then performDop cl o s else []

/-- A command fires (R303): its inputs' entries are its own, and its output's room is reserved. -/
def fireCmd (cl : Nat) (m : Cmd) : Act := fun s =>
  let c := s.cluster cl
  let taken : List (List (List Word)) := (m.inputs c).zipIdx.map fun x =>
    let before := (((m.inputs c).take x.2).filter fun y => y.1 == x.1.1).map (·.2)
    match c.ports.get? x.1.1 with
    | some d => (d.first (before.foldl (· + ·) 0 + x.1.2)).drop (before.foldl (· + ·) 0)
    | none => []
  Act.fresh (fun n => Act.all [
    Act.each (m.inputs c) fun x => updPort' cl x.1 fun d => d.drop x.2,
    Act.opt (m.output c) fun x => updPort' cl x.1 fun d => { d with rsv := d.rsv + BitVec.ofNat 32 x.2 },
    updCluster cl fun c => { c with cmds := c.cmds.map fun y => if y.id = m.id then
      { y with fired := true, arr := n, ins := (taken[0]?).getD [], ins2 := (taken[1]?).getD [] } else y }]) s

/-- ENGINE_COMMAND_FIRE (R303): nothing that arrived earlier at its ditches could be performed. -/
def stepFire (cl cmd : Nat) : Act := fun s =>
  let c := s.cluster cl
  match c.cmds.find? fun m => m.id == cmd with
  | none => []
  | some m =>
    if s.fireable cl m && !(c.dops.any fun x => (m.ports c).contains x.port && decide (x.id < m.id) && c.can x) then fireCmd cl m s
    else []

/-- Perform what has reached a ditch and can be performed, in order of arrival; `n` bounds the work. -/
def flushPort (cl p : Nat) : Nat → Act
  | 0 => Act.skip
  | n + 1 => fun s =>
    let c := s.cluster cl
    match (c.dops.filter fun o => o.port == p && s.dopReady cl o).head? with
    | some o => Act.seq (performDop cl o) (flushPort cl p n) s
    | none => []

/-! ### Issue -/

/-- The port that an operand names in a lane (R304). -/
def Env.port (e : Env) (o : Opnd) : Nat := match o with | .f n => n.val | x => (e.src x).toNat

/-- A port of the lane's cluster, when its own gang holds it. -/
def Env.heldPort (e : Env) (p : Nat) : Option Ditch :=
  ((e.s.cluster e.cl).ports.get? p).filter fun d => d.gang == e.s.gangOf e.k

/-- R304 on ports: each with its width test and the count that the instruction names. -/
def Env.ditchStop (e : Env) (xs : List (Nat × (Ditch → Bool) × (Ditch → Nat))) : Option Stop := firstStop [
  entryStop (xs.any fun x => decide (31 < x.1)) e 0x20,
  entryStop (xs.any fun x => (e.heldPort x.1).isNone) e 0x21,
  entryStop (xs.any fun x => match e.heldPort x.1 with | some d => !x.2.1 d | none => false) e 0x22,
  entryStop (xs.any fun x => match e.heldPort x.1 with | some d => decide (2 ^ d.lgn < x.2.2 d) | none => false) e 0x23]

/-- A lane's operation reaches its controller: it is performed at once when nothing stands in its way. -/
def sendDop (e : Env) (port : Nat) (parks : Bool) (kind : Nat → DKind) (res : Bool) : Act :=
  Act.fresh fun r => Act.fresh fun n => Act.all [
    Act.when res (fun s => addResult e.k { id := r, silent := Op.silent e.op, vals := none, flags := 0, err := none, readyAt := s.now + 1, req := none } s),
    Act.when parks (updParks e.k fun p => { p with queue := some (.ditch n) }),
    updCluster e.cl fun c => { c with dops := c.dops ++ [{ id := n, lane := e.k, pc := e.l.pc, port := port, kind := kind r }] },
    Act.read fun s => flushPort e.cl port ((s.cluster e.cl).dops.length + 1)]

/-- The entry width of DPUSH, DPOP and DPEEK. -/
def Env.widthOk (e : Env) (d : Ditch) : Bool := d.esz == e.mn
/-- The predicate operand in FZ. -/
def predNo : Opnd → Option Nat
  | .p n => some n.val
  | _ => none

/-- DPUSH (R305). -/
def issueDpush (es : List Env) : Act := fun s =>
  split es (fun e => e.ditchStop [(e.port e.op.fx, e.widthOk, fun _ => 0)]) (fun ok => Act.all [retire ok,
    Act.each (s.ordered ok) fun e =>
      sendDop e (e.port e.op.fx) true (fun _ => .push (e.group e.op.fy (2 ^ e.mn))) false]) s
/-- DPOP (R305). -/
def issueDpop (es : List Env) : Act := fun s =>
  split es (fun e => e.ditchStop [(e.port e.op.fy, e.widthOk, fun _ => 0)]) (fun ok => Act.all [retire ok,
    Act.each (s.ordered ok) fun e =>
      let t := e.op.l 0 0 == 1
      sendDop e (e.port e.op.fy) (!t) (fun r => .pop t (fxReg e.op) (2 ^ e.mn) (predNo e.op.fz) r) true]) s
/-- DPEEK (R305). -/
def issueDpeek (es : List Env) : Act := fun s =>
  split es (fun e => e.ditchStop [(e.port e.op.fy, e.widthOk, fun _ => 0)]) (fun ok => Act.all [retire ok,
    Act.each (s.ordered ok) fun e =>
      sendDop e (e.port e.op.fy) false (fun r => .peek (e.op.l 15 0) (fxReg e.op) (2 ^ e.mn) (predNo e.op.fz) r) true]) s
/-- DRST (R306). -/
def issueDrst (es : List Env) : Act := fun s =>
  split es (fun e => e.ditchStop [(e.port e.op.fx, fun _ => true, fun _ => 0)]) (fun ok => Act.all [retire ok,
    Act.each (s.ordered ok) fun e => sendDop e (e.port e.op.fx) true (fun _ => .reset) false]) s
/-- SSTAT (R310). -/
def issueSstat (es : List Env) : Act := fun s =>
  split es (fun e =>
      let p := e.port e.op.fy
      if e.mn = 4 then entryStop (decide (31 < p)) e 0x20 else e.ditchStop [(p, fun _ => true, fun _ => 0)]) (fun ok => Act.all [
    retire ok,
    Act.each (s.ordered ok) fun e =>
      sendDop e (e.port e.op.fy) false (fun r => .stat e.mn (fxReg e.op) r) true]) s

/-- DCFG.SET by a lane on a cluster (R307): the cluster, or the cause. -/
def Cluster.configure (c : Cluster) (gang port lgn esz : Nat) : Except Nat Cluster :=
  let busy := match c.ports.get? port with
    | some d => d.gang != gang || decide (1 ≤ d.held) || d.rsv != 0 || !(c.naming port).isEmpty
    | none => false
  if 31 < port then .error 0x20
  else if busy then .error 0x24
  else
    let c1 : Cluster := { c with ports := c.ports.del port }
    match c1.takeBlocks (blocksOf lgn esz) with
    | some st => .ok { c1 with ports := c1.ports.set port (Ditch.new gang lgn esz st) }
    | none => .error 0x25

/-- DCFG.SET by lanes in order; the lanes that fail, with their causes. -/
def configureAll : Cluster → List Env → Cluster × List (LaneId × Nat)
  | c, [] => (c, [])
  | c, e :: es =>
    match c.configure (e.s.gangOf e.k) (e.port e.op.fx) (e.op.l 4 0) (e.op.l 7 5) with
    | .ok c1 => configureAll c1 es
    | .error cause => let (c1, fs) := configureAll c es; (c1, (e.k, cause) :: fs)

/-- DCFG (R307). -/
def issueDcfg (es : List Env) : Act := fun s =>
  match es with
  | [] => []
  | e0 :: _ =>
    if e0.mn = 0 then
      let cl := e0.cl
      Act.all [
        Act.each es fun e => Act.read fun t => flushPort cl (e.port e.op.fx) ((t.cluster cl).dops.length + 1),
        Act.read fun t =>
          let (c1, fs) := configureAll (t.cluster cl) (t.ordered es)
          Act.all [updCluster cl fun _ => c1,
            split es (fun e => (fs.find? fun f => f.1 == e.k).map fun f => ⟨2, f.2, e.l.pc⟩) retire]] s
    else split es (fun e => e.ditchStop [(e.port e.op.fx, fun _ => true, fun _ => 0)]) (fun ok => Act.all [retire ok,
      Act.each (s.ordered ok) fun e => sendDop e (e.port e.op.fx) true (fun _ => .rel) false]) s

/-- The number that register words make, the first word lowest. -/
def wordsNat (ws : List Word) : Nat := natLE (ws.flatMap fun w => bytesLE 4 w.toNat)

/-- Write a stream register: lanes of other pelotons may read the value that it had before (R116). (log 5, DESIGN CHOICE) -/
def writeStream (writer : LaneId) (reg : Nat) (v : BitVec 256) : Act := fun s =>
  let others := ((s.wgLanes writer.wg).filter fun k => s.pslot k != s.pslot writer && !s.gone k).map (·.idx)
  updWg writer.wg (fun w => { w with
    sregs := w.sregs.set reg v,
    stale := (w.stale.map fun x => if x.reg = reg then { x with readers := x.readers.filter others.contains } else x).filter
        (fun x => !x.readers.isEmpty) ++
      (if others.isEmpty then [] else [{ reg := reg, old := w.sregs.get? reg, writer := writer.idx, readers := others }]) }) s

/-- SDEF (R312): one of the writing lanes' values remains (R116). -/
def issueSdef (es : List Env) : Act :=
  split es (fun e => entryStop (((e.group e.op.fy 8)[7]?).getD 0 ≥ 0x40000000#32) e 0x26) fun ok =>
    let key (e : Env) : Nat × Nat := (e.k.wg, match e.op.fx with | .s n => n.val | _ => 0)
    Act.all [
      Act.each (ok.map key).dedup fun x => fun s =>
        match ok.filter fun e => key e = x with
        | [] => []
        | e :: es =>
          let c := s.choose (16 * x.1 + x.2) e (e :: es)
          writeStream c.k x.2 (BitVec.ofNat 256 (wordsNat (c.group c.op.fy 8))) s,
      retire ok]

end Sys2Proof.Machine
end

