-- ==== Sys2Proof/Machine/Engine.lean ====
section
/-! DEFINITION. Machine/Engine.lean: the commands of the stream, copy and merge units (R313 to R332): their checks and
submission, their rows, and their completion. -/

namespace Sys2Proof.Machine

open Sys2Proof

/-! ### Ranges of addresses -/

/-- The pieces of a range that lie in one 128-byte line each. -/
def pieces (va : DWord) (n : Nat) : List (DWord × Nat) :=
  ((List.range ((va.toNat % 128 + n + 127) / 128)).map fun i =>
    let lo := if i = 0 then va.toNat else va.toNat / 128 * 128 + 128 * i
    let hi := min (va.toNat + n) (va.toNat / 128 * 128 + 128 * (i + 1))
    (BitVec.ofNat 64 lo, hi - lo)).filter fun p => decide (0 < p.2)

/-- A range as an engine finds it (R235, R321): its pieces' places, or the failure of highest priority. `at_` finds places. -/
def spanWith (at_ : DWord → Option Loc) (va : DWord) (n : Nat) (need : Need) : Except (Nat × DWord) (List (Loc × Nat)) :=
  let look (x : DWord) : Except (Nat × DWord) Loc :=
    if !canonical x then .error (0x02, x)
    else match at_ x with
      | none => .error (0x03, x)
      | some l =>
        if (need.rd && !l.rd) || (need.wr && !l.wr) || (need.noHost && l.home == .host) then .error (0x04, x)
        else if !need.fmt l.typ then .error (0x05, x) else .ok l
  let xs := (pieces va n).map fun p => (look p.1, p.2)
  match firstCause (xs.filterMap fun x => match x.1 with | .error f => some f | .ok _ => none) with
  | some f => .error f
  | none => .ok (xs.filterMap fun x => match x.1 with | .ok l => some (l, x.2) | .error _ => none)

/-- A range as a lane's probe finds it. -/
def State.span (s : State) (k : LaneId) (va : DWord) (n : Nat) (need : Need) : Except (Nat × DWord) (List (Loc × Nat)) :=
  spanWith (s.at k) va n need

/-- A range as a command finds it. -/
def State.spanFor (s : State) (m : Cmd) (va : DWord) (n : Nat) (need : Need) : Except (Nat × DWord) (List (Loc × Nat)) :=
  spanWith (s.placeFor m.lane m.id) va n need

/-- The failure of a range, if any. -/
def spanFails (x : Except (Nat × DWord) (List (Loc × Nat))) : List (Nat × DWord) :=
  match x with
  | .error f => [f]
  | .ok _ => []

/-- The places that a range leads to; the probe has passed. -/
def State.places (s : State) (k : LaneId) (va : DWord) (n : Nat) (need : Need) : List (Loc × Nat) := match s.span k va n need with
  | .ok ls => ls
  | .error _ => []

/-- The bytes of places as a command has them. -/
def State.collect (s : State) (got : Fetched) (ls : List (Loc × Nat)) : List Byte := ls.flatMap fun x => s.gotBytes got x.1 x.2

/-- The places of the `n` bytes from `off` on, of a list of places. -/
def partOf : List (Loc × Nat) → Nat → Nat → List (Loc × Nat)
  | [], _, _ => []
  | (l, m) :: rest, off, n =>
    if n = 0 then []
    else if m ≤ off then partOf rest (off - m) n
    else ({ l with key := l.key + off, scratch := l.scratch.map fun x => (x.1, x.2 + off) }, min n (m - off)) :: partOf rest 0 (n - (m - off))

/-- Places with their addresses, from an address on. -/
def withVa : List (Loc × Nat) → DWord → List (Loc × DWord)
  | [], _ => []
  | (l, n) :: rest, va => (l, va) :: withVa rest (va + BitVec.ofNat 64 n)

/-- Bytes laid out on places from an address on. -/
def spread : List (Loc × Nat) → DWord → List Byte → List Put
  | [], _, _ => []
  | (l, n) :: rest, va, bs => { at_ := l, va := va, bytes := bs.take n } :: spread rest (va + BitVec.ofNat 64 n) (bs.drop n)

/-! ### The merge (R313 to R315) -/

/-- The combination of two values with one index (R314). -/
def mergeComb (t : Typ) (op a b : Nat) : Nat × BitVec 7 :=
  if t == .f32 then
    match op with
    | 0 => formF32.result 0 ((formF32.decode a).add 0 (formF32.decode b))
    | 1 => formF32.result 0 ((formF32.decode a).add 0 (formF32.decode b).negate)
    | 2 => formF32.minMax false false a b
    | 3 => formF32.minMax true false a b
    | _ => (a, 0)
  else
    match op with
    | 0 => ((a + b) % 2 ^ 32, 0)
    | 1 => ((a + 2 ^ 32 - b) % 2 ^ 32, 0)
    | 2 => (if t.value a ≤ t.value b then a else b, 0)
    | 3 => (if t.value a ≥ t.value b then a else b, 0)
    | _ => (a, 0)

/-- A value that stands in B alone. -/
def mergeLone (t : Typ) (op b : Nat) : Nat :=
  if op = 1 then (if t == .f32 then Nat.xor b (2 ^ 31) else (2 ^ 32 - b) % 2 ^ 32) else b

/-- The merge of two streams of (index, value) entries (R314): output, flags, and whether an index was not greater than
the one before it in its stream. `n` bounds the work. -/
def mergeRun (t : Typ) (op : Nat) (dropz : Bool) : Nat → Option Nat → Option Nat → List (Nat × Nat) → List (Nat × Nat) →
    List (Nat × Nat) × BitVec 7 × Bool
  | 0, _, _, _, _ => ([], 0, false)
  | n + 1, la, lb, as, bs =>
    let zero (v : Nat) : Bool := v == 0 || (t == .f32 && v == 2 ^ 31)
    let bad (l : Option Nat) (i : Nat) : Bool := match l with | some x => decide (i ≤ x) | none => false
    let put (e : Nat × Nat) (f : BitVec 7) (o : Bool) (r : List (Nat × Nat) × BitVec 7 × Bool) : List (Nat × Nat) × BitVec 7 × Bool :=
      (if dropz && zero e.2 then r.1 else e :: r.1, f ||| r.2.1, o || r.2.2)
    match as, bs with
    | [], [] => ([], 0, false)
    | a :: as, [] => put a 0 (bad la a.1) (mergeRun t op dropz n (some a.1) lb as [])
    | [], b :: bs => put (b.1, mergeLone t op b.2) 0 (bad lb b.1) (mergeRun t op dropz n la (some b.1) [] bs)
    | a :: as, b :: bs =>
      if a.1 < b.1 then put a 0 (bad la a.1) (mergeRun t op dropz n (some a.1) lb as (b :: bs))
      else if b.1 < a.1 then put (b.1, mergeLone t op b.2) 0 (bad lb b.1) (mergeRun t op dropz n la (some b.1) (a :: as) bs)
      else
        let (v, f) := mergeComb t op a.2 b.2
        put (a.1, v) f (bad la a.1 || bad lb b.1) (mergeRun t op dropz n (some a.1) (some b.1) as bs)

/-- An entry of 8 bytes as index and value. -/
def pairEntry (ws : List Word) : Nat × Nat := (((ws[0]?).getD 0).toNat, ((ws[1]?).getD 0).toNat)

/-! ### Submission (R316, R317) -/

/-- Commands that hold a place of the 64. -/
def Cluster.cmdLoad (c : Cluster) : Nat := (c.cmds.filter (·.queued)).length

/-- Submit a command. Of one that reads or writes memory (`mem`), dirty bytes are written back, and its reads come after the lane's
earlier accesses (R288); a merge orders no access (R315). (log 39, DEDUCED) -/
def submitCmd (e : Env) (kind : CKind) (gate : Option (Nat × Half)) (arrive count : Option Nat) (submitted lead mem : Bool) : Act := Act.all [
  Act.when mem (sendWbacks e.cl),
  Act.fresh fun n => Act.read fun s =>
    let c := s.cluster e.cl
    let now := submitted && decide (c.cmdLoad < 64) && !(c.cmds.any fun m => m.submitted && !m.queued)
    Act.all [
      updCluster e.cl fun c => { c with cmds := c.cmds ++ [
        { id := n, arr := 0, lane := e.k, crew := s.crewOf e.k, pc := e.l.pc, seq := e.l.seq, ch := e.op.ch, kind := kind,
          after := if mem then s.fenceSet e.k 6 else [], gate := gate, arrive := arrive, count := count, queued := now,
          submitted := submitted, fired := false, ins := [], ins2 := [], rows := [], out := [], stopped := none, dropped := false,
          lead := lead }] },
      Act.when (submitted && !now) (updParks e.k fun p => { p with queue := some (.stream n) })]]

/-- Commands that wait take free places, in arrival order, and their lanes go on; `n` bounds the work. -/
def admitCmds (cl : Nat) : Nat → Act
  | 0 => Act.skip
  | n + 1 => fun s =>
    let c := s.cluster cl
    match c.cmds.find? fun m => m.submitted && !m.queued with
    | none => []
    | some m =>
      if 64 ≤ c.cmdLoad then [] else Act.all [
        updCluster cl fun c => { c with cmds := c.cmds.map fun x => if x.id = m.id then { x with queued := true } else x },
        updParks m.lane fun p => { p with queue := if p.queue = some (.stream m.id) then none else p.queue },
        admitCmds cl n] s

/-- A crew's CPYW slices whose lanes have all issued are submitted, from the operands of the lane that was the crew's lowest-ranked
live one when it issued, or else of the lowest-ranked live one (R331). (log 40, DEDUCED) -/
def serveSlices (cl : Nat) : Act := fun s =>
  let c := s.cluster cl
  let open_ := c.cmds.filter fun m => !m.submitted
  let round (m : Cmd) : Nat := match m.kind with | .cpyw _ _ _ _ _ _ r => r | _ => 0
  Act.each ((open_.map fun m => (m.crew, round m)).dedup) (fun x =>
    let live := s.crewLive x.1
    let mine := open_.filter fun m => m.crew = x.1 && round m == x.2
    let pick := mine.find? (·.lead) <|> (live.findSome? fun k => mine.find? fun m => m.lane == k) <|> mine.getLast?
    Act.when (live.all fun k => s.laneIs k fun l => decide (x.2 < l.cpyw)) (Act.opt pick fun m =>
      updCluster cl fun c => { c with cmds := (c.cmds.filter fun y => y.id = m.id || !(mine.any fun z => z.id == y.id)).map fun y =>
        if y.id = m.id then { y with submitted := true, checked := m.lead } else y })) s

/-! ### Checks at issue (R319) -/

/-- A stream register's fields (R311). -/
structure Stream where
  table : DWord
  rowb : Nat
  count : Nat
  isrc : DWord
  dst : Nat
  woff : Nat
  ik : Bool
  dk : Bool
  we : Bool
  fmt : Typ
  fpage : Bool
  deriving DecidableEq, Repr

/-- The fields of 256 bits. -/
def Stream.ofBits (v : BitVec 256) : Stream :=
  let n := v.toNat
  { table := BitVec.ofNat 64 (bits n 63 0), rowb := bits n 95 64, count := bits n 127 96, isrc := BitVec.ofNat 64 (bits n 191 128),
    dst := bits n 223 192, woff := bits n 245 224, ik := bits n 246 246 == 1, dk := bits n 247 247 == 1, we := bits n 248 248 == 1,
    fmt := Typ.ofCode (bits n 252 249), fpage := bits n 253 253 == 1 }

/-- The valid stream register that FX names: the value last written, or one that a lane of another peloton wrote over and the lane may
still read (R116). (log 5, DESIGN CHOICE) -/
def Env.stream (e : Env) : Option Stream :=
  match e.op.fx, e.wg? with
  | .s n, some w =>
    let now := w.sregs.get? n.val
    let old := (w.stale.filter fun x => x.reg == n.val && x.readers.contains e.k.idx).map (·.old)
    (e.s.choose (2 ^ 41 + 1024 * n.val + e.k.idx) now (now :: old)).map Stream.ofBits
  | _, _ => none

/-- n: FZ, or COUNT of the stream register. -/
def Env.streamCount (e : Env) (v : Stream) : Nat := if e.op.fz == .z then v.count else (e.src e.op.fz).toNat
/-- The gate pair of an operand (R219, R322). -/
def Env.gatePair (e : Env) (o : Opnd) : Option (Nat × Half) :=
  if o == .z then none
  else let v := e.src64 .n64 o; some (scratchKey e.k.wg (v.toNat % 2 ^ 32), (v >>> 32).setWidth 16)

/-- SCRATCH of the lane's workgroup. -/
def Env.scratch (e : Env) : Nat := match e.wg? with | some w => w.desc.scratch | none => 0
/-- A weir slot of a workgroup named by its offset (R319, order 4). (log 40, DEDUCED) -/
def State.slotProbe (s : State) (wg off : Nat) : List (Nat × DWord) :=
  let scratch := match s.wgs.get? wg with | some w => w.desc.scratch | none => 0
  if scratch < off + 16 then [(0x03, s.ownWindow wg off)]
  else if s.weirActive (scratchKey wg off) then [] else [(0x06, s.ownWindow wg off)]
/-- One of the lane's workgroup. -/
def Env.slotProbe (e : Env) (off : Nat) : List (Nat × DWord) := e.s.slotProbe e.k.wg off
/-- The slot of a gate pair. (log 40, DEDUCED) -/
def Env.gateProbe (e : Env) (o : Opnd) : List (Nat × DWord) :=
  if o == .z then [] else e.slotProbe ((e.src64 .n64 o).toNat % 2 ^ 32)

/-- Bytes of an output row of SGATH (R324); with FPAGE = 1 the layout follows the page that holds TBASE. -/
def Env.outBytes (e : Env) (v : Stream) : Nat :=
  if e.mn = 0 then v.rowb
  else
    let p := if v.fpage then (match e.s.at e.k v.table with | some l => l.typ | none => .n8) else v.fmt
    v.rowb * 8 / p.width * (if e.op.typ == .f32 then 4 else 2)

/-- The index source of a stream register. -/
def Stream.idx (v : Stream) : Place := if v.ik then .ditch v.isrc.toNat else .mem v.isrc
/-- The destination, or source of rows, of a stream register. -/
def Stream.place (v : Stream) : Place := if v.dk then .ditch v.dst else .scratch v.dst

/-- R319 for SGATH, SSCAT and SSCADD: `unit` is the element size that the limits use, `ob` the bytes moved for each row; `takes` says
that the rows are taken, from the ditch of the indices perhaps. -/
def Env.streamStop (e : Env) (unit ob : Nat) (takes : Bool) (bad : Stream → Bool) : Option Stop :=
  match e.stream with
  | none => entryStop true e 0x26
  | some v =>
    let n := e.streamCount v
    let arr := e.op.l 31 31 == 1
    firstStop [
      entryStop (v.rowb == 0 || v.rowb % unit != 0 || v.table.toNat % unit != 0 || bad v) e 0x26,
      e.ditchStop ((if v.ik then [(v.isrc.toNat, fun _ => true, fun _ => n)] else []) ++
        (if v.dk then [(v.dst, fun d => ob % d.eb == 0, fun d =>
          n * ob / d.eb + (if takes && v.ik && v.isrc.toNat == v.dst then n else 0))] else [])),
      Sys2Proof.Machine.probeStop (firstCause (e.gateProbe e.op.fy ++ (if arr then e.slotProbe (e.op.l 21 0) else []) ++
        (if v.we then e.slotProbe v.woff else []) ++
        (if !v.dk && decide (e.scratch < v.dst + n * ob) then [(0x03, e.s.ownWindow e.k.wg v.dst)] else []) ++
        (if v.ik || n == 0 then [] else
          spanFails (e.s.span e.k v.isrc 1 { rd := true, wr := false }) ++
            spanFails (e.s.span e.k (v.isrc + BitVec.ofNat 64 (4 * n - 1)) 1 { rd := true, wr := false }))))]

/-- The completion arrival's slot. -/
def Env.arrival (e : Env) : Option Nat := if e.op.l 31 31 = 1 then some (scratchKey e.k.wg (e.op.l 21 0)) else none

/-- SGATH (R324). (log 40, DEDUCED) -/
def issueSgath (es : List Env) : Act := fun s =>
  let ob (e : Env) : Nat := match e.stream with | some v => e.outBytes v | none => 0
  split es (fun e => e.streamStop
      (match e.stream with | some v => if e.mn = 1 ∧ v.fpage = false then elemSize v.fmt else 1 | none => 1) (ob e) false
      (fun v => (v.we && v.dk) || (e.mn == 1 && !v.fpage && v.fmt.scaled))) (fun ok => Act.all [
    countAccess ok, retire ok,
    Act.each (s.ordered ok) fun e => Act.opt e.stream fun v =>
      submitCmd e (.gath v.table v.rowb (e.streamCount v) (ob e) v.idx v.place (if e.mn = 1 then some e.op.typ else none)
          (if v.fpage then none else some v.fmt))
        (e.gatePair e.op.fy) e.arrival (if v.we then some (scratchKey e.k.wg v.woff) else none) true false true]) s

/-- SSCAT (R326). -/
def issueSscat (es : List Env) : Act := fun s =>
  split es (fun e => e.streamStop 1 (match e.stream with | some v => v.rowb | none => 0) true (fun v => v.we)) (fun ok => Act.all [
    countAccess ok, retire ok,
    Act.each (s.ordered ok) fun e => Act.opt e.stream fun v =>
      submitCmd e (.scat v.table v.rowb (e.streamCount v) v.idx v.place) (e.gatePair e.op.fy) e.arrival none true false true]) s

/-- SSCADD (R327). -/
def issueSscadd (es : List Env) : Act := fun s =>
  split es (fun e => e.streamStop (elemSize e.op.typ) (match e.stream with | some v => v.rowb | none => 0) true (fun v => v.we)) (fun ok =>
    Act.all [countAccess ok, retire ok,
      Act.each (s.ordered ok) fun e => Act.opt e.stream fun v =>
        submitCmd e (.scadd v.table v.rowb (e.streamCount v) v.idx v.place e.op.typ) (e.gatePair e.op.fy) e.arrival none true false true]) s

/-- SMERGE's operands: ports A, B and output, na, nb. -/
def Env.mergeArgs (e : Env) : Nat × Nat × Nat × Nat × Nat :=
  let w := e.group e.op.fx 2
  let a := e.port e.op.fy
  (a, e.port e.op.fz, if e.op.l 5 5 = 1 then a else e.op.l 4 0, ((w[0]?).getD 0).toNat, ((w[1]?).getD 0).toNat)

/-- SMERGE (R313). -/
def issueSmerge (es : List Env) : Act := fun s =>
  split es (fun e =>
      let (a, b, out, na, nb) := e.mergeArgs
      let w (d : Ditch) : Bool := d.eb == 8
      e.ditchStop [(a, w, fun _ => if a = b then na + nb else na), (b, w, fun _ => nb), (out, w, fun _ => na + nb)]) (fun ok => Act.all [
    countAccess ok, retire ok,
    Act.each (s.ordered ok) fun e =>
      let (a, b, out, na, nb) := e.mergeArgs
      submitCmd e (.merge a b out na nb (e.op.l 8 6) (e.mn == 1) e.op.typ) none none none true false false]) s

/-- SNZ's source and destination. -/
def Env.nzArgs (e : Env) : DWord × DWord × Nat :=
  let w := e.group e.op.fy 4
  let at_ (i : Nat) : DWord := (w[i + 1]?).getD 0 ++ (w[i]?).getD 0
  (at_ 0, at_ 2, (e.src e.op.fz).toNat)

/-- SNZ (R329). (log 40, DEDUCED) -/
def issueSnz (es : List Env) : Act := fun s =>
  split es (fun e =>
      let (src, dst, n) := e.nzArgs
      firstStop [
        entryStop (decide (65536 < n)) e 0x26,
        if e.mn = 0 then e.ditchStop [(e.op.l 4 0, fun _ => true, fun _ => n)] else none,
        probeStop (firstCause (spanFails (e.s.span e.k src (n * elemSize e.op.typ) { rd := true, wr := false }) ++
          (if e.mn = 1 then spanFails (e.s.span e.k dst (4 * n) { rd := false, wr := true }) else [])))]) (fun ok => Act.all [
    countAccess ok, retire ok,
    Act.each (s.ordered ok) fun e =>
      let (src, dst, n) := e.nzArgs
      let port := if e.mn = 0 then some (e.op.l 4 0) else none
      let from_ := e.s.places e.k src (n * elemSize e.op.typ) { rd := true, wr := false }
      let to_ := if e.mn = 1 then e.s.places e.k dst (4 * n) { rd := false, wr := true } else []
      if e.op.fx == .z then submitCmd e (.nz src dst n port e.op.typ none none from_ to_) none none none true false true
      else Act.fresh fun r => Act.all [
        fun s => addResult e.k { id := r, silent := Op.silent e.op, vals := none, flags := 0, err := none, readyAt := s.now + 1, req := none } s,
        submitCmd e (.nz src dst n port e.op.typ (some (fxReg e.op)) (some r) from_ to_) none none none true false true]]) s

/-- Does a range lie in the scratchpad window? -/
def allInWindow (va : DWord) (n : Nat) : Bool := n == 0 || (inWindow va && inWindow (va + BitVec.ofNat 64 (n - 1)))

/-- The weir at LIT[21:0], when WE or ARR names it (R330). -/
def Env.copySlots (e : Env) : List (Nat × DWord) :=
  if e.op.l 31 31 = 1 ∨ e.op.l 30 30 = 1 then e.slotProbe (e.op.l 21 0) else []
/-- Is that offset no multiple of 16, where it is used (R330)? -/
def Env.copySlotBad (e : Env) : Bool := (e.op.l 31 31 == 1 || e.op.l 30 30 == 1) && e.op.l 21 0 % 16 != 0
/-- WE's slot. -/
def Env.copyCount (e : Env) : Option Nat := if e.op.l 30 30 = 1 then some (scratchKey e.k.wg (e.op.l 21 0)) else none

/-- CPYL (R330). (log 40, DEDUCED) -/
def issueCpyl (es : List Env) : Act := fun s =>
  let args (e : Env) : DWord × DWord × Nat := (e.src64 .n64 e.op.fx, e.src64 .n64 e.op.fy, (e.src e.op.fz).toNat)
  split es (fun e =>
      let (dst, src, n) := args e
      firstStop [
        entryStop (decide (4096 < n) || e.copySlotBad || (e.op.l 30 30 == 1 && !allInWindow dst n)) e 0x27,
        probeStop (firstCause (e.copySlots ++ spanFails (e.s.span e.k src n { rd := true, wr := false }) ++
          spanFails (e.s.span e.k dst n { rd := false, wr := true })))]) (fun ok => Act.all [
    countAccess ok, retire ok,
    Act.each (s.ordered ok) fun e =>
      let (dst, src, n) := args e
      submitCmd e (.cpyl dst src n (e.s.places e.k src n { rd := true, wr := false }) (e.s.places e.k dst n { rd := false, wr := true }))
        none e.arrival e.copyCount true false true]) s

/-- CPYW's descriptor (R331). -/
def Env.copyArgs (e : Env) : DWord × DWord × Nat × Nat × Int × Int :=
  let w (i : Nat) : Word := ((e.group e.op.fx 8)[i]?).getD 0
  (w 1 ++ w 0, w 3 ++ w 2, (w 4).toNat, (w 5).toNat, (w 6).toInt, (w 7).toInt)

/-- Does a CPYW's descriptor break a limit (R319, R331): row bytes, rows, or a counted byte outside the window? -/
def copyBad (dst : DWord) (rowb rows : Nat) (ds : Int) (we : Bool) : Bool :=
  decide (65536 < rowb) || decide (65535 < rows) || (we && (List.range rows).any fun r => !allInWindow (plus dst (r * ds)) rowb)

/-- CPYW (R331): the operands that count are those of the crew's lowest-ranked live lane, which alone are checked at issue; a slice that
comes from another lane after all is checked when it is submitted. (log 40, DEDUCED) -/
def issueCpyw (es : List Env) : Act := fun s =>
  let lead (e : Env) : Bool := (s.crewLive (s.crewOf e.k)).head? == some e.k
  split es (fun e =>
      let (_, dst, rowb, rows, _, ds) := e.copyArgs
      if !lead e then none else firstStop [
        entryStop (copyBad dst rowb rows ds (e.op.l 30 30 == 1) || e.copySlotBad) e 0x27,
        probeStop (firstCause (e.gateProbe e.op.fy ++ e.copySlots))]) (fun ok => Act.all [
    countAccess ok, retire ok,
    Act.each (s.ordered ok) fun e =>
      let (src, dst, rowb, rows, ss, ds) := e.copyArgs
      Act.all [
        submitCmd e (.cpyw src dst rowb rows ss ds e.l.cpyw) (e.gatePair e.op.fy) e.arrival e.copyCount false (lead e) true,
        updLane e.k fun l => { l with cpyw := l.cpyw + 1 }]]) s

/-- Why a slice of a lane that was not its crew's lowest-ranked one cannot go on, by the checks of R319 on its operands. (log 40, DEDUCED) -/
def State.sliceFault (s : State) (m : Cmd) : Option (Nat × DWord) :=
  let off (key : Nat) : Nat := key - scratchKey m.lane.wg 0
  let slots := (m.arrive.toList ++ m.count.toList).map off
  match m.kind with
  | .cpyw _ dst rowb rows _ ds _ =>
    if copyBad dst rowb rows ds m.count.isSome || slots.any (· % 16 != 0) then some (0x27, dst)
    else firstCause (((m.gate.toList.map fun g => off g.1) ++ slots).flatMap (s.slotProbe m.lane.wg))
  | _ => none

/-- Such slices go on, or stop at row 0 as a row does that fails (R321). (log 40, DEDUCED) -/
def checkSlices (cl : Nat) : Act := fun s =>
  let set (m : Cmd) (f : Cmd → Cmd) : Act := updCluster cl fun c => { c with cmds := c.cmds.map fun x => if x.id = m.id then f x else x }
  Act.each ((s.cluster cl).cmds.filter fun m => m.submitted && !m.checked && m.stopped.isNone) (fun m => match s.sliceFault m with
    | none => set m fun x => { x with checked := true }
    | some (cause, addr) => unitFault 6 cl m.id 0 m.lane m.pc cause addr fun n => set m fun x => { x with stopped := some (0, n) }) s

/-! ### Rows (R320 to R331) -/

/-- Rows, elements or pieces that a command has to deliver. -/
def CKind.total : CKind → Nat
  | .gath _ _ n _ _ _ _ _ | .scat _ _ n _ _ | .scadd _ _ n _ _ _ | .nz _ _ n _ _ _ _ _ _ => n
  | .merge _ _ _ _ _ _ _ _ => 0
  | .cpyl dst _ n _ _ => (dst.toNat % 4 + n + 3) / 4
  | .cpyw _ _ _ rows _ _ _ => rows

/-- What a row of a command comes to now: it stops the command (R321), asks for lines in a slot of UnitRef.engine, waits for a lower
row, or goes on with a value. -/
inductive RowNow (α : Type) where
  | stops (f : Nat × DWord)
  | asks (slot : Nat) (ls : List (Loc × DWord))
  | waits
  | goes (v : α)

/-- A row's next stage. -/
def RowNow.bind {α β : Type} (x : RowNow α) (f : α → RowNow β) : RowNow β := match x with
  | .stops c => .stops c
  | .asks k ls => .asks k ls
  | .waits => .waits
  | .goes v => f v

/-- A translation's outcome. -/
def RowNow.ofSpan (x : Except (Nat × DWord) (List (Loc × Nat))) : RowNow (List (Loc × Nat)) := match x with
  | .error f => .stops f
  | .ok ls => .goes ls

/-- Lines that have arrived for a slot of a command. -/
def Cmd.fetched (m : Cmd) (slot : Nat) : Fetched := m.got.getD slot []

/-- Wait for the lines of places. -/
def State.await (s : State) (m : Cmd) (slot : Nat) (ls : List (Loc × DWord)) : RowNow Unit :=
  if ls.all fun x => s.arrived (m.fetched slot) x.1 then .goes () else .asks slot ls

/-- The bytes of places of a command whose pieces may share an aligned word: lines of a scratchpad, too, are read whole before they are used,
so that no word tears (R288). (log 40, DEDUCED) -/
def State.takeWhole (s : State) (m : Cmd) (ls : List (Loc × Nat)) (va : DWord) : RowNow (List Byte) :=
  let xs := withVa ls va
  if xs.all fun x => s.arrived (m.fetched 0) x.1 && ((m.fetched 0).get? (lineOf x.1.key)).isSome then .goes (s.collect (m.fetched 0) ls)
  else .asks 0 xs

/-- The bytes of places, once their lines have arrived. -/
def State.take (s : State) (m : Cmd) (slot : Nat) (ls : List (Loc × Nat)) (va : DWord) : RowNow (List Byte) :=
  (s.await m slot (withVa ls va)).bind fun _ => .goes (s.collect (m.fetched slot) ls)

/-- Index k of a command (R320). -/
def State.index (s : State) (m : Cmd) (src : Place) (k : Nat) : RowNow Nat :=
  match src with
  | .mem a =>
    let va := a + BitVec.ofNat 64 (4 * k)
    (RowNow.ofSpan (s.spanFor m va 4 { rd := true, wr := false })).bind fun ls =>
      (s.take m 0 ls va).bind fun bs => .goes (natLE bs)
  | _ => .goes (((m.ins[k]?).getD []).headD 0).toNat

/-- The address of a row of the table (R320). (log 40, DEDUCED) -/
def rowAddr (table : DWord) (rowb ix : Nat) : DWord := table + BitVec.ofNat 64 (ix * rowb)

/-- The scale byte of an element at an address on a page of a block-scaled format (R102). -/
def State.scaleLoc (s : State) (m : Cmd) (p : Typ) (x : DWord) : Except (Nat × DWord) (Loc × DWord) :=
  match s.placeFor m.lane m.id x with
  | none => .error (0x03, x)
  | some l =>
    let sa := scaleAddr p l.soff x
    if !canonical sa then .error (0x02, sa)
    else match s.placeFor m.lane m.id sa with
      | none => .error (0x03, sa)
      | some c => if c.rd then .ok (c, sa) else .error (0x04, sa)

/-- A gathered element's value and flags (R109, R324): an infinity is the largest finite value of its form; it, a NaN and a block scale
of 0xFF set INV. (log 55, DEDUCED) -/
def gathElem (p : Typ) (x scale : Nat) : FV × BitVec 7 := match elemValue p x scale with
  | .inf neg => ((formOf p).decode ((formOf p).maxFin neg), fINV)
  | .nan b => (.nan b, fINV)
  | .fin neg m e => (.fin neg m e, 0)

/-- A row decoded (R243, R324): bytes and flags, once its lines and its scale bytes' have arrived. `ls` are its places. -/
def State.decodeRow (s : State) (m : Cmd) (slot : Nat) (p t : Typ) (va : DWord) (ls : List (Loc × Nat)) : RowNow (List Byte × BitVec 7) :=
  let n := (ls.map (·.2)).foldl (· + ·) 0
  let scales := (List.range (n * 8 / p.width)).map fun i => if p.scaled then some (s.scaleLoc m p (va + BitVec.ofNat 64 (elemOff p i).1)) else none
  match firstCause (scales.filterMap fun x => match x with | some (.error f) => some f | _ => none) with
  | some f => .stops f
  | none =>
    let places := scales.filterMap fun x => match x with | some (.ok c) => some c | _ => none
    (s.await m slot (withVa ls va ++ places)).bind fun _ =>
      let row := s.collect (m.fetched slot) ls
      let one (i : Nat) (sc : Option (Except (Nat × DWord) (Loc × DWord))) : Nat × BitVec 7 :=
        let raw := natLE ((row.drop (elemOff p i).1).take (elemSize p))
        let x := if p == .mx4 then (if i % 2 = 1 then raw / 16 else raw % 16) else raw
        let scale := match sc with | some (.ok c) => natLE (s.gotBytes (m.fetched slot) c.1 1) | _ => 0
        let (v, f) := gathElem p x scale
        let (b, g) := (formOf t).write 0 v
        (b, f ||| g)
      let outs := scales.zipIdx.map fun x => one x.2 x.1
      .goes (outs.flatMap fun x => bytesLE (t.width / 8) x.1, (outs.map (·.2)).foldl (· ||| ·) 0)

/-- Row k of an SGATH: its output bytes and flags; or why it stops (R321, R324). (log 40, DEDUCED) -/
def State.gathRow (s : State) (m : Cmd) (table : DWord) (rowb : Nat) (idx : Place) (dec fmt : Option Typ) (k : Nat) :
    RowNow (List Byte × BitVec 7) :=
  (s.index m idx k).bind fun ix =>
    let va := rowAddr table rowb ix
    match dec with
    | none => (RowNow.ofSpan (s.spanFor m va rowb { rd := true, wr := false })).bind fun ls =>
        (s.take m (k + 1) ls va).bind fun bs => .goes (bs, 0)
    | some t =>
      let page := fmt.isNone
      let at_ := s.placeFor m.lane m.id va
      let p := match fmt, at_ with | some f, _ => f | none, some l => l.typ | none, none => .b32
      let unit := if p == .mx4 then 16 else if p == .ds8 then 32 else elemSize p
      if page && canonical va && at_.isSome && (rowb % unit != 0 || table.toNat % unit != 0) then .stops (0x01, va)
      else (RowNow.ofSpan (s.spanFor m va rowb { rd := true, wr := false, fmt := fun q => !page || q == p })).bind fun ls =>
        if !elemPage p then .stops (0x05, va) else s.decodeRow m (k + 1) p t va ls

/-- The bytes of source row k of an SSCAT or SSCADD (R326). -/
def State.srcRow (s : State) (m : Cmd) (rowb : Nat) (idx src : Place) (k : Nat) : List Byte :=
  match src with
  | .scratch off => s.bytes (scratchKey m.lane.wg (off + k * rowb)) rowb
  | _ =>
    let entries := match idx with | .ditch _ => m.ins2 | _ => m.ins
    ((entries.flatten.flatMap fun w => bytesLE 4 w.toNat).drop (k * rowb)).take rowb

/-- The table row that row k of an SSCAT or SSCADD writes: address and places. -/
def State.tableRow (s : State) (m : Cmd) (table : DWord) (rowb : Nat) (idx : Place) (need : Need) (k : Nat) :
    RowNow (DWord × List (Loc × Nat)) :=
  (s.index m idx k).bind fun ix =>
    (RowNow.ofSpan (s.spanFor m (rowAddr table rowb ix) rowb need)).bind fun ls => .goes (rowAddr table rowb ix, ls)

/-- Do two lists of places share a byte? -/
def overlaps (a b : List (Loc × Nat)) : Bool := a.any fun x => b.any fun y => meet (x.1.key, x.2) (y.1.key, y.2)

/-- May row k be written now: no lower row that is still to come shares a byte with it (R326, R327)? -/
def State.inTurn (s : State) (m : Cmd) (table : DWord) (rowb : Nat) (idx : Place) (need : Need) (k : Nat) (ls : List (Loc × Nat)) : Bool :=
  (List.range k).all fun j => m.rows.contains j || match s.tableRow m table rowb idx need j with
    | .goes (_, js) => !overlaps ls js
    | _ => false

/-- What a row does: bytes written, or added as elements of a type, bytes counted, produced words and flags. -/
structure RowEffect where
  puts : List Put := []
  add : Option Typ := none
  counted : Nat := 0
  out : List Word := []
  flags : BitVec 7 := 0

/-- Bytes as words. -/
def wordsOf (bs : List Byte) : List Word := (List.range (bs.length / 4)).map fun i => BitVec.ofNat 32 (natLE ((bs.drop (4 * i)).take 4))

/-- An element's sum (R327). -/
def addElem (t : Typ) (a b : Nat) : Nat × BitVec 7 :=
  match t with
  | .s32 | .n32 => ((a + b) % 2 ^ 32, 0)
  | _ => (formOf t).result 0 (((formOf t).decode a).add 0 ((formOf t).decode b))

/-- Two rows added element by element: bytes and flags; `n` bounds the elements. -/
def addRows (t : Typ) : Nat → List Byte → List Byte → List Byte × BitVec 7
  | 0, _, _ => ([], 0)
  | n + 1, a, b =>
    let z := elemSize t
    let (v, f) := addElem t (natLE (a.take z)) (natLE (b.take z))
    let (rest, g) := addRows t n (a.drop z) (b.drop z)
    (bytesLE z v ++ rest, f ||| g)

/-- A row of an SSCAT or SSCADD: its address is kept for the engine release (R288). -/
def State.scatRow (s : State) (m : Cmd) (table : DWord) (rowb : Nat) (idx src : Place) (need : Need) (add : Option Typ) (k : Nat) : RowNow RowEffect :=
  (s.tableRow m table rowb idx need k).bind fun x =>
    if !s.inTurn m table rowb idx need k x.2 then .waits
    else .goes { puts := spread x.2 x.1 (s.srcRow m rowb idx src k), add := add, out := [x.1.setWidth 32, (x.1 >>> 32).setWidth 32] }

/-- Row k of a command: what it comes to now. -/
def State.rowOf (s : State) (m : Cmd) (k : Nat) : RowNow RowEffect :=
  match m.kind with
  | .gath table rowb _ ob idx dst dec fmt => (s.gathRow m table rowb idx dec fmt k).bind fun x => match dst with
      | .scratch off =>
        let bs := x.1.take ob
        .goes { puts := [{ at_ := s.scratchLoc (s.gangOf m.lane) m.lane.wg (off + k * ob), va := s.ownWindow m.lane.wg (off + k * ob), bytes := bs }],
                counted := bs.length, flags := x.2 }
      | _ => .goes { out := wordsOf ((x.1 ++ List.replicate (ob - x.1.length) 0).take ob), flags := x.2 }
  | .scat table rowb _ idx src => s.scatRow m table rowb idx src { rd := false, wr := true, noHost := true } none k
  | .scadd table rowb _ idx src t => s.scatRow m table rowb idx src { rd := true, wr := true, noHost := true, fmt := fun p => !p.scaled } (some t) k
  | .nz src _ _ _ t _ _ from_ _ =>
    let z := elemSize t
    (s.takeWhole m (partOf from_ (k * z) z) (src + BitVec.ofNat 64 (k * z))).bind fun bs =>
      let v := natLE bs
      let zero := v == 0 || ((t == .f32 || t.isHalf) && v == 2 ^ (t.width - 1))
      .goes { out := if zero then [] else [BitVec.ofNat 32 k, BitVec.ofNat 32 v] }
  | .cpyl dst src n from_ to_ =>
    let lo := if k = 0 then 0 else dst.toNat / 4 * 4 + 4 * k - dst.toNat
    let hi := min n (dst.toNat / 4 * 4 + 4 * (k + 1) - dst.toNat)
    (s.takeWhole m (partOf from_ lo (hi - lo)) (src + BitVec.ofNat 64 lo)).bind fun bs =>
      .goes { puts := spread (partOf to_ lo (hi - lo)) (dst + BitVec.ofNat 64 lo) bs, counted := hi - lo }
  | .cpyw src dst rowb rows ss ds _ =>
    let a := plus src (k * ss)
    let b := plus dst (k * ds)
    if copyBad dst rowb rows ds m.count.isSome then .stops (0x27, b)
    else match s.spanFor m a rowb { rd := true, wr := false }, s.spanFor m b rowb { rd := false, wr := true } with
      | .ok ls, .ok ts => (s.take m (k + 1) ls a).bind fun bs => .goes { puts := spread ts b bs, counted := rowb }
      | x, y => .stops ((firstCause (spanFails x ++ spanFails y)).getD (0x03, a))
  | .merge _ _ _ _ _ _ _ _ => .waits

/-- Change a command. -/
def updCmd (cl id : Nat) (f : Cmd → Cmd) : Act := updCluster cl fun c => { c with cmds := c.cmds.map fun x => if x.id = id then f x else x }

/-- Does the copy engine run a command? -/
def CKind.copies : CKind → Bool
  | .cpyl _ _ _ _ _ | .cpyw _ _ _ _ _ _ _ => true
  | _ => false

/-- Is a command's request under way? -/
def AccOp.ofCmd (o : AccOp) (cl : Nat) (p : Nat → Bool) : Bool := match o.unit with
  | some (.engine c id _) => c == cl && p id
  | _ => false

/-- The line requests that an engine may still start in this cycle (R317). -/
def State.startable (s : State) (cl : Nat) (copies : Bool) : Nat :=
  let c := s.cluster cl
  let p := if copies then c.pace.2 else c.pace.1
  let used := if p.1 = s.now then p.2 else 0
  let mine (id : Nat) : Bool := c.cmds.any fun m => m.id == id && m.kind.copies == copies
  let out := (s.reqs.filter fun r => !r.done && r.acc.any fun a => a.op.reads && a.op.ofCmd cl mine).length
  min (2 - used) (1024 - out)

/-- An engine starts line requests; a line of a scratchpad is there at once. -/
def startLines (cl : Nat) (m : Cmd) (slot : Nat) (ls : List (Loc × DWord)) : Act := fun s =>
  let near := ((ls.filter fun x => x.1.scratch.isSome).map fun x => lineOf x.1.key).dedup.filter fun l => ((m.fetched slot).get? l).isNone
  let xs := (s.unasked (.engine cl m.id slot) (m.fetched slot) ls).take (s.startable cl m.kind.copies)
  let note (p : Nat × Nat) : Nat × Nat := (s.now, (if p.1 = s.now then p.2 else 0) + xs.length)
  Act.all [
    Act.when (!near.isEmpty) (updCmd cl m.id fun y => { y with
      got := y.got.set slot (near.foldl (fun g l => g.set l (s.bytes (l * 128) 128, s.now)) (y.got.getD slot [])) }),
    Act.when (!xs.isEmpty) (Act.all [
    updCluster cl fun c => { c with pace := if m.kind.copies then (c.pace.1, note c.pace.2) else (note c.pace.1, c.pace.2) },
    askLines (.engine cl m.id slot) cl m.lane m.pc m.ch xs])] s

/-- Elements that SSCADD adds (R327): to scratchpad at once, elsewhere at their home agents, one request for each line. -/
def addUnit (cl : Nat) (m : Cmd) (t : Typ) (ws : List Put) : Act := Act.each ws fun w => fun s =>
  if w.at_.scratch.isSome then
    let (sum, f) := addRows t (w.bytes.length / elemSize t) (s.bytes w.at_.key w.bytes.length) w.bytes
    Act.all [storeBytes w.at_.key sum, setFlags m.lane f] s
  else sendReq (s.ctxOf m.lane) cl (lineOf w.at_.key) w.at_.home w.at_.cache []
    [unitAccess m.lane m.pc w.va w.at_.key w.bytes.length m.ch (.unitAdd (.engine cl m.id 0) t w.bytes)] s

/-- Has a row been started: have lines of it been asked for? -/
def State.rowBegun (s : State) (cl : Nat) (m : Cmd) (k : Nat) : Bool := !(m.fetched (k + 1)).isEmpty ||
  s.reqs.any fun r => r.acc.any fun a => a.op.unit == some (.engine cl m.id (k + 1))

/-- Has a WEXP that the lane of a command issued before it on the weir that it counts into still to take effect (R323)? -/
def State.expAhead (s : State) (m : Cmd) : Bool := s.heldWeirs.any fun h => decide (h.lane = m.lane) && m.count == some h.key &&
  decide (h.id < m.id) && (match h.op with | .exp _ => true | _ => false)

/-- ENGINE_ROW (R321, R325, R328): a fired command goes on with a row: it asks for lines that the row needs, or delivers the row, or the
row stops it. A command that is stopped goes on with the rows that it has started. (log 39, DEDUCED; log 54, DEDUCED) -/
def stepEngineRow (cl cmd row : Nat) : Act := fun s =>
  match (s.cluster cl).cmds.find? fun m => m.id == cmd with
  | none => []
  | some m =>
    if !m.fired || m.dropped || decide (m.kind.total ≤ row) || m.rows.contains row || (m.stopped.isSome && !s.rowBegun cl m row) ||
        s.expAhead m then []
    else match s.rowOf m row with
    | .waits => []
    | .asks slot ls => startLines cl m slot ls s
    | .stops (cause, addr) => Act.when m.stopped.isNone
        (unitFault 6 cl m.id row m.lane m.pc cause addr fun n => updCmd cl m.id fun x => { x with stopped := some (row, n), halted := true }) s
    | .goes r => Act.all [
        match r.add with
        | some t => addUnit cl m t r.puts
        | none => storeUnit (.engine cl m.id 0) cl m.lane m.pc m.ch [] [] r.puts,
        setFlags m.lane r.flags,
        Act.opt m.count fun key => weirChange key m.lane m.pc (·.count r.counted),
        updCmd cl m.id fun x => { x with
          rows := x.rows ++ [row], got := x.got.del (row + 1), out := if r.out.isEmpty then x.out else x.out.set row r.out }] s

/-! ### Completion (R303, R317) -/

/-- The words that a command produced, in ascending row. -/
def Cmd.produced (m : Cmd) : List (List Word) := (m.out.mergeSort fun a b => decide (a.1 ≤ b.1)).map (·.2)

/-- Cut words into entries of a width. -/
def cut (w : Nat) : Nat → List Word → List (List Word)
  | 0, _ => []
  | n + 1, ws => if ws.isEmpty then [] else ws.take w :: cut w n (ws.drop w)

/-- The entries that a command pushes, with the flags and ORD of a merge. -/
def Cmd.entries (m : Cmd) (ew : Nat) : List (List Word) × BitVec 7 × Bool :=
  match m.kind with
  | .merge _ _ _ na nb op dropz t =>
    let (es, f, o) := mergeRun t op dropz (na + nb + 1) none none (m.ins.map pairEntry) (m.ins2.map pairEntry)
    (es.map fun e => [BitVec.ofNat 32 e.1, BitVec.ofNat 32 e.2], f, o)
  | .nz _ _ _ _ _ _ _ _ _ => (m.produced.map fun e => (e ++ List.replicate ew 0).take ew, 0, false)
  | .gath _ _ _ _ _ _ _ _ => (m.produced.flatMap fun r => cut ew r.length r, 0, false)
  | _ => ([], 0, false)

/-- The ranges of memory that a command has written (R288). -/
def Cmd.ranges (m : Cmd) : List (DWord × Nat) :=
  let at_ (r : List Word) : DWord := (r[1]?).getD 0 ++ (r[0]?).getD 0
  match m.kind with
  | .scat _ rowb _ _ _ | .scadd _ rowb _ _ _ _ => m.produced.map fun r => (at_ r, rowb)
  | .nz _ dst _ none _ _ _ _ _ => [(dst, 4 * m.produced.length)]
  | .cpyl dst _ n _ _ => [(dst, n)]
  | .cpyw _ dst rowb _ _ ds _ => m.rows.map fun (r : Nat) => (plus dst (r * ds), rowb)
  | _ => []

/-- The sluices, by memory key, to which the destination ranges of a command are bound (R288). -/
def State.boundTo (s : State) (m : Cmd) : List Nat :=
  match s.ctxs.get? (s.ctxOf m.lane) with
  | none => []
  | some c =>
    let hit (b : Binding) : Bool := b.v && m.ranges.any fun r =>
      decide (0 < r.2) && decide (r.1.toNat < b.start.toNat + b.len.toNat) && decide (b.start.toNat < r.1.toNat + r.2)
    ((c.binds.filter hit).map (·.sluice)).dedup.filterMap fun va => (s.at m.lane va).map (·.key)

/-- Engine releases (R288): RELGEN of each such sluice rises. -/
def engineRelease (m : Cmd) : Act := fun s => Act.each (s.boundTo m) (fun key => Act.read fun t =>
  putSluice key { t.sluice key with relgen := (t.sluice key).relgen + 1 }) s

/-- The writes of SNZ.BUF, made as it completes. -/
def Cmd.bufBytes (m : Cmd) : List Byte := m.produced.flatMap fun e => bytesLE 4 ((e.headD 0).toNat)

/-- The stores of SNZ.BUF: its entries, at the places that its probe found (R329). -/
def Cmd.bufPuts (m : Cmd) : List Put := match m.kind with
  | .nz _ dst _ none _ _ _ _ to_ => spread (partOf to_ 0 (4 * m.produced.length)) dst m.bufBytes
  | _ => []

/-- Has every request of a command been performed? -/
def State.cmdDone (s : State) (cl : Nat) (m : Cmd) : Bool :=
  !s.reqs.any fun r => !r.done && r.acc.any fun a => a.op.ofCmd cl (· == m.id)

/-- ENGINE_COMMAND_COMPLETE (R303, R317): every row is delivered and performed, and the commands fired before it into its output, or
into the merge unit, have completed. SNZ.BUF's entries go out first. Entries are pushed, the reservation is returned, the arrival is
recorded. -/
def stepComplete (cl cmd : Nat) : Act := fun s =>
  let c := s.cluster cl
  match c.cmds.find? fun m => m.id == cmd with
  | none => []
  | some m =>
    let merge (x : Cmd) : Bool := match x.kind with | .merge _ _ _ _ _ _ _ _ => true | _ => false
    let before := c.cmds.any fun x => x.fired && decide (x.arr < m.arr) &&
      ((merge x && merge m) || ((x.output c).map (·.1) == (m.output c).map (·.1) && (m.output c).isSome))
    if !m.fired || m.stopped.isSome || before || !(m.dropped || decide (m.rows.length = m.kind.total)) || !s.cmdDone cl m ||
        (s.boundTo m).any (fun k => s.dev.hostCopies.contains (lineOf k) || s.pieceMoves (lineOf k)) then []
    else if !m.flushed && !m.bufPuts.isEmpty then Act.all [
      updCmd cl m.id fun x => { x with flushed := true },
      storeUnit (.engine cl m.id 0) cl m.lane m.pc m.ch [] [] m.bufPuts] s
    else
      let ew := match m.output c with | some (p, _) => (match c.ports.get? p with | some d => d.ew | none => 1) | none => 1
      let (es, f, ord) := m.entries ew
      Act.all [
        setFlags m.lane f,
        Act.opt (m.output c) fun x => updPort' cl x.1 fun d =>
          let d1 := es.foldl Ditch.push d
          { d1 with rsv := d1.rsv - BitVec.ofNat 32 x.2, ord := d1.ord || ord },
        engineRelease m,
        Act.opt m.arrive fun key => weirChange key m.lane m.pc Weir.arrive,
        match m.kind with
        | .nz _ _ _ _ _ (some reg) (some res) _ _ => updLane m.lane fun l => l.resolve res (if reg < 256 then [(reg, BitVec.ofNat 32 m.produced.length)] else [])
        | _ => Act.skip,
        updCluster cl fun c => { c with cmds := c.cmds.filter fun x => x.id != m.id }] s

/-- Drain one engine command (R406): withdrawn when it has not fired; its rest dropped when a fault has stopped it. (log 39, DEDUCED) -/
def drainCmd (cl : Nat) (m : Cmd) : Act := fun s =>
  if !m.fired then
    Act.all [Act.opt m.stopped fun x => closeRecord (s.ctxOf m.lane) x.2, withdrawCmd cl m,
      Act.when (!m.submitted) (updLane m.lane fun l => { l with cpyw := l.cpyw - 1 }),
      updParks m.lane fun p => { p with queue := if p.queue = some (.stream m.id) then none else p.queue }] s
  else match m.stopped with
    | some (_, n) => Act.all [closeRecord (s.ctxOf m.lane) n, updCmd cl m.id fun x => { x with stopped := none, dropped := true }] s
    | none => []

end Sys2Proof.Machine
end

