-- ==== Sys2Proof/Machine/Task.lean ====
section
/-! DEFINITION. Machine/Task.lean: cisterns and task records (R344 to R346), the hardware work queues (R333, R334, R429),
and the seven task and queue majors (R347 to R354). -/

namespace Sys2Proof.Machine

open Sys2Proof

/-! ### Tables -/

/-- Descriptor `k` of a context's table in loaded form (R82, R367); none where it names no valid one. -/
def State.desc (s : State) (ctx k : Nat) : Option Desc :=
  match s.ctxs.get? ctx with
  | none => none
  | some c =>
    if c.kdn.toNat ≤ k then none
    else
      let v := s.num (c.kdtab.toNat + 64 * k) 64
      if bits v 79 64 = 0 then none
      else some
        { entry := BitVec.ofNat 64 (bits v 63 0), lanes := bits v 79 64, gang := bits v 87 80, regs := 8 * bits v 95 88,
          scratch := bits v 127 96, undo := bits v 159 128, tiles := bits v 183 176, stack := bits v 223 192,
          resx := bits v 271 256, resn := bits v 287 272 }

/-! ### Records in registers -/

/-- The 16 words of a record operand. -/
def Env.record (e : Env) (o : Opnd) : List Word := e.group o 16
/-- JOIN of a task record. -/
def joinOf (ws : List Word) : DWord := (ws[3]?).getD 0 ++ (ws[2]?).getD 0
/-- KDI of a task record. -/
def kdiOf (ws : List Word) : Nat := ((ws[0]?).getD 0).toNat % 2 ^ 16

/-- R348, order 1. -/
def Env.disciplineStop (e : Env) : Option Stop := entryStop (!e.l.regions.isEmpty) e 0x1A
/-- R348, order 3: the probe of a join counter, as for an atomic; a zero address is exempt. -/
def Env.joinStop (e : Env) (va : DWord) : Option Stop :=
  if va = 0 then none
  else Sys2Proof.Machine.probeStop (e.s.probeAligned (e.s.ctxOf e.k) (e.s.gangOf e.k) va 8 atomNeed)

/-- Where a lane's join counter lies; none for an address of 0. The probe has passed. -/
def Env.joinAt (e : Env) (va : DWord) : Option (Loc × DWord) := if va = 0 then none else (e.s.at e.k va).map fun l => (l, va)

/-- A lane's step on a join counter, issued at `pc` as its access number `seq`: the lane, its access and where it leads. -/
def State.joinStep (s : State) (k : LaneId) (pc : DWord) (seq : Nat) (op : AccOp) (x : Loc × DWord) : Access × Loc :=
  ({ lane := k, slot := s.slot k, pc := pc, seq := seq, va := x.2, key := x.1.key, size := 8, ch := 0, op := op }, x.1)

/-- Send steps on join counters, in one request for each line (R261), once the accesses `after` of each lane are performed. -/
def sendJoins (after : LaneId → List Nat) (xs : List (Access × Loc)) : Act := fun s => Act.all [
  Act.each xs fun x => Act.all [
    keepLeaf (s.ctxOf x.1.lane) x.1.va,
    sendWback (s.clusterOf x.1.lane) (lineOf x.1.key), dropCleanLine (s.clusterOf x.1.lane) (lineOf x.1.key)],
  sendLines ((xs.map (·.1.lane)).dedup.flatMap after) xs] s

/-! ### The cistern (R345, R346) -/

/-- The part of a context's overflow area that belongs to a cluster: base and capacity in records. -/
def State.part (s : State) (ctx cl : Nat) : Nat × Nat :=
  match s.ctxs.get? ctx with
  | some c => (c.ovfb.toNat + cl * (c.ovfn.toNat / 144) * 64, c.ovfn.toNat / 144)
  | none => (0, 0)
/-- Records of a context that a cluster's part holds: oldest index, and one list for each. -/
def Cluster.spilled (c : Cluster) (ctx : Nat) : Nat × List (List Nat) := c.parts.getD ctx (0, [])

/-- What becomes of a TSPAWN (R349). -/
inductive Entry where
  | enter | spill | fail | exhausted
  deriving DecidableEq, Repr

/-- The lanes of one TSPAWN in order: `room` in the cistern, `held` of `cap` records in the part. -/
def spawnPlan (try_ : Bool) (cap : Nat) : Nat → Nat → List Env → List (LaneId × Entry)
  | _, _, [] => []
  | room, held, e :: es =>
    if 0 < room ∧ held = 0 then (e.k, .enter) :: spawnPlan try_ cap (room - 1) held es
    else if try_ then (e.k, .fail) :: spawnPlan try_ cap room held es
    else if held < cap then (e.k, .spill) :: spawnPlan try_ cap room (held + 1) es
    else (e.k, .exhausted) :: spawnPlan try_ cap room held es

/-- A take from a cluster's cistern or a spawn into it: a written CISTHW takes effect (R427). -/
def cisternTurns (cl : Nat) : Act := updCluster cl fun c => { c with cisthw := c.cisthwSet }

/-- The lanes of one TSPAWN whose records enter: entry is a release at GANG scope, and a record is takeable after its JOIN step (R349). -/
def spawnEnter (cl : Nat) (es : List Env) : Act := Act.when (!es.isEmpty) (Act.all [
  sendWbacks cl,
  Act.read fun t => Act.all [
    sendJoins (fun _ => []) (es.filterMap fun e => (e.joinAt (joinOf (e.record e.op.fy))).map (t.joinStep e.k e.l.pc e.l.seq .joinInc)),
    Act.each es fun e => Act.read fun u => updCluster cl fun c => { c with
      cistern := c.cistern ++ [{ ctx := t.ctxOf e.k, words := e.record e.op.fy, after := t.fenceSet e.k 3 ++ u.sentFor e.k e.l.seq }] }],
  cisternTurns cl,
  resultNow (es.map fun e => (e, (destBool e.op.fx true, 0)))])

/-- A lane whose record spills parks until it is written. (log 30, DEDUCED) -/
def spawnSpill (e : Env) : Act := Act.all [
  sendWbacks e.cl,
  Act.fresh fun r => Act.read fun t => Act.all [
    addResult e.k { id := r, silent := Op.silent e.op, vals := none, flags := 0, err := none, readyAt := t.now + 1, req := none },
    updParks e.k fun p => { p with
      queue := some (.spawn e.op (e.record e.op.fy) (e.joinAt (joinOf (e.record e.op.fy))) r r (t.fenceSet e.k 3)) }]]

/-- The lanes of a cluster that wait to spill a record, in the order of their arrival. -/
def State.spillers (s : State) (cl : Nat) : List (LaneId × QueuePark) :=
  let xs := s.lanes.filterMap fun l => match l.2.parks.queue with
    | some (.spawn op ws j res arr after) => if s.clusterOf l.1 = cl then some (arr, l.1, QueuePark.spawn op ws j res arr after) else none
    | _ => none
  (xs.mergeSort fun a b => decide (a.1 ≤ b.1)).map (·.2)

/-- TSPAWN (R348, R349). -/
def issueTspawn (es : List Env) : Act := fun s =>
  match es with
  | [] => []
  | e0 :: _ =>
    let bad (e : Env) : Option Stop :=
      let ws := e.record e.op.fy
      firstStop [e.disciplineStop,
        entryStop (decide (2 ^ 16 ≤ ((ws[0]?).getD 0).toNat) || (ws[1]?).getD 0 != 0 || (s.desc (s.ctxOf e.k) (kdiOf ws)).isNone) e 0x28,
        e.joinStop (joinOf ws)]
    let c := s.cluster e0.cl
    let ctx := s.ctxOf e0.k
    let waiting := ((s.spillers e0.cl).filter fun x => s.ctxOf x.1 == ctx).length
    let plan := spawnPlan (e0.mn == 1) ((s.part ctx e0.cl).2 - waiting) (4096 - c.cistern.length) (c.spilled ctx).2.length
      (s.ordered (es.filter fun e => (bad e).isNone))
    let what (e : Env) : Entry := ((plan.find? fun x => x.1 == e.k).map (·.2)).getD .exhausted
    split es (fun e => firstStop [bad e, entryStop (what e == .exhausted) e 0x2A]) (fun ok => Act.all [
      spawnEnter e0.cl ((s.ordered ok).filter fun e => what e == .enter),
      Act.each ((s.ordered ok).filter fun e => what e == .spill) spawnSpill,
      resultNow ((s.ordered ok).filterMap fun e => if what e == .fail then some (e, (destBool e.op.fx false, 0)) else none),
      Act.each ok fun e => updLane e.k fun l => { l with spawned := some 0 },
      countAccess ok, retire ok]) s

/-- The record of a context that a TTAKE takes now, with its place (R346, R350). (log 30, DEDUCED) -/
def State.takeable (s : State) (cl ctx : Nat) : Option (CRec × Nat) :=
  let c := s.cluster cl
  let xs := c.cistern.zipIdx.filter fun x => x.1.ctx == ctx && s.allPerformed x.1.after
  if c.cisthwSet.toNat < c.cistern.length then xs.getLast? else xs.head?

/-- Words of a value of 64 bits. -/
def words64 (v : DWord) : List Word := [v.setWidth 32, (v >>> 32).setWidth 32]

/-- The registers of a TTAKE or QPOP: 16 words and the predicate. (log 5, DESIGN CHOICE) -/
def groupWrites (op : Op) (ws : List Word) (ok : Bool) : Writes :=
  dest op.fx ws ++ (predNo op.fz).toList.map fun p => (0x100 + p, truth ok)

/-- Take a record for a lane (R350): its later reads find every write that the entry released (R349). (log 30, DEDUCED) -/
def takeRecord (k : LaneId) (op : Op) (res : Nat) (x : CRec × Nat) : Act := fun s =>
  let entry := match s.desc x.1.ctx (kdiOf x.1.words) with | some d => d.entry | none => 0
  Act.all [
    updCluster (s.clusterOf k) fun c => { c with cistern := c.cistern.eraseIdx x.2 },
    cisternTurns (s.clusterOf k),
    dropCleanAll (s.clusterOf k),
    updLane k fun l => l.resolve res (groupWrites op (words64 entry ++ words64 (joinOf x.1.words) ++ x.1.words.drop 4) true)] s

/-- The waiting takers of a cluster, in the order of their arrival: lane, operation, result. -/
def State.takers (s : State) (cl : Nat) : List (LaneId × Op × Nat) :=
  let xs := s.lanes.filterMap fun l => match l.2.parks.queue with
    | some (.take op res arr) => if s.clusterOf l.1 = cl then some (arr, l.1, op, res) else none
    | _ => none
  (xs.mergeSort fun a b => decide (a.1 ≤ b.1)).map (·.2)

/-- A lane leaves its queue park. -/
def leaveQueue (k : LaneId) : Act := updParks k fun p => { p with queue := none }

/-- A lane's record is written to the tail of its context's part, with its JOIN step (R345, R349). -/
def spillRecord (cl : Nat) (k : LaneId) (q : QueuePark) : Act := fun s => match q with
  | .spawn op ws j res _ after =>
    let ctx := s.ctxOf k
    let (base, cap) := s.part ctx cl
    let (first, held) := (s.cluster cl).spilled ctx
    let seq := match s.lanes.get? k with | some l => l.seq | none => 0
    Act.all [
      storeBytes (base + (first + held.length) % cap * 64) (ws.flatMap fun w => bytesLE 4 w.toNat),
      sendJoins (fun _ => []) (j.map (s.joinStep k (s.pcOf k - 12) seq .joinInc)).toList,
      Act.read fun t => updCluster cl fun c => { c with parts := c.parts.set ctx (first, held ++ [after ++ t.sentFor k seq]) },
      cisternTurns cl,
      updLane k fun l => l.resolve res (destBool op.fx true),
      leaveQueue k] s
  | _ => []

/-- The lanes that wait to spill write their records, each once its earlier accesses are performed and no earlier one of its context
waits; `n` bounds the work. (log 30, DEDUCED) -/
def serveSpills (cl : Nat) : Nat → Act
  | 0 => Act.skip
  | n + 1 => fun s =>
    let xs := s.spillers cl
    let first (x : LaneId × QueuePark) : Bool := (xs.find? fun y => s.ctxOf y.1 == s.ctxOf x.1) == some x
    match xs.find? fun x => first x && decide (((s.cluster cl).spilled (s.ctxOf x.1)).2.length < (s.part (s.ctxOf x.1) cl).2) &&
        (match x.2 with | .spawn _ _ _ _ _ after => s.allPerformed after | _ => false) with
    | some x => Act.seq (spillRecord cl x.1 x.2) (serveSpills cl n) s
    | none => []

/-- Refill the cistern from the parts, and serve the takers that head their contexts (R345, R350); `n` bounds the work. -/
def serveCistern (cl : Nat) : Nat → Act
  | 0 => Act.skip
  | n + 1 => fun s =>
    let c := s.cluster cl
    let full := c.parts.filter fun p => !p.2.2.isEmpty
    let refill := if c.cistern.length < 4096 then s.choose cl none (full.map fun p => some p) else none
    match refill with
    | some (ctx, first, after :: rest) =>
      let (base, cap) := s.part ctx cl
      let v := s.num (base + first % cap * 64) 64
      Act.seq (updCluster cl fun c => { c with
          cistern := c.cistern ++ [{ ctx := ctx, words := (List.range 16).map fun i => BitVec.ofNat 32 (v / 2 ^ (32 * i)), after := after }],
          parts := c.parts.set ctx ((first + 1) % cap, rest) }) (serveCistern cl n) s
    | _ =>
      match (s.takers cl).findSome? fun t => (s.takeable cl (s.ctxOf t.1)).map fun x => (t, x) with
      | some (t, x) => Act.all [takeRecord t.1 t.2.1 t.2.2 x, leaveQueue t.1, serveCistern cl n] s
      | none => []

/-- TTAKE (R350). -/
def issueTtake (es : List Env) : Act := fun s => Act.all [
  retire es,
  withIds (s.ordered es) fun ys => Act.each ys fun y => Act.all [
    fun t => addResult y.1.k { id := y.2, silent := Op.silent y.1.op, vals := none, flags := 0, err := none, readyAt := t.now + 1, req := none } t,
    if y.1.mn = 0 then updParks y.1.k fun p => { p with queue := some (.take y.1.op y.2 y.2) }
    else fun t =>
      let ctx := t.ctxOf y.1.k
      match t.takeable y.1.cl ctx, (t.takers y.1.cl).any fun w => t.ctxOf w.1 == ctx with
      | some x, false => takeRecord y.1.k y.1.op y.2 x t
      | _, _ => updLane y.1.k (fun l => l.resolve y.2 (groupWrites y.1.op (List.replicate 16 0) false)) t]] s

/-! ### Join counters (R351, R352) -/

/-- TJOIN. -/
def issueTjoin (es : List Env) : Act := fun s =>
  split es (fun e => e.joinStop (e.src64 .n64 e.op.fy)) (fun ok => Act.all [
    Act.each ((ok.filter fun e => e.src64 .n64 e.op.fy != 0).map (·.cl)).dedup sendWbacks,
    Act.read fun t => sendJoins (t.fenceSet · 4) (ok.filterMap fun e =>
      (e.joinAt (e.src64 .n64 e.op.fy)).map (t.joinStep e.k e.l.pc e.l.seq .joinDec)),
    countAccess ok, retire ok]) s

/-- The requests on a line, of a lane or write-backs of its cluster, and its STEs to the line, that have not been performed (R239). -/
def State.pendingOn (s : State) (k : LaneId) (line : Nat) : List Nat :=
  (s.reqs.filter fun r => !r.done && ((r.line == line && r.isWback (s.clusterOf k)) ||
    r.acc.any fun a => a.lane == k && a.op.own && (r.line == line || lineOf a.span.1 == line))).map (·.id) ++
  (s.slrels.filter fun r => r.lane == k && lineOf r.key == line).map (·.id)

/-- TJWAIT. (log 30, DEDUCED) -/
def issueTjwait (es : List Env) : Act :=
  split es (fun e => e.joinStop (e.src64 .n64 e.op.fy)) fun ok => Act.all [
    countAccess ok, retire ok,
    Act.each ok fun e => Act.when (e.src64 .n64 e.op.fy != 0) (Act.opt (e.s.at e.k (e.src64 .n64 e.op.fy)) fun l => Act.all [
      sendWback e.cl (lineOf l.key),
      Act.fresh fun n => Act.read fun s => updParks e.k fun p => { p with
        queue := some (.join (e.src64 .n64 e.op.fy) l.key (s.pendingOn e.k (lineOf l.key)) n none) }])]

/-- TJWAIT parks whose counter reads 0 end; the end is an observation (R352). (log 30, DEDUCED) -/
def serveJoins : Act := fun s =>
  let key? (l : Lane) : Option (Nat × List Nat) := match l.parks.queue with | some (.join _ k a _ _) => some (k, a) | _ => none
  Act.each (s.lanes.filter fun l => match key? l.2 with
      | some (k, a) => s.allPerformed a && s.keyReach k && !s.pieceMoves (lineOf k) && s.homeNum k 8 == 0
      | none => false) (fun l => Act.all [dropCleanAll (s.clusterOf l.1), leaveQueue l.1]) s

/-- A TJWAIT at a home that cannot be reached is held from now on (R432). -/
def holdJoins : Act := fun s => Act.each s.lanes (fun l => match l.2.parks.queue with
  | some (.join va k a n none) => Act.when (s.allPerformed a && !s.keyReach k)
      (updParks l.1 fun p => { p with queue := some (.join va k a n (some s.now)) })
  | _ => Act.skip) s

/-! ### Item queues and LAUNCH (R353, R354) -/

/-- R348, order 2, for QPUSH and QPOP. QPOP still reads the records that a queue without EN holds (R429). -/
def Env.queueStop (e : Env) (o : Opnd) (pop : Bool) : Option Stop :=
  let q := (e.src o).toNat
  entryStop (decide (2047 < q) || (!(e.s.wq q).en && !(pop && !(e.s.wq q).recs.isEmpty)) || (e.s.wq q).ctx != e.s.ctxOf e.k || (pop && !(e.s.wq q).item)) e 0x29

/-- A record's bits. -/
def recordBits (ws : List Word) : BitVec 512 := BitVec.ofNat 512 (wordsNat ws)
/-- The words of a record. -/
def recordWords (v : BitVec 512) : List Word := (List.range 16).map fun i => BitVec.ofNat 32 (v.toNat / 2 ^ (32 * i))

/-- Has a queue room for a record? -/
def WQ.room (q : WQ) : Bool := q.en && decide (q.recs.length < q.depth)
/-- Enqueue a record. -/
def enqueue (q : Nat) (v : BitVec 512) (after : List Nat) : Act := fun s =>
  [.queue q (some { s.wq q with recs := (s.wq q).recs ++ [(v, after)] })]
/-- Take a queue's head record. -/
def dequeue (q : Nat) : Act := fun s => [.queue q (some { s.wq q with recs := (s.wq q).recs.drop 1 })]
/-- The head record, when it can be taken. -/
def State.headRec (s : State) (q : Nat) : Option (BitVec 512) :=
  match (s.wq q).recs with
  | (v, after) :: _ => if s.allPerformed after then some v else none
  | [] => none

/-- Enqueue for a lane: a release at DEV scope. -/
def pushRecord (k : LaneId) (op : Op) (q : Nat) (ws : List Word) (res : Nat) : Act := Act.all [
  Act.read fun s => sendWbacks (s.clusterOf k),
  Act.read fun s => enqueue q (recordBits ws) (s.fenceSet k 4),
  updLane k fun l => l.resolve res (destBool op.fx true)]

/-- Take for a lane: an observation. -/
def popRecord (k : LaneId) (op : Op) (q : Nat) (v : BitVec 512) (res : Nat) : Act := Act.all [
  dequeue q,
  Act.read fun s => dropCleanAll (s.clusterOf k),
  updLane k fun l => l.resolve res (groupWrites op (recordWords v) true)]

/-- The lanes that wait to push to a queue, in order of arrival. -/
def State.pushers (s : State) (q : Nat) : List (LaneId × Op × List Word × Nat) :=
  let xs := s.lanes.filterMap fun l => match l.2.parks.queue with
    | some (.push op n ws res arr) => if n = q then some (arr, l.1, op, ws, res) else none
    | _ => none
  (xs.mergeSort fun a b => decide (a.1 ≤ b.1)).map (·.2)

/-- The lanes that wait to take from a queue, in order of arrival. -/
def State.poppers (s : State) (q : Nat) : List (LaneId × Op × Nat) :=
  let xs := s.lanes.filterMap fun l => match l.2.parks.queue with
    | some (.pop op n res arr) => if n = q then some (arr, l.1, op, res) else none
    | _ => none
  (xs.mergeSort fun a b => decide (a.1 ≤ b.1)).map (·.2)

/-- Serve the poppers and pushers that wait at a queue (R353); `n` bounds the work. (log 30, DEDUCED) -/
def serveItems (q : Nat) : Nat → Act
  | 0 => Act.skip
  | n + 1 => fun s =>
    match (s.wq q).item, s.poppers q, s.headRec q with
    | true, (k, op, res) :: _, some v => Act.all [popRecord k op q v res, leaveQueue k, serveItems q n] s
    | _, _, _ => match (s.wq q).room, s.pushers q with
      | true, (k, op, ws, res) :: _ => Act.all [pushRecord k op q ws res, leaveQueue k, serveItems q n] s
      | _, _ => []

/-- QPUSH. -/
def issueQpush (es : List Env) : Act := fun s =>
  split es (fun e => firstStop [e.disciplineStop, e.queueStop e.op.fz false]) (fun ok => Act.all [
    countAccess ok, retire ok,
    withIds (s.ordered ok) fun ys => Act.each ys fun y => Act.all [
      fun t => addResult y.1.k { id := y.2, silent := Op.silent y.1.op, vals := none, flags := 0, err := none, readyAt := t.now + 1, req := none } t,
      fun t =>
        let q := (y.1.src y.1.op.fz).toNat
        let ws := y.1.record y.1.op.fy
        if (t.wq q).room && (t.pushers q).isEmpty then pushRecord y.1.k y.1.op q ws y.2 t
        else if y.1.mn = 0 then updParks y.1.k (fun p => { p with queue := some (.push y.1.op q ws y.2 y.2) }) t
        else updLane y.1.k (fun l => l.resolve y.2 (destBool y.1.op.fx false)) t]]) s

/-- QPOP. (log 30, DEDUCED) -/
def issueQpop (es : List Env) : Act := fun s =>
  split es (fun e => e.queueStop e.op.fy true) (fun ok => Act.all [
    retire ok,
    withIds (s.ordered ok) fun ys => Act.each ys fun y => Act.all [
      fun t => addResult y.1.k { id := y.2, silent := Op.silent y.1.op, vals := none, flags := 0, err := none, readyAt := t.now + 1, req := none } t,
      fun t =>
        let q := (y.1.src y.1.op.fy).toNat
        match t.headRec q, (t.poppers q).isEmpty with
        | some v, true => popRecord y.1.k y.1.op q v y.2 t
        | _, _ =>
          if y.1.mn = 0 then updParks y.1.k (fun p => { p with queue := some (.pop y.1.op q y.2 y.2) }) t
          else updLane y.1.k (fun l => l.resolve y.2 (groupWrites y.1.op (List.replicate 16 0) false)) t]]) s

/-- LAUNCH. -/
def issueLaunch (es : List Env) : Act := fun s =>
  split es (fun e => e.disciplineStop) (fun ok => Act.all [
    Act.each (s.ordered ok) fun e => Act.all [
      sendWbacks e.cl,
      Act.read fun t => updSeqr (e.cl / 24) fun q => { q with
        given := q.given ++ [(t.ctxOf e.k, e.k, e.l.pc, recordBits (e.record e.op.fy), t.fenceSet e.k 4)] }],
    countAccess ok, retire ok]) s

end Sys2Proof.Machine
end

