-- ==== Sys2Proof/Machine/Recovery.lean ====
section
/-! DEFINITION. Machine/Recovery.lean: undo stores (R370, R371), the recovery and bound majors (R414 to R422), rollback
(R404 to R409), and the kill of a gang (R410 to R412). -/

namespace Sys2Proof.Machine

open Sys2Proof

/-! ### Undo stores -/

/-- A snapshot record: its header's fields and where its payload lies (R371). -/
structure Snap where
  addr : DWord
  len : Nat
  mem : Bool
  key : Nat
  deriving DecidableEq, Repr

/-- Bytes that a record of `len` payload bytes takes. -/
def snapSize (len : Nat) : Nat := 16 + (len + 15) / 16 * 16

/-- A record's header. -/
def snapHead (addr : DWord) (len depth : Nat) (mem : Bool) : List Byte :=
  bytesLE 16 (addr.toNat * 2 ^ 64 + len * 2 ^ 32 + depth * 2 ^ 16 + (if mem then 1 else 0))

/-- The records of an undo store from an offset up to the bytes in use, oldest first; `n` bounds their number. -/
def State.snaps (s : State) (base upto : Nat) : Nat → Nat → List Snap
  | 0, _ => []
  | n + 1, off =>
    if upto ≤ off then []
    else
      let h := s.num (base + off) 16
      let len := bits h 63 32
      { addr := BitVec.ofNat 64 (bits h 127 64), len := len, mem := bits h 0 0 == 1, key := base + off + 16 } ::
        s.snaps base upto n (off + snapSize len)

/-- UNDO of the lane's workgroup. -/
def Env.undo (e : Env) : Nat := match e.wg? with | some w => w.desc.undo | none => 0

/-! ### The majors -/

/-- RBEGIN (R415). -/
def issueRbegin (es : List Env) : Act :=
  split es (fun e => entryStop (decide (8 ≤ e.l.regions.length)) e 0x1A) fun ok => Act.all [
    Act.each ok fun e => updLane e.k fun l => { l with regions :=
      { restart := e.l.pc + 12 + e.op.lit.signExtend 64, rlim := (e.src e.op.fy).setWidth 8, rtry := 0, umark := l.undoUse,
        tiles := 0, cmdMark := l.seq } :: l.regions },
    retire ok]

/-- The registers that RPRES names, by code, with their values (R416). -/
def Env.preserved (e : Env) : List (Nat × Word) :=
  let reg (n : Nat) : Nat × Word := (n, e.l.reg n)
  let y := match e.op.fy with | .g n => n.val | _ => 0
  let z := match e.op.fz with | .g n => n.val | _ => 0
  match e.mn with
  | 0 => ((List.range 32).filter fun i => e.op.lit.getLsbD i).map fun i => reg (y + i)
  | 1 => ((List.range 16).filter fun i => e.op.lit.getLsbD i).map fun i => (0x100 + i, truth (e.l.pred i))
  | _ => (List.range (z + 1 - y)).map fun i => reg (y + i)

/-- RPRES. -/
def issueRpres (es : List Env) : Act :=
  split es (fun e =>
      let n := e.preserved.length
      firstStop [entryStop e.l.regions.isEmpty e 0x13,
        entryStop (decide (n ≠ 0) && decide (e.undo < e.l.undoUse + snapSize (8 * n))) e 0x3A]) fun ok => Act.all [
    Act.each ok fun e =>
      let regs := e.preserved
      let n := 8 * regs.length
      Act.when (!regs.isEmpty) (Act.all [
        storeBytes (e.l.undoBase + e.l.undoUse) (snapHead 0 n e.l.regions.length false ++
          (regs.flatMap fun r => bytesLE 4 r.1 ++ bytesLE 4 r.2.toNat) ++ List.replicate (snapSize n - 16 - n) 0),
        updLane e.k fun l => { l with undoUse := l.undoUse + snapSize n }]),
    retire ok]

/-- RPRESM's address and length. -/
def Env.snapArgs (e : Env) : DWord × Nat := (e.src64 .n64 e.op.fy, (e.src e.op.fz).toNat)

/-- The reads of a lane's snapshot, piece by piece. -/
def Env.snapReads (e : Env) (s : State) : List (Access × Loc) :=
  let (va, n) := e.snapArgs
  match s.span e.k va n { rd := true, wr := true } with
  | .error _ => []
  | .ok ls => ls.zipIdx.map fun x =>
      let off := ((ls.take x.2).map (·.2)).foldl (· + ·) 0
      ({ lane := e.k, slot := s.slot e.k, pc := e.l.pc, seq := e.l.seq, va := va + BitVec.ofNat 64 off, key := x.1.1.key, size := x.1.2,
         ch := 0, op := .snap (e.l.undoBase + e.l.undoUse + 16 + off) x.1.2 }, x.1.1)

/-- Read the snapshots of an issue at their home agents into the undo stores, in one request for each line (R261); each lane parks until
its own is there. -/
def sendSnaps (es : List Env) : Act := fun s =>
  let xs := es.flatMap fun e => e.snapReads s
  Act.all [
    Act.each xs fun x => sendWback (s.clusterOf x.1.lane) (lineOf x.1.key),
    sendLines [] xs,
    Act.each es fun e => Act.read fun t => updParks e.k fun p => { p with
      wait := p.wait ++ [.snap e.snapArgs.1 e.snapArgs.2 (t.sentFor e.k e.l.seq)] }] s

/-- RPRESM (R417). (log 42, DEDUCED) -/
def issueRpresm (es : List Env) : Act :=
  split es (fun e =>
      let (va, n) := e.snapArgs
      if n = 0 then none else firstStop [entryStop e.l.regions.isEmpty e 0x13,
        probeStop (e.s.probe (e.s.ctxOf e.k) (e.s.gangOf e.k) va n { rd := true, wr := true }),
        entryStop (decide (65520 < n) || decide (e.undo < e.l.undoUse + snapSize n)) e 0x3A]) fun ok => Act.all [
    Act.each ok fun e => Act.when (e.snapArgs.2 != 0) (keepLeaf (e.s.ctxOf e.k) e.snapArgs.1),
    sendSnaps (ok.filter fun e => e.snapArgs.2 != 0),
    countAccess ok, retire ok]

/-- The snapshot has been read: its record is appended, and the park ends (R417). -/
def endSnap (k : LaneId) (l : Lane) (addr : DWord) (len : Nat) : Act := Act.all [
  storeBytes (l.undoBase + l.undoUse) (snapHead addr len l.regions.length true),
  storeBytes (l.undoBase + l.undoUse + 16 + len) (List.replicate (snapSize len - 16 - len) 0),
  updLane k fun l => { l with undoUse := l.undoUse + snapSize len }]

/-- REND (R418): the lane parks; `popRegion` is its effect when the park ends. -/
def issueRend (es : List Env) : Act :=
  split es (fun e => entryStop e.l.regions.isEmpty e 0x13) fun ok => Act.all [
    retire ok,
    Act.each ok fun e => updParks e.k fun p => { p with
      wait := p.wait ++ [.rend ((e.l.regions.head?.map (·.cmdMark)).getD 0)] }]

/-- The innermost region of a lane closes. (log 11, DEDUCED) -/
def popRegion (k : LaneId) : Act := fun s =>
  match s.lanes.get? k with
  | none => []
  | some l => match l.regions with
    | [] => []
    | r :: _ => Act.all [
        Act.each ((List.range 16).filter fun i => r.tiles.getLsbD i) (unbindTile (s.coreOf k)),
        updLane k fun l => { l with regions := l.regions.drop 1, undoUse := r.umark }] s

/-- RFAIL (R419). -/
def issueRfail (es : List Env) : Act := Act.all [retire es, Act.each es fun e => takeError e.k 7 (e.op.l 15 0) e.l.pc]

/-- The words that RSTAT writes (R420). -/
def statRegion (l : Lane) (v lvl : Nat) : List Word :=
  let r := l.regions[lvl]?
  match v with
  | 0 => [BitVec.ofNat 32 l.regions.length]
  | 1 => [BitVec.ofNat 32 ((r.map fun x => x.rtry.toNat).getD 0)]
  | 2 => [BitVec.ofNat 32 ((r.map fun x => x.rlim.toNat).getD 0)]
  | 3 => [BitVec.ofNat 32 l.undoUse]
  | 4 => [l.last]
  | _ => words64 ((r.map (·.restart)).getD 0)

/-- RSTAT. -/
def issueRstat (es : List Env) : Act := Act.all [
  resultNow (es.map fun e => (e, (dest e.op.fx (statRegion e.l e.mn (e.op.l 2 0)), 0))),
  retire es]

/-- The mask check of BNDSET and BNDGET (R122, R422). -/
def Env.bndStop (e : Env) : Option Stop := entryStop (!e.s.bndAllowed e.k (e.op.l 3 0)) e 0x12

/-- BNDSET (R422): of several lanes' values one remains (R116). -/
def issueBndset (es : List Env) : Act :=
  split es Env.bndStop fun ok => Act.all [
    Act.each (ok.map fun e => (e.s.coreOf e.k, e.op.l 3 0)).dedup fun x => fun s =>
      let val (e : Env) : Bound :=
        let v : DWord := e.src64 .n64 e.op.fy
        { mode := BitVec.ofNat 2 e.mn, hi := (v >>> 32).setWidth 32, lo := v.setWidth 32 }
      let vs := (ok.filter fun e => (e.s.coreOf e.k, e.op.l 3 0) = x).map val
      updCore x.1 (fun c => { c with bnds := c.bnds.set x.2 (s.choose (16 * x.1 + x.2) Bound.reset vs) }) s,
    retire ok]

/-- BNDGET. -/
def issueBndget (es : List Env) : Act :=
  split es Env.bndStop fun ok => Act.all [
    resultNow (ok.map fun e =>
      let b := e.core.bnd (e.op.l 3 0)
      (e, (dest e.op.fx (if e.mn = 0 then [b.lo, b.hi] else [b.mode.setWidth 32]), 0))),
    retire ok]

/-! ### Rollback (R405 to R409) -/

/-- The tiles bound to a region of a lane at a depth or deeper. -/
def State.boundTiles (s : State) (k : LaneId) (depth : Nat) : List Nat := (List.range 16).filter fun i =>
  match ((s.core (s.coreOf k)).tile i).bound with | some (j, d) => j == k && decide (depth ≤ d) | none => false

/-- What a rollback drains: the lane's engine commands and tile commands from a command mark on. -/
structure Drained where
  cmds : List Cmd
  tiles : List MCmd

/-- The set D of a rollback. -/
def State.setD (s : State) (k : LaneId) (mark : Nat) : Drained :=
  { cmds := (s.cluster (s.clusterOf k)).cmds.filter fun m => m.lane == k && decide (mark ≤ m.seq),
    tiles := (s.core (s.coreOf k)).mq.filter fun m => m.lane == k && decide (mark ≤ m.seq) && (match m.kind with
      | .stat _ _ _ _ _ => false
      | _ => true) }

/-- An engine command that draining ends at once. -/
def Cmd.ends (m : Cmd) : Bool := !m.fired || m.stopped.isSome

/-- The results of engine commands that draining ends. -/
def Drained.results (d : Drained) : List Nat := (d.cmds.filter (·.ends)).filterMap fun m => match m.kind with
  | .nz _ _ _ _ _ _ r _ _ => r
  | _ => none

/-- A rollback of the region numbered `i` from the innermost one: where it stands. -/
structure Roll where
  lane : LaneId
  l : Lane
  r : Region
  /-- the region directly inside it, when regions are popped -/
  inner : Option Region
  outer : List Region

/-- The rollback of region number `i` of a lane. -/
def State.roll (s : State) (k : LaneId) (i : Nat) : Option Roll :=
  match s.lanes.get? k with
  | none => none
  | some l => match l.regions.drop i with
    | [] => none
    | r :: outer => some { lane := k, l := l, r := r, inner := if i = 0 then none else l.regions[i - 1]?, outer := outer }

/-- The tiles that a rollback discards. -/
def Roll.discards (x : Roll) (s : State) : List Nat := s.boundTiles x.lane (x.outer.length + 1)

/-- A readout that has begun; the discard of its tile leaves it (R228). -/
def MCmd.readingOut (m : MCmd) : Bool := m.begun && match m.kind with | .out _ => true | _ => false

/-- Steps 1 and 2: what there is to drain. A stopped readout is ended as any stopped command (R406), on a tile that is discarded too. -/
def Roll.drain (x : Roll) (s : State) : Option Act :=
  let d := s.setD x.lane x.r.cmdMark
  let out := x.discards s
  let cs := d.cmds.filter (·.ends)
  let ts := d.tiles.filter fun m => m.stopped.isSome && (!out.contains m.tile || m.readingOut)
  if (x.l.results.all fun r => d.results.contains r.id) && !(cs.isEmpty && ts.isEmpty) then
    some (Act.all [Act.each cs (drainCmd (s.clusterOf x.lane)), Act.each ts (dropTileCmd (s.coreOf x.lane))])
  else none

/-- Steps 1 and 2 are done: nothing is outstanding, and what was to be drained has completed. -/
def Roll.ready (x : Roll) (s : State) : Bool :=
  let d := s.setD x.lane x.r.cmdMark
  let out := x.discards s
  x.l.results.isEmpty && d.cmds.isEmpty && (d.tiles.all fun m => out.contains m.tile && !m.readingOut) &&
    !s.reqs.any fun r => !r.done && r.acc.any fun a => a.lane == x.lane && (match a.op with | .snap _ _ => true | _ => false)

/-- A store of a lane performed as ST.CG (R407). -/
def putCG (k : LaneId) (pc : DWord) (l : Loc) (va : DWord) (bs : List Byte) : Act := fun s =>
  let cl := s.clusterOf k
  let line := lineOf l.key
  Act.all [
    sendWback cl line, dropCleanLine cl line,
    Act.when (match (s.cluster cl).line? line with | some x => (s.cluster cl).draining x.bank | none => false)
      (updCluster cl (·.dropLine line)),
    sendReq (s.ctxOf k) cl line l.home l.cache [] [
      { lane := k, slot := s.slot k, pc := pc, seq := 0, va := va, key := l.key, size := bs.length, ch := 0, op := .store bs }]] s

/-- Does a record's restoring store pass the probe? -/
def Snap.ok (x : Snap) (s : State) (k : LaneId) : Bool :=
  !x.mem || (s.probe (s.ctxOf k) (s.gangOf k) x.addr x.len { rd := false, wr := true }).isNone

/-- Restore one record (R407). -/
def Snap.restore (x : Snap) (k : LaneId) (pc : DWord) : Act := fun s =>
  if x.mem then
    match s.span k x.addr x.len { rd := false, wr := true } with
    | .error _ => []
    | .ok ls => Act.each ls.zipIdx (fun y =>
        let off := ((ls.take y.2).map (·.2)).foldl (· + ·) 0
        putCG k pc y.1.1 (x.addr + BitVec.ofNat 64 off) (s.bytes (x.key + off) y.1.2)) s
  else
    updLane k (fun l => l.writes ((List.range (x.len / 8)).map fun i =>
      (s.num (x.key + 8 * i) 2, BitVec.ofNat 32 (s.num (x.key + 8 * i + 4) 4)))) s

/-- The records that a rollback restores, newest first. -/
def Roll.snaps (x : Roll) (s : State) : List Snap := (s.snaps x.l.undoBase x.l.undoUse (x.l.undoUse / 16 + 1) x.r.umark).reverse
/-- Do all of them pass the probe (R407)? -/
def Roll.restores (x : Roll) (s : State) : Bool := (x.snaps s).all fun r => r.ok s x.lane

/-- Steps 3 to 6 and 8 (R405): `count` says whether a retry is consumed. A restoration that fails kills the gang. (log 11, DEDUCED) -/
def Roll.finish (x : Roll) (pc : DWord) (count : Bool) : Act := fun s =>
  let core := s.coreOf x.lane
  let dropped := (s.setD x.lane x.r.cmdMark).tiles.filter fun m => (x.discards s).contains m.tile && !m.readingOut
  Act.all [
    Act.each dropped (dropTileCmd core),
    Act.each (x.discards s) (discardTile core),
    Act.each (s.boundTiles x.lane (x.outer.length + 2)) (unbindTile (s.coreOf x.lane)),
    Act.each ((x.snaps s).takeWhile fun r => r.ok s x.lane) fun r => r.restore x.lane pc,
    if x.restores s then updLane x.lane fun l => { l with
      regions := { x.r with rtry := if count then x.r.rtry + 1 else x.r.rtry } :: x.outer,
      undoUse := match x.inner with | some r => r.umark | none => l.undoUse,
      pc := x.r.restart, latch := none, wait := 0, err := none,
      last := match l.err with | some e => BitVec.ofNat 32 (e.code % 2 ^ 16 + e.source * 2 ^ 16) | none => l.last }
    else decideKill (s.gangOf x.lane) pc] s

/-- The number from the innermost region of the one that rolls back (R404). -/
def retryIndex (rs : List Region) : Option Nat := rs.findIdx? fun r => decide (r.rtry.toNat < r.rlim.toNat)

/-- The pending error of a lane of an active workgroup and the rollback that it asks for, with the number of regions popped. -/
def State.rollOf (s : State) (k : LaneId) : Option (DetErr × Nat × Roll) :=
  match s.lanes.get? k, s.wgs.get? k.wg with
  | some l, some w =>
    match l.err, retryIndex l.regions with
    | some e, some i =>
      if !w.active || l.exited || (match s.gangs.get? w.gang with | some g => g.kill.isSome || g.ended | none => true) then none
      else (s.roll k i).map fun x => (e, i, x)
    | _, _ => none
  | _, _ => none

/-- One record for the rollbacks of one kind in a cycle (R412), by ascending %slot of the lanes. (log 12, DEDUCED) -/
def rollRecord (ecode : Nat) (xs : List (DetErr × Nat × Roll)) : Act := fun s =>
  match xs with
  | [] => []
  | x :: _ => writeError { s.errOf x.2.2.lane ecode x.1.pc.toNat x.2.2.r.restart.toNat with cnt := xs.length } s

/-- ROLLBACK (R404, R405, R412): the pending errors of a lane, and of those of `more` that lie in its peloton, are settled in one cycle, once
the draining is over. Records of one kind are written one per peloton and cycle. (log 12, DEDUCED) -/
def stepRollback (k : LaneId) (more : List LaneId) : Act := fun s =>
  let slot := (s.coreOf k, s.pslot k)
  let ks := ((k :: more.filter fun j => (s.coreOf j, s.pslot j) == slot).dedup).mergeSort fun a b => decide (s.slot a ≤ s.slot b)
  let xs := ks.filterMap s.rollOf
  let drains := xs.filterMap fun x => x.2.2.drain s
  let go := xs.filter fun x => x.2.2.ready s
  if !drains.isEmpty then Act.all drains s
  else if go.isEmpty || (s.peloton slot.1 slot.2).rolledAt == some s.now then []
  else Act.all [
    rollRecord 0x10 (go.filter fun x => x.2.1 == 0 && x.2.2.restores s),
    rollRecord 0x11 (go.filter fun x => x.2.1 != 0 && x.2.2.restores s),
    Act.each go fun x => x.2.2.finish x.1.pc true,
    updPeloton slot fun p => { p with rolledAt := some s.now }] s

/-! ### The end of gangs (R410, R411) -/

/-- A lane ends without EXIT: its regions are popped, and what it waits for is withdrawn. Its holds and what it has sent, the changes of
weir slots too, remain (R410). -/
def endLane (k : LaneId) : Act := fun s =>
  match s.lanes.get? k with
  | none => []
  | some l =>
    if l.exited then [] else Act.all [
      updSlReqs fun rs => rs.filter fun r => r.lane != k,
      Act.when (s.slreqs.any fun r => r.lane == k) (updDev fun d => { d with
        wq := (d.wq ++ (s.slreqs.filter fun r => r.lane == k).map (·.key)).dedup }),
      updCluster (s.clusterOf k) fun c => { c with dops := c.dops.filter fun o => o.lane != k },
      updCore (s.coreOf k) fun c => { c with mq := c.mq.filter fun m => m.accepted || m.lane != k },
      updLane k fun l =>
        { l with
          exited := true, exiting := false, latch := none, parks := Parks.none, results := [], regions := [], err := none,
          trapLane := false, arrived := [], heldBy := none, undoUse := 0,
          arriving := l.arriving.filter fun a => match a with | .barrier _ _ _ => false | .weir .. => true }] s

/-- The hold lists of ended lanes are released, publishing nothing (R280, R410), and what has not reached their weirs is dropped. -/
def dropHolds (ks : List LaneId) : Act := Act.each ks fun k => fun s => match s.lanes.get? k with
  | none => []
  | some l => Act.all [
      Act.each l.holds fun h => sendRelease k h false,
      updLane k fun l => { l with holds := [], arriving := [] }] s

/-- What of the commands of ended lanes is drained now (R406). A loop at a gate that nothing of the lanes can open any more, neither an
engine command nor a change of a weir slot, is dropped. (log 31, DEDUCED) -/
def State.drainAll (s : State) (mine : LaneId → Bool) (cl : Nat) : List Act :=
  let cs := (s.cluster cl).cmds.filter fun m => mine m.lane
  let shut (c : Core) (m : MCmd) : Bool := cs.isEmpty && !(s.heldWeirs.any fun h => mine h.lane) && c.head? m.tile == some m && !m.begun && (match m.kind with
    | .loop l => !s.gateOpen l.gate
    | _ => false)
  (cs.filter (·.ends)).map (drainCmd cl) ++ (List.range 4).flatMap fun i =>
    let c := s.core (4 * cl + i)
    (c.mq.filter fun m => mine m.lane && (m.stopped.isSome || shut c m)).map (dropTileCmd (4 * cl + i))

/-- Do commands of ended lanes remain? -/
def State.commandsLeft (s : State) (mine : LaneId → Bool) (cl : Nat) : Bool :=
  ((s.cluster cl).cmds.any fun m => mine m.lane) ||
    (List.range 4).any fun i => (s.core (4 * cl + i)).mq.any fun m => mine m.lane

/-- The scratchpad of a workgroup is gone. -/
def freeScratch (wg : Nat) : Act := fun s =>
  (s.mem.filter fun c => decide (scratchKey wg 0 ≤ c.1) && decide (c.1 < scratchKey (wg + 1) 0)).map fun c => .byte c.1 0

/-- The resources of a workgroup that has ended are freed: tiles, weirs, segments, its place on the core. -/
def freeWg (wg : Nat) : Act := fun s =>
  match s.wgs.get? wg with
  | none => []
  | some w => Act.all [
      Act.each ((List.range 16).filter fun i => ((s.core w.core).tile i).owner == some wg) (freeTile w.core),
      updCluster (w.core / 4) fun c => { c with segs := c.segs.filter fun x => x.2.1 != wg },
      freeScratch wg,
      updWg wg fun w => { w with active := false, parking := false, exited := true, freed := true, weirs := [], retiring := [],
                                 answers := [], saddleOwed := [] }] s

/-- Fault records that meet a condition close; one that still waits for room is written first (R391, R410). -/
def closeFaults (ctx : Nat) (p : FaultRec → Bool) : Act := updCtx ctx fun c =>
  let fs := c.faults.map fun f => if p f then { f with held := [], cmd := none } else f
  { c with faults := fs.filter fun f => !p f || f.fid.isNone }

/-- The ditch ports of a gang are released (R308). -/
def freePorts (g cl : Nat) : Act := fun s =>
  Act.each ((s.cluster cl).ports.filter fun p => p.2.gang == g) (fun p => releasePort cl p.1) s

/-- The error record of an event that concerns a gang. (log 31, DEDUCED) -/
def State.gangErr (s : State) (g : Gang) (ecode cnt pc : Nat) : ErrRec :=
  { s.errOf ⟨g.wgs.headD 0, 0⟩ ecode pc 0 with ctx := g.ctx, cnt := cnt, iex := false }

/-- A killed gang is launched again, or abandoned (R411, R412). (log 31, DEDUCED) -/
def relaunch (g : Gang) : Act := fun s =>
  match s.launches.get? g.launch with
  | none => []
  | some l =>
    if g.relaunch < l.limit then Act.all [
      updLaunch g.launch fun l => { l with
        again := l.again ++ [(g.idx, g.relaunch + 1)], reln := min 15 (l.reln + 1) },
      writeError (s.gangErr g 0x13 1 0)] s
    else Act.all [
      updLaunch g.launch fun l => { l with finished := l.finished + 1, abandoned := true },
      writeError (s.gangErr g 0x15 0 0)] s

/-- GANG_KILL (R410): the lanes of a gang whose kill is decided end, their commands are drained, and then their hold lists are released,
the gang's resources are freed and its launch is told. (log 31, DEDUCED) -/
def stepGangKill (gid : Nat) : Act := fun s =>
  match s.gangs.get? gid with
  | none => []
  | some g =>
    match g.kill with
    | none => []
    | some pc =>
      if g.ended then [] else
      let mine (k : LaneId) : Bool := g.wgs.contains k.wg
      let live := (s.gangLanes gid).filter fun k => !s.gone k
      let ds := s.drainAll mine g.cluster
      if !g.reported then Act.all [writeError (s.gangErr g 0x12 1 pc.toNat), updGang gid fun v => { v with reported := true },
        Act.all ds, Act.each live endLane] s
      else if !ds.isEmpty then Act.all ds s
      else if s.commandsLeft mine g.cluster then []
      else Act.all [
        dropHolds (s.gangLanes gid),
        freePorts gid g.cluster,
        Act.each g.wgs freeWg,
        closeFaults g.ctx fun f => f.gang == gid,
        updGang gid fun g => { g with ended := true },
        relaunch g] s

end Sys2Proof.Machine
end

