-- ==== Sys2Proof/Machine/Answer.lean ====
section
/-! DEFINITION. Machine/Answer.lean: the answers of system software to fault records (R391). -/

namespace Sys2Proof.Machine

open Sys2Proof

/-- ACTION of an answer. -/
inductive Action where
  | retry | trap | kill | resumeAt
  deriving DecidableEq, Repr

/-- The code of an action. -/
def Action.code : Action → Nat
  | .retry => 0 | .trap => 1 | .kill => 2 | .resumeAt => 3
/-- The action of a code. -/
def Action.ofCode (n : Nat) : Action := match n % 4 with
  | 0 => .retry | 1 => .trap | 2 => .kill | _ => .resumeAt

/-- A fault-parked lane leaves its record and presents its instruction afresh. -/
def retryLane (k : LaneId) : Act := Act.all [
  leaveRecord k,
  updLane k fun l => { l with latch := none, parks := { l.parks with trap := if l.trapLane then false else l.parks.trap } }]

/-- A fault-parked lane whose gang is killed leaves its record's hold and stays parked. -/
def condemn (k : LaneId) : Act := Act.all [unlist k, updLane k fun l => { l with heldBy := none }]

/-- A fault-parked lane goes on at a PC; a trap lane of a KIND 8 record stops being one (R395). -/
def resumeLane (k : LaneId) (kind : Nat) (pc : DWord) : Act := Act.all [
  leaveRecord k,
  updLane k fun l =>
    let t := if l.trapLane && kind == 8 then false else l.parks.trap
    { l with pc := pc, latch := none, parks := { l.parks with trap := t } },
  Act.when (kind == 8) (leaveTrap k)]

/-- An action on lanes of one record, each with its cause. RESUMEAT to a misaligned PC transfers no lane: it fault-parks anew at its
instruction (R27). (log 32, DEDUCED) -/
def answerLanes (f : FaultRec) (a : Action) (rpc : DWord) (ks : List (LaneId × Nat)) : Act :=
  match a with
  | .retry => Act.each ks fun x => retryLane x.1
  | .trap =>
    if 7 ≤ f.kind then Act.skip
    else Act.all [
      Act.each ks fun x => Act.all [leaveRecord x.1, updLane x.1 fun l => { l with latch := none }],
      Act.read fun s => raiseTraps (ks.map fun x => { lane := x.1, cls := 3, info := 0, cause := x.2, resume := s.pcOf x.1 })]
  | .kill => if ks.isEmpty then Act.skip else Act.all [Act.each ks fun x => condemn x.1, decideKill f.gang f.pc]
  | .resumeAt =>
    if rpc.toNat % 4 ≠ 0 then Act.all [
      Act.each ks fun x => leaveRecord x.1,
      faultLanes 2 0 (ks.map fun x => ⟨x.1, 0x07, rpc⟩)]
    else Act.each ks fun x => resumeLane x.1 f.kind rpc

/-- The lanes of a mask that a record still holds, with their causes. -/
def FaultRec.answered (f : FaultRec) (amask : DWord) : List (LaneId × Nat) :=
  (f.held.filter fun h => amask.getLsbD h.2.1).map fun h => (h.1, h.2.2.2)

/-- The loop or readout that a KIND 4 or 5 record names resumes. -/
def resumeTile (core id : Nat) : Act := updMq core fun q => q.map fun m => if m.id = id then { m with stopped := none } else m

/-- An answer to a stopped loop, readout or engine command. -/
def answerUnit (ctx : Nat) (f : FaultRec) (unit id : Nat) (a : Action) : Act := fun s =>
  match a with
  | .trap | .resumeAt => []
  | .retry => Act.all [
      if f.kind = 6 then updCmd unit id fun m => { m with stopped := none } else resumeTile unit id,
      closeRecord ctx f.num] s
  | .kill =>
    let over_ := match s.gangs.get? f.gang with | some g => g.ended | none => true
    if over_ then
      if f.kind = 6 then Act.opt ((s.cluster unit).cmds.find? fun m => m.id == id) (drainCmd unit) s
      else Act.opt ((s.core unit).mq.find? fun m => m.id == id) (dropTileCmd unit) s
    else Act.all [closeRecord ctx f.num, decideKill f.gang f.pc] s

/-- FAULT_ANSWER (R391): an answer acts on the lanes that the record still holds; one to lanes of a parked workgroup is
recorded for its activation. -/
def answer (ctx : Nat) (fid : Word) (amask : DWord) (a : Action) (rpc : DWord) : Act := fun s =>
  match s.ctxs.get? ctx with
  | none => []
  | some c => match c.faults.find? fun f => f.fid == some fid with
    | none => []
    | some f => match f.cmd with
      | some (unit, id) => answerUnit ctx f unit id a s
      | none =>
        let active := match s.wgs.get? f.wg with | some w => w.active | none => false
        if active then answerLanes f a rpc (f.answered amask) s
        else updWg f.wg (fun w => { w with answers := w.answers ++ [(f.num, amask, a.code, rpc)] }) s

/-- A recorded answer takes effect at activation. (log 32, DEDUCED) -/
def applyAnswer (ctx : Nat) (x : Nat × DWord × Nat × DWord) : Act := fun s =>
  match s.ctxs.get? ctx with
  | none => []
  | some c => match c.faults.find? fun f => f.num == x.1 with
    | none => []
    | some f => answerLanes f (Action.ofCode x.2.2.1) x.2.2.2 (f.answered x.2.1) s

end Sys2Proof.Machine
end

