-- ==== Sys2Proof/Machine/Launch.lean ====
section
/-! DEFINITION. Machine/Launch.lean: the launch sequencers (R336, R337), the placement of gangs (R338, R340), and the
completion of launches (R339). -/

namespace Sys2Proof.Machine

open Sys2Proof

/-! ### Descriptors' resources (R70, R83) -/

/-- The resource entries of a descriptor. -/
def Ctx.resources (c : Ctx) (d : Desc) : List Nat := ((c.resl.drop d.resx).take d.resn).map (·.toNat)
/-- The ditch ports requested: port, LGN, ESZ; equal requests are one. -/
def Ctx.ditches (c : Ctx) (d : Desc) : List (Nat × Nat × Nat) :=
  (((c.resources d).filter fun v => bits v 7 0 == 1).map fun v =>
    (bits v 15 8, Nat.log2 (bits v 63 32), Nat.log2 (bits v 95 64 / 4))).dedup
/-- The weirs: offset and expected arrivals. -/
def Ctx.weirs (c : Ctx) (d : Desc) : List (Nat × Nat) :=
  ((c.resources d).filter fun v => bits v 7 0 == 2).map fun v => (bits v 63 32, bits v 95 64)
/-- 1 KiB blocks of ditch storage that a kernel requests. -/
def Ctx.ditchBlocks (c : Ctx) (d : Desc) : Nat := ((c.ditches d).map fun x => blocksOf x.2.1 x.2.2).foldl (· + ·) 0
/-- Segments of a workgroup's scratchpad (R255). -/
def Desc.segs (d : Desc) : Nat := (d.scratch + 8191) / 8192
/-- Spokes of a workgroup (R11). -/
def Desc.spokes (d : Desc) : Nat := (d.lanes + 15) / 16

/-! ### Acceptance (R94, R336) -/

/-- A 64-byte-aligned or 8-byte-aligned canonical address, or 0. -/
def goodAddr (align : Nat) (va : Nat) : Bool := decide (va % align = 0) && decide (va < 2 ^ 56)

/-- The bytes at a context's virtual address, when they can be read there: device memory, local or remote. -/
def State.fetchAt (s : State) (ctx : Nat) (va : DWord) (n : Nat) : Option Nat :=
  match s.locate ctx s.fresh va with
  | none => none
  | some l =>
    if !l.rd || l.home == .host || !s.reach l.home || l.scratch.isSome then none else some (s.num l.key n)

/-- The sidecar of a record; all zero where SIDE is 0. (log 33, DEDUCED) -/
def State.sidecar (s : State) (ctx side : Nat) : Option Nat := if side = 0 then some 0 else s.fetchAt ctx (BitVec.ofNat 64 side) 64

/-- Why a record is refused, by its ECODE (R94, R336); none when it is accepted. (log 33, DEDUCED) -/
def State.refusal (s : State) (ctx : Nat) (c : Ctx) (v : Nat) : Option Nat :=
  let side := bits v 127 64
  match s.desc ctx (bits v 15 0) with
  | none => some 0x20
  | some d =>
    if bits v 31 28 ≠ 0 ∨ bits v 23 20 ≠ 0 ∨ bits v 63 32 = 0 ∨ 16777216 < bits v 63 32 ∨ !goodAddr 64 side then some 0x20
    else match s.sidecar ctx side with
      | none => some 0x20
      | some x =>
        if bits x 511 320 ≠ 0 ∨ !goodAddr 8 (bits x 63 0) ∨ !goodAddr 8 (bits x 191 128) ∨ !goodAddr 8 (bits x 319 256) then some 0x20
        else if 8192 < d.spokes * d.regs then some 0x21
        else if ¬ ((c.ditches d).map (·.1)).Nodup then some 0x22
        else if 3072 < c.ditchBlocks d then some 0x23
        else if 384 < d.gang * d.segs then some 0x24
        else if c.stksz.toNat * 65536 < d.gang * d.lanes * d.stack ∨ c.undosz.toNat * 65536 < d.gang * d.lanes * d.undo then some 0x25
        else none

/-- Does a condition hold now? One whose counter is not present does not. (log 64, DESIGN CHOICE) -/
def State.holds (s : State) (ctx : Nat) (x : Cond) : Bool :=
  match s.fetchAt ctx x.addr 8 with | some n => decide (x.value.toNat ≤ n) | none => false

/-- A present condition, as the sequencer reads it at acceptance. -/
def State.condAt (s : State) (ctx a v : Nat) : List Cond :=
  if a = 0 then [] else
    let c : Cond := { addr := BitVec.ofNat 64 a, value := BitVec.ofNat 64 v, seen := false, met := false }
    [{ c with seen := s.holds ctx c, met := s.holds ctx c }]

/-- Accept or refuse a record of a context; `who` is the lane and PC of a LAUNCH. -/
def acceptRecord (ctx : Nat) (who : Option (LaneId × DWord)) (v : Nat) : Act := fun s =>
  match s.ctxs.get? ctx with
  | none => []
  | some c =>
    let kdi := bits v 15 0
    match s.refusal ctx c v with
    | some code =>
      let base : ErrRec := match who with
        | some (k, pc) => s.errOf k code pc.toNat 0
        | none => { ecode := code, ctx := ctx }
      writeError { base with aux := if code = 0x20 then 0 else kdi } s
    | none =>
      match s.desc ctx kdi, s.sidecar ctx (bits v 127 64) with
      | some d, some x =>
        let rlim := bits v 27 24
        Act.fresh (fun n => Act.all [
          fun t => [.launch n (some
            { ctx := ctx, lnum := c.lnum, kdi := kdi, desc := d, prio := bits v 19 16, limit := if rlim = 0 then 2 else rlim - 1,
              args := (List.range 12).map fun i => BitVec.ofNat 32 (bits v (32 * i + 159) (32 * i + 128)), grid := bits v 63 32,
              side := BitVec.ofNat 64 (bits v 127 64), cdone := BitVec.ofNat 64 (bits x 319 256),
              conds := s.condAt ctx (bits x 63 0) (bits x 127 64) ++ s.condAt ctx (bits x 191 128) (bits x 255 192),
              next := 0, again := [], finished := 0, reln := 0, abandoned := false, order := t.dev.order })],
          updDev fun d => { d with order := d.order + 1 },
          updCtx ctx fun c => { c with lnum := c.lnum + 1 }]) s
      | _, _ => []

/-- Is a context open? -/
def State.isOpen (s : State) (ctx : Nat) : Bool := match s.ctxs.get? ctx with | some c => c.state == 1 | none => false

/-- The launch queues of a die's sequencer that hold a record to read, with their levels. -/
def State.launchQueues (s : State) (die : Nat) : List (Nat × Nat) :=
  (s.queues.filter fun q => !q.2.item && q.2.die == die && s.isOpen q.2.ctx && (s.headRec q.1).isSome).map fun q => (q.1, q.2.level)

/-- May a sequencer serve a queue next: the lowest LEVEL goes first, and within a level no queue is served twice while another
waits (R336)? -/
def State.mayServe (s : State) (die q : Nat) : Bool :=
  let qs := s.launchQueues die
  match qs.find? fun x => x.1 == q with
  | none => false
  | some x => qs.all fun y => decide (x.2 ≤ y.2) &&
      (y.1 == q || decide (x.2 < y.2) || !((s.seqr die).served.getD y.1 []).contains q)

/-- LAUNCH_ACCEPT (R336): the sequencer of a die takes the head record of a queue, or the oldest record that a LAUNCH passed
to it. (log 2, DEDUCED) -/
def stepLaunchAccept (die : Nat) (queue : Option Nat) : Act := fun s =>
  match queue with
  | some q =>
    match s.mayServe die q, s.headRec q with
    | true, some v =>
      let others := (s.launchQueues die).filter fun y => y.1 != q && y.2 == (s.wq q).level
      Act.all [
        dequeue q,
        updSeqr die fun z =>
          let served := others.foldl (fun (m : Map Nat (List Nat)) y => m.set y.1 (Map.getD m y.1 [] ++ [q])) (z.served.del q)
          { z with served := served },
        acceptRecord (s.wq q).ctx none v.toNat] s
    | _, _ => []
  | none =>
    match (s.seqr die).given.find? fun x => s.isOpen x.1 with
    | none => []
    | some (ctx, k, pc, v, after) =>
      if !s.allPerformed after then [] else Act.all [
        updSeqr die fun z => { z with given := z.given.erase (ctx, k, pc, v, after) },
        acceptRecord ctx (some (k, pc)) v.toNat] s

/-! ### Conditions (R337) -/

/-- After a write: conditions that hold now have held once. -/
def watchCounters : Act := fun s =>
  Act.each (s.launches.filter fun l => l.2.conds.any fun c => !c.seen && s.holds l.2.ctx c) (fun l =>
    updLaunch l.1 fun v => { v with conds := v.conds.map fun c => { c with seen := c.seen || s.holds v.ctx c } }) s

/-- LAUNCH_CONDITION_CHECK (R337): conditions that have held at a read are met. -/
def stepCondition (launch : Nat) : Act := fun s =>
  match s.launches.get? launch with
  | none => []
  | some l =>
    if l.conds.all fun c => c.met || !c.seen then []
    else updLaunch launch (fun v => { v with conds := v.conds.map fun c => { c with met := c.met || c.seen } }) s

/-! ### Placement (R338, R340) -/

/-- The next gang of a launch: %gang and %relaunch. Gangs to relaunch go first (R411), in ascending %gang (R338). -/
def Launch.nextGang (l : Launch) : Option (Nat × Nat) :=
  match l.again.mergeSort fun a b => decide (a.1 ≤ b.1) with
  | x :: _ => some x
  | [] => if l.next < l.grid then some (l.next, 0) else none

/-- Is a launch placeable, its context not being pre-empted (R399)? -/
def State.placeable (s : State) (l : Launch) : Bool :=
  l.nextGang.isSome && (l.conds.all fun c => c.met) &&
    match s.ctxs.get? l.ctx with | some c => c.state == 1 && c.preempt == 0 | none => false

/-- Has a workgroup's gang ended, so that its admission slot is free? -/
def State.over (s : State) (w : Wg) : Bool := match s.gangs.get? w.gang with | some g => g.ended | none => true
/-- Free admission slots of a core. -/
def State.freeSlots (s : State) (core : Nat) : Nat := 64 - (s.wgs.filter fun w => w.2.core == core && !s.over w.2).length
/-- Free segments of a bank. -/
def Cluster.freeSegs (c : Cluster) (b : Nat) : Nat :=
  if c.bank b = 1 then 12 - ((c.segs.filter fun x => x.1 == b).map (·.2.2)).foldl (· + ·) 0 else 0
/-- Segments for a workgroup, bank by bank; none when they do not suffice. -/
def Cluster.takeSegs (c : Cluster) (wg need : Nat) : Option Cluster :=
  let (left, got) := (List.range 32).foldl (fun (a : Nat × List (Nat × Nat × Nat)) b =>
    let n := min a.1 (c.freeSegs b)
    if n = 0 then a else (a.1 - n, a.2 ++ [(b, wg, n)])) (need, [])
  if left = 0 then some { c with segs := c.segs ++ got } else none

/-- Stacks of the workgroups of a context that have not exited: offset in the stack area and size (R372). -/
def State.stacks (s : State) (ctx : Nat) (c : Ctx) : List (Nat × Nat) := s.wgs.flatMap fun w =>
  if w.2.ctx = ctx ∧ !w.2.exited ∧ !s.over w.2 then (s.wgLanes w.1).filterMap fun k => (s.lanes.get? k).map fun l =>
    (l.stkBase.toNat - c.stkva.toNat, w.2.desc.stack) else []
/-- Undo stores likewise (R370). -/
def State.undos (s : State) (ctx : Nat) (c : Ctx) : List (Nat × Nat) := s.wgs.flatMap fun w =>
  if w.2.ctx = ctx ∧ !w.2.exited ∧ !s.over w.2 then (s.wgLanes w.1).filterMap fun k => (s.lanes.get? k).map fun l =>
    (l.undoBase - c.undob.toNat, w.2.desc.undo) else []

/-- Pieces of `z` bytes, `a`-aligned, in [lo, hi). -/
def piecesIn (lo hi z a : Nat) : Nat :=
  let st := (lo + a - 1) / a * a
  if st + z ≤ hi then (hi - st - z) / ((z + a - 1) / a * a) + 1 else 0

/-- Pieces of `z` bytes that an area of `size` bytes has room for beside those in use. -/
def roomFor (size z a : Nat) (used : List (Nat × Nat)) : Nat :=
  let sorted := (used.filter fun u => decide (0 < u.2)).mergeSort fun x y => decide (x.1 ≤ y.1)
  let (n, cur) := sorted.foldl (fun (x : Nat × Nat) u => (x.1 + piecesIn x.2 u.1 z a, max x.2 (u.1 + u.2))) (0, 0)
  n + piecesIn cur size z a

/-- Could the next gang of a launch be placed on a cluster now? -/
def State.fits (s : State) (l : Launch) (cl : Nat) : Bool :=
  match s.ctxs.get? l.ctx with
  | none => false
  | some c =>
    let d := l.desc
    let k := s.cluster cl
    let n := d.gang * d.lanes
    decide (d.gang ≤ ((List.range 4).filter fun i => decide (0 < s.freeSlots (4 * cl + i))).length) &&
      decide (d.gang * d.segs ≤ ((List.range 32).map k.freeSegs).foldl (· + ·) 0) &&
      ((c.ditches d).all fun x => (k.ports.get? x.1).isNone) &&
      decide (c.ditchBlocks d ≤ ((List.range 32).map k.freeBlocks).foldl (· + ·) 0) &&
      (d.stack == 0 || decide (n ≤ roomFor (c.stksz.toNat * 65536) d.stack 16 (s.stacks l.ctx c))) &&
      (d.undo == 0 || decide (n ≤ roomFor (c.undosz.toNat * 65536) d.undo 1 (s.undos l.ctx c)))

/-- Does a launch go before another: more urgent, or accepted earlier? -/
def Launch.before (a b : Launch) : Bool := decide (a.prio < b.prio) || (a.prio == b.prio && decide (a.order < b.order))

/-- Are pieces of one size inside an area, aligned, apart from each other and from those in use? -/
def piecesOk (size z a : Nat) (used : List (Nat × Nat)) : List Nat → Bool
  | [] => true
  | o :: os =>
    decide (o % a = 0) && decide (o + z ≤ size) &&
      (used.all fun u => decide (u.1 + u.2 ≤ o) || decide (o + z ≤ u.1) || u.2 == 0 || z == 0) && piecesOk size z a ((o, z) :: used) os

/-- Configure the ports that a gang requests, empty (R300). -/
def configurePorts (gang : Nat) : Cluster → List (Nat × Nat × Nat) → Cluster
  | c, [] => c
  | c, x :: xs => configurePorts gang (match c.takeBlocks (blocksOf x.2.1 x.2.2) with
      | some st => { c with ports := c.ports.set x.1 (Ditch.new gang x.2.1 x.2.2 st) }
      | none => c) xs

/-- Allocate the segments of workgroups. -/
def takeAllSegs (need : Nat) : Cluster → List Nat → Cluster
  | c, [] => c
  | c, w :: ws => takeAllSegs need ((c.takeSegs w need).getD c) ws

/-- GANG_PLACE (R338): the next gang of a launch goes to a cluster, on the cores `coreL` of it, with its lanes' stacks and undo
stores at the offsets `stackL` and `undoL` of the context's areas. Its workgroups are admitted, parked; its ports and weirs are
initialised (R300, R378). The cluster keeps no clean bytes from before, so that the lanes find what was written before the counters that
the launch waited for (R337). (log 1, DESIGN CHOICE; log 2, DEDUCED) -/
def stepPlace (launch cl : Nat) (coreL stackL undoL : List Nat) : Act := fun s =>
  match s.launches.get? launch with
  | none => []
  | some l =>
    match s.ctxs.get? l.ctx, l.nextGang with
    | some c, some (idx, rel) =>
      let d := l.desc
      let n := d.gang * d.lanes
      let ok := s.dev.up && decide (cl < 144) && s.placeable l && s.fits l cl &&
        (s.launches.all fun m => !m.2.before l || !(s.placeable m.2 && (List.range 144).any (s.fits m.2))) &&
        decide (coreL.length = d.gang) && decide coreL.Nodup && (coreL.all fun i => decide (i < 4) && decide (0 < s.freeSlots (4 * cl + i))) &&
        decide (stackL.length = n) && piecesOk (c.stksz.toNat * 65536) d.stack 16 (s.stacks l.ctx c) stackL &&
        decide (undoL.length = n) && piecesOk (c.undosz.toNat * 65536) d.undo 1 (s.undos l.ctx c) undoL
      if !ok then [] else
      let gid := s.fresh
      let ws := (List.range d.gang).map fun i => (gid + 1 + i, i)
      let lane (i j : Nat) : Lane :=
        let stk := c.stkva + BitVec.ofNat 64 ((stackL[i * d.lanes + j]?).getD 0)
        Lane.start d.entry stk (stk + BitVec.ofNat 64 d.stack) (c.undob.toNat + (undoL[i * d.lanes + j]?).getD 0)
      let wg (i : Nat) : Wg :=
        { ctx := l.ctx, gang := gid, idx := i, core := 4 * cl + (coreL[i]?).getD 0, kdi := l.kdi, desc := d, active := false,
          begun := false, place := [], crewOf := [], parkedAt := s.now, activeAt := s.now, parking := false, exited := false,
          freed := false, sregs := [], weirs := [], retiring := [], phases := [], answers := [], saddleOwed := [], exitMark := 0 }
      Act.all [
        fun _ => [.fresh (gid + 1 + d.gang)],
        fun _ => [.gang gid (some
          { launch := launch, ctx := l.ctx, idx := idx, relaunch := rel, cluster := cl, wgs := ws.map (·.1), started := false,
            startedAt := s.now, kill := none, ended := false, phases := [] })],
        Act.each ws fun w => fun _ => [.wg w.1 (some (wg w.2))],
        Act.each ws fun w => Act.each (List.range d.lanes) fun j => fun _ => [.lane ⟨w.1, j⟩ (some (lane w.2 j))],
        dropCleanAll cl,
        updCluster cl fun k => configurePorts gid (takeAllSegs d.segs k (ws.map (·.1))) (c.ditches d),
        Act.each ws fun w => Act.each (c.weirs d) fun x => weirInit (scratchKey w.1 x.1) x.2,
        updLaunch launch fun v => { v with
          again := v.again.filter fun x => decide (x ≠ (idx, rel)), next := if v.again.isEmpty then v.next + 1 else v.next }] s
    | _, _ => []

/-! ### Completion (R339) -/

/-- Does anything of a set of lanes still stand in a request or a command? (log 33, DEDUCED) -/
def State.traces (s : State) (mine : LaneId → Bool) : Bool :=
  (s.reqs.any fun r => r.acc.any fun a => mine a.lane) || (s.slrels.any fun r => mine r.lane) ||
    (s.clusters.any fun c => c.2.cmds.any fun m => mine m.lane) || s.cores.any fun c => c.2.mq.any fun m => mine m.lane

/-- The write-backs of a cluster that have not been performed. -/
def State.wbacksIn (s : State) (cl : Nat) : List Nat :=
  (s.reqs.filter fun r => r.cluster == cl && !r.done && r.acc.any fun a => a.op.isWback).map (·.id)

/-- The decrement of CDONE on its way to its home agent (R339). -/
def sendDone (l : Launch) (x : Loc) : Act :=
  sendReq l.ctx nowhere (lineOf x.key) x.home x.cache []
    [{ lane := outsider, slot := 0, pc := 0, seq := 0, va := l.cdone, key := x.key, size := 8, ch := 0, op := .joinDec }]

/-- What is left of the lanes, crews and workgroups of gangs goes. -/
def removeGangs (gs : List (Nat × Gang)) : Act := fun s =>
  let ws := gs.flatMap fun g => g.2.wgs
  Act.all [
    Act.each ws fun w => Act.all [
      Act.each (s.wgLanes w) fun k => fun _ => [.lane k none],
      Act.each (s.crews.filter fun x => x.1.wg == w) fun x => fun _ => [.crew x.1 none],
      fun _ => [.wg w none]],
    Act.each gs fun g => fun _ => [.gang g.1 none]] s

/-- The completion record of a launch is added, and the launch is over (R339). -/
def finishLaunch (launch : Nat) (l : Launch) (gs : List (Nat × Gang)) : Act := Act.all [
  writeCompletion l.ctx (l.side.toNat * 2 ^ 64 + l.lnum.toNat * 2 ^ 32 + l.reln % 16 * 2 ^ 20 +
    (if l.abandoned then 2 ^ 16 else 0) + l.kdi % 2 ^ 16),
  removeGangs gs,
  fun _ => [.launch launch none]]

/-- The writes of a launch's lanes have been performed: CDONE's decrement is sent, where it has one (R339) that is
present. (log 64, DESIGN CHOICE) -/
def closeLaunch (launch : Nat) (l : Launch) (gs : List (Nat × Gang)) : Act := fun s =>
  match if l.cdone = 0 then none else s.locate l.ctx s.fresh l.cdone with
  | some x => Act.all [sendDone l x, updLaunch launch fun v => { v with closing := some (true, [s.fresh]) }] s
  | none => finishLaunch launch l gs s

/-- LAUNCH_COMPLETE (R339): once nothing of the launch is under way, the bytes that its lanes left dirty in L1s are written back; then
CDONE is decremented at its home agent; then the completion record is added. (log 33, DEDUCED) -/
def stepLaunchComplete (launch : Nat) : Act := fun s =>
  match s.launches.get? launch with
  | none => []
  | some l =>
    let gs := s.gangs.filter fun g => g.2.launch == launch
    let ws := gs.flatMap fun g => g.2.wgs
    let cls := (gs.map fun g => g.2.cluster).dedup
    let busy := s.traces (fun k => ws.contains k.wg) ||
      (gs.any fun g => (s.cluster g.2.cluster).ports.any fun p => p.2.gang == g.1) ||
      ws.any fun w => match s.wgs.get? w with | some x => !x.freed | none => false
    if decide (l.finished < l.grid) || !s.isOpen l.ctx then []
    else match l.closing with
    | none => Act.when (!busy) (Act.all [
        Act.each cls sendWbacks,
        Act.read fun t =>
          let ids := cls.flatMap t.wbacksIn
          if ids.isEmpty then closeLaunch launch l gs
          else updLaunch launch fun v => { v with closing := some (false, ids) }]) s
    | some (false, ids) => Act.when (s.allPerformed ids) (closeLaunch launch l gs) s
    | some (true, ids) => Act.when (s.allPerformed ids) (finishLaunch launch l gs) s

end Sys2Proof.Machine
end

