-- ==== Sys2Proof/Machine/Park.lean ====
section
/-! DEFINITION. Machine/Park.lean: activation and parking of workgroups (R123, R124, R341 to R343, R439), pre-emption (R399,
R400), the reset and the freeing of a context (R366, R401), and the exit of workgroups and gangs (R229, R255, R340). -/

namespace Sys2Proof.Machine

open Sys2Proof

/-! ### Spokes and registers (R124, R439) -/

/-- The active workgroups of a core. -/
def State.activeOn (s : State) (core : Nat) : List (Nat × Wg) := s.wgs.filter fun w => w.2.core == core && w.2.active
/-- PRIO of a workgroup's launch. -/
def State.prioOf (s : State) (w : Wg) : Nat :=
  match s.gangs.get? w.gang with
  | some g => match s.launches.get? g.launch with | some l => l.prio | none => 15
  | none => 15
/-- Register bytes of a workgroup. -/
def Wg.regBytes (w : Wg) : Nat := w.desc.spokes * 64 * w.desc.regs
/-- Free spokes of a peloton slot that a context may use, with the workgroups `ws` active on the core. -/
def slotRoom (ws : List (Nat × Wg)) (ctx slot : Nat) : Nat :=
  let here := ws.filter fun w => w.2.place.any fun p => p.1 == slot
  if here.any fun w => w.2.ctx != ctx then 0
  else 4 - ((here.map fun w => (w.2.place.filter fun p => p.1 == slot).length).foldl (· + ·) 0)
/-- Do the register budget's bytes suffice? -/
def bytesOk (ws : List (Nat × Wg)) (w : Wg) : Bool :=
  decide ((ws.map fun x => x.2.regBytes).foldl (· + ·) 0 + w.regBytes ≤ 524288)

/-- Groups of each crew of a workgroup, larger crews first. -/
def Wg.crewSizes (w : Wg) : List Nat :=
  (w.crewOf.dedup.map fun c => (w.crewOf.filter (· == c)).length).mergeSort fun a b => decide (b ≤ a)
/-- Take from the smallest room that holds `n`. -/
def takeRoom (n : Nat) (rooms : List Nat) : Option (List Nat) :=
  match (rooms.filter fun r => decide (n ≤ r)).min? with
  | some r => some (rooms.erase r ++ [r - n])
  | none => none
/-- Have the rooms place for each size, sizes falling? -/
def packs : List Nat → List Nat → Bool
  | [], _ => true
  | n :: ns, rooms => match takeRoom n rooms with
    | some r => packs ns r
    | none => false

/-- Could a workgroup be activated beside the workgroups `ws` (R124, R439)? -/
def Wg.couldJoin (w : Wg) (ws : List (Nat × Wg)) : Bool :=
  let rooms := (List.range 16).map (slotRoom ws w.ctx)
  bytesOk ws w && (if w.begun then packs w.crewSizes rooms else decide (w.desc.spokes ≤ rooms.foldl (· + ·) 0))

/-- Is a placement of a workgroup's groups allowed beside the workgroups `ws`? -/
def Wg.placeOk (w : Wg) (ws : List (Nat × Wg)) (place : List (Nat × Nat)) : Bool :=
  bytesOk ws w && decide (place.length = w.desc.spokes) && decide place.Nodup &&
    (place.all fun p => decide (p.1 < 16) && decide (p.2 < 4) && decide (0 < slotRoom ws w.ctx p.1) &&
      !ws.any fun x => x.2.place.contains p) &&
    (!w.begun || (List.range place.length).all fun i => (List.range place.length).all fun j =>
      w.crewOf[i]? != w.crewOf[j]? || match place[i]?, place[j]?, w.place[i]?, w.place[j]? with
        | some a, some b, some x, some y => a.1 == b.1 && (decide (a.2 < b.2) == decide (x.2 < y.2))
        | _, _, _, _ => false)

/-- %crew of each group at the first activation: crews are the groups of one peloton, numbered by their lowest %lane (R117). -/
def crewNumbers (place : List (Nat × Nat)) : List Nat :=
  let slots := (place.map (·.1)).reverse.dedup.reverse
  place.map fun p => slots.idxOf p.1

/-- The lanes of a crew, by rank (R183). -/
def crewLanes (lanes : Nat) (place : List (Nat × Nat)) (nos : List Nat) (crew : Nat) : List Nat :=
  let groups := ((place.zip nos).zipIdx.filter fun x => x.1.2 == crew).mergeSort fun a b => decide (a.1.1.2 ≤ b.1.1.2)
  groups.flatMap fun x => (List.range 16).filterMap fun i => if 16 * x.2 + i < lanes then some (16 * x.2 + i) else none

/-! ### Activation -/

/-- A workgroup becomes active at a placement (R73, R121, R206, R343, R391, R403). (log 32, DEDUCED) -/
def activate (wg : Nat) (place : List (Nat × Nat)) : Act := fun s =>
  match s.wgs.get? wg with
  | none => []
  | some w =>
    let nos := if w.begun then w.crewOf else crewNumbers place
    let args := match s.gangs.get? w.gang with
      | some g => match s.launches.get? g.launch with | some l => l.args | none => []
      | none => []
    let k0 : Map Nat Word := args.zipIdx.map fun a => (a.2, a.1)
    let empty (slot : Nat) : Bool := !(s.activeOn w.core).any fun x => x.2.place.any fun p => p.1 == slot
    Act.all [
      Act.each ((place.map (·.1)).dedup.filter empty) fun p => updPeloton (w.core, p) fun v => { v with agelim := 8, overdue := [] },
      updWg wg fun w => { w with active := true, begun := true, place := place, crewOf := nos, activeAt := s.now, answers := [], saddleOwed := [] },
      Act.when (!w.begun) (Act.each nos.dedup fun c => fun _ => [.crew ⟨wg, c⟩ (some (Crew.start k0 (crewLanes w.desc.lanes place nos c)))]),
      Act.each (s.wgLanes wg) fun k => updLane k fun l => { l with wait := 0, latch := none, asked := none },
      Act.each w.saddleOwed fun c => fun t =>
        if (t.core w.core).saddle = some ⟨wg, c⟩ ∧ !(t.core w.core).requeue then []
        else Act.each (t.crewLive ⟨wg, c⟩) (fun k => updParks k fun p =>
          { p with acq := if p.acq.contains .saddle then p.acq else p.acq ++ [.saddle] }) t,
      Act.each w.answers (applyAnswer w.ctx),
      Act.each (s.wgLanes wg) fun k => fun t => match t.lanes.get? k with
        | some l => match l.err with
          | some e => Act.all [cancelParks k, Act.when (retryable l.regions).isNone (decideKill w.gang e.pc)] t
          | none => []
        | none => []] s

/-- May a parked workgroup be activated, the room aside: it has not ended, and its context is not held (R399)? -/
def State.eligible (s : State) (w : Wg) : Bool :=
  !w.active && !w.exited && (match s.gangs.get? w.gang with | some g => g.kill.isNone && !g.ended | none => false) &&
    match s.ctxs.get? w.ctx with | some c => c.state == 1 && decide (c.preempt.toNat ≤ 1) | none => false

/-- Does a parked workgroup go before another (R341)? -/
def State.goesBefore (s : State) (a b : Wg) : Bool :=
  decide (s.prioOf a < s.prioOf b) || (s.prioOf a == s.prioOf b && decide (a.parkedAt < b.parkedAt))

/-- WORKGROUP_ACTIVATE (R341): a parked workgroup of a core that fits, none that goes before it fitting. While the quantum swaps
a workgroup in, that one is next (R342). (log 1, DESIGN CHOICE; log 2, DEDUCED; log 34, DEDUCED) -/
def stepActivate (wg : Nat) (place : List (Nat × Nat)) : Act := fun s =>
  match s.wgs.get? wg with
  | none => []
  | some w =>
    let ws := s.activeOn w.core
    let turn := match (s.core w.core).swap with
      | some t => t == wg
      | none => s.wgs.all fun x => x.2.core != w.core || !s.eligible x.2 || !s.goesBefore x.2 w || !x.2.couldJoin ws
    if s.eligible w && turn && w.placeOk ws place then
      Act.all [
        updCore w.core fun c => { c with swap := none },
        activate wg place] s
    else []

/-! ### Parking (R343) -/

/-- Is a context in the park stage of pre-emption (R399)? (log 35, DEDUCED) -/
def State.parkStage (s : State) (ctx : Nat) : Bool :=
  match s.ctxs.get? ctx with | some c => c.state == 1 && c.preempt == 2 && c.pre.isSome | none => false

/-- The rollbacks that pre-emption makes in a workgroup: each lane with an open region to which a tile is bound goes back to
the outermost such region (R400). -/
def State.parkRolls (s : State) (wg : Nat) : List Roll := (s.wgLanes wg).filterMap fun k =>
  match s.lanes.get? k with
  | none => none
  | some l =>
    let depths := (List.range l.regions.length).filter fun d => (s.boundTiles k (d + 1)).any fun t =>
      (match ((s.core (s.coreOf k)).tile t).bound with | some (_, x) => x == d + 1 | none => false)
    match depths.head? with
    | some d => if l.exited then none else s.roll k (l.regions.length - (d + 1))
    | none => none

/-- The lanes of a workgroup stop presenting. What the lanes that pre-emption rolls back wait for is withdrawn, as their rollback
cancels it (R400, R403). (log 35, DEDUCED) -/
def startPark (wg : Nat) : Act := fun s =>
  let rolls := match s.wgs.get? wg with | some w => if s.parkStage w.ctx then s.parkRolls wg else [] | none => []
  Act.all [
    fun t => updWg wg (fun w => { w with parking := true, rolling := t.parkStage w.ctx }) t,
    Act.each rolls fun r => fun t => Act.all [
      updLane r.lane fun l => { l with pc := t.errPc r.lane, latch := none },
      cancelParks r.lane] t] s

/-- Is a result outstanding for a lane that parking waits for (R343)? It does not wait for that of a collective, and of a wait that it
withdraws. (log 35, DEDUCED) -/
def State.owes (s : State) (k : LaneId) (l : Lane) : Bool :=
  let kept := (match l.parks.coll with | some c => c.res.toList | none => []) ++ ((l.parks.queue.bind (s.waitRes k)).toList)
  l.results.any fun r => !kept.contains r.id

/-- The waits of a lane that its workgroup's parking withdraws: it will present those instructions afresh (R343). (log 35, DEDUCED) -/
def withdrawWait (k : LaneId) : Act := fun s =>
  let again := match (s.lanes.get? k).bind fun l => l.parks.queue with
    | some (.stream _) | some (.matrix _) | some (.join _ _ _ _ _) | none => false
    | _ => true
  Act.when again (Act.all [withdrawQueue k false, backUp k]) s

/-- The workgroup is parked: its spokes are free, its saddle passes as MPASS passes it, and a request for the crew goes first (R206).
(log 34, DEDUCED; log 35, DEDUCED) -/
def finishPark (wg : Nat) : Act := fun s =>
  match s.wgs.get? wg with
  | none => []
  | some w =>
    let owed := match (s.core w.core).saddle with | some c => if c.wg = wg then [c] else [] | none => []
    Act.all [
      updWg wg fun w => { w with active := false, parking := false, rolling := false, parkedAt := s.now, saddleOwed := owed.map (·.crew) },
      Act.each (s.wgLanes wg) fun k => updLane k fun l => { l with latch := none, parks := { l.parks with yield := none } },
      Act.each (w.place.map (·.1)).dedup fun p => updPeloton (w.core, p) fun v => { v with overdue := v.overdue.filter fun k => k.wg != wg },
      Act.each owed fun c => Act.all [
        updCore w.core fun v => { v with requeue := true, passing := some (v.passing.getD (v.unaccepted c)) },
        serveSaddle w.core]] s

/-- Carry a parking on (R343, R400). The rollbacks that pre-emption has begun are made also when PREEMPT_RESUME comes in between. -/
def servePark (wg : Nat) : Act := fun s =>
  match s.wgs.get? wg with
  | none => []
  | some w =>
    let stage := w.rolling || s.parkStage w.ctx
    let rolls := if stage then s.parkRolls wg else []
    let lanes := s.wgLanes wg
    let back := rolls.filter fun r => r.restores s
    if stage && lanes.any fun k => s.laneIs k fun l => l.err.isSome then []
    else match rolls.findSome? fun r => r.drain s with
      | some a => a s
      | none =>
        if (rolls.any fun r => !r.ready s) || lanes.any fun k => s.laneIs k (s.owes k) then []
        else Act.all [
          Act.each rolls fun r => Act.all [cancelParks r.lane, r.finish (s.pcOf r.lane) false],
          Act.when (!back.isEmpty) (writeError { s.errOf ⟨wg, 0⟩ 0x14 0 0 with cnt := back.length, iex := false }),
          Act.each lanes withdrawWait,
          finishPark wg] s

/-! ### The quantum (R342) -/

/-- Cycles of a number of µs (R2). -/
def cyclesOf (us : Nat) : Nat := 1200 * us

/-- The least prefix of a list of candidates whose removal satisfies a test. -/
def leastPrefix {α : Type} (test : List α → Bool) (xs : List α) : Option (List α) :=
  ((List.range (xs.length + 1)).map fun n => xs.take n).find? test

/-- A swap whose workgroup can no longer be activated is given up. (log 34, DEDUCED) -/
def serveSwap (core : Nat) : Act := fun s =>
  match (s.core core).swap with
  | some t => match s.wgs.get? t with
    | some w => if s.eligible w then [] else updCore core (fun c => { c with swap := none }) s
    | none => updCore core (fun c => { c with swap := none }) s
  | none => []

/-- Is pre-emption off for a workgroup's context? -/
def State.calm (s : State) (w : Wg) : Bool := match s.ctxs.get? w.ctx with | some c => c.preempt == 0 && c.state == 1 | none => false

/-- QUANTUM_TICK (R342): the longest-parked workgroup that has started and has been parked longer than Q is swapped in; active
workgroups are parked for it, the least urgent first, then the longest active. It is activated at `place` where it fits at
once, else by WORKGROUP_ACTIVATE when they have left. (log 4, DESIGN CHOICE; log 34, DEDUCED) -/
def stepQuantum (core : Nat) (place : List (Nat × Nat)) : Act := fun s =>
  let c := s.core core
  let q := cyclesOf c.quantum.toNat
  if s.now < c.lastTick + q then [] else
  let started (w : Wg) : Bool := match s.gangs.get? w.gang with | some g => g.started | none => false
  let cands := (s.wgs.filter fun w => w.2.core == core && s.eligible w.2 && s.calm w.2 && started w.2 && decide (w.2.parkedAt + q < s.now)).mergeSort
    fun a b => decide (a.2.parkedAt ≤ b.2.parkedAt)
  let ws := s.activeOn core
  let victims := (ws.filter fun w => !w.2.parking && s.calm w.2 && decide (w.2.activeAt + q ≤ s.now)).mergeSort fun a b =>
    decide (s.prioOf b.2 < s.prioOf a.2) || (s.prioOf a.2 == s.prioOf b.2 && decide (a.2.activeAt ≤ b.2.activeAt))
  let tick : Act := updCore core fun v => { v with quantum := v.quantumSet, lastTick := s.now }
  match c.swap, cands with
  | none, (t, w) :: _ =>
    match leastPrefix (fun vs => w.couldJoin (ws.filter fun x => !vs.any fun v => v.1 == x.1)) victims with
    | none => tick s
    | some vs => Act.all [
        tick,
        Act.each vs fun v => Act.all [startPark v.1, servePark v.1],
        fun u => if w.placeOk (u.activeOn core) place then activate t place u
          else updCore core (fun v => { v with swap := some t }) u] s
  | _, _ => tick s

/-! ### Pre-emption (R399, R400) -/

/-- PREEMPT_START: T1 and T2 in µs; a T2 below T1 is taken as T1. -/
def stepPreemptStart (ctx : Nat) (t1 t2 : Half) : Act := fun s =>
  match s.ctxs.get? ctx with
  | none => []
  | some c =>
    if c.state != 1 || c.preempt != 0 then []
    else [.ctx ctx (some { c with preempt := 1, pre := some (s.now, t1.toNat, max t1.toNat t2.toNat) })]

/-- PREEMPT_RESUME. -/
def stepPreemptResume (ctx : Nat) : Act := fun s =>
  match s.ctxs.get? ctx with
  | none => []
  | some c => if c.state != 1 || c.preempt == 0 then [] else [.ctx ctx (some { c with preempt := 0, pre := none })]

/-- Does a workgroup own a live tile (R230)? -/
def State.ownsLive (s : State) (wg : Nat) (w : Wg) : Bool := (List.range 16).any fun i =>
  ((s.core w.core).tile i).owner == some wg && (s.core w.core).live i

/-- The workgroups of a context that have not ended. -/
def State.wgsOf (s : State) (ctx : Nat) : List (Nat × Wg) := s.wgs.filter fun w => w.2.ctx == ctx && !w.2.exited

/-- The park stage goes on: workgroups without a live tile are parked; when every workgroup is, the stage is parked. The order among
workgroups, which the spec leaves open, follows free values. (log 5, DESIGN CHOICE) -/
def servePreempt (ctx : Nat) : Act := fun s =>
  let ws := s.anyOrder (2 ^ 41) (·.1) (s.wgsOf ctx)
  if !s.parkStage ctx then [] else Act.all [
    Act.each ws fun w => fun t => match t.wgs.get? w.1 with
      | some v =>
        if v.active && !v.parking && !t.ownsLive w.1 v && (match t.gangs.get? v.gang with | some g => g.kill.isNone | none => false) then
          startPark w.1 t
        else []
      | none => [],
    Act.each ws fun w => fun t => match t.wgs.get? w.1 with
      | some v => if v.parking then servePark w.1 t else []
      | none => [],
    fun t => if (t.wgsOf ctx).all fun w => !w.2.active then updCtx ctx (fun c => { c with pre := none }) t else []] s

/-- PREEMPT_T1_EXPIRY: T1 has passed, and the park stage begins. (log 4, DESIGN CHOICE) -/
def stepT1 (ctx : Nat) : Act := fun s =>
  match s.ctxs.get? ctx with
  | none => []
  | some c => match c.pre with
    | some (t0, t1, _) =>
      if c.state == 1 && c.preempt == 1 && decide (t0 + cyclesOf t1 ≤ s.now) then
        Act.all [updCtx ctx fun c => { c with preempt := 2 }, servePreempt ctx] s
      else []
    | none => []

/-! ### The end of a context (R366, R401) -/

/-- The reset of a context begins: its lanes end, its tiles are discarded, its engine commands are drained, its cistern records and
open fault records go. Its launches, none of which is placed or completed any more, go with it at the end. (log 33, DEDUCED) -/
def resetContext (ctx : Nat) : Act := fun s =>
  let ws := s.wgs.filter fun w => w.2.ctx == ctx
  let mine (k : LaneId) : Bool := ws.any fun w => w.1 == k.wg
  let gs := s.gangs.filter fun g => g.2.ctx == ctx && !g.2.ended
  Act.all [
    updCtx ctx fun c => { c with state := 2, pre := none, preempt := if c.preempt = 0 then 0 else 2 },
    Act.each ws fun w => Act.each ((List.range 16).filter fun i => ((s.core w.2.core).tile i).owner == some w.1) (discardTile w.2.core),
    Act.each (gs.map fun g => g.2.cluster).dedup fun cl => Act.read fun t => Act.all (t.drainAll mine cl),
    Act.each ws fun w => Act.each (s.wgLanes w.1) endLane,
    Act.each (s.clusters.map (·.1)) fun cl => updCluster cl fun c => { c with
      cistern := c.cistern.filter fun r => r.ctx != ctx, parts := c.parts.del ctx },
    Act.each (s.seqs.map (·.1)) fun d => updSeqr d fun q => { q with given := q.given.filter fun x => x.1 != ctx },
    Act.each gs fun g => updGang g.1 fun v => { v with kill := none },
    closeFaults ctx fun _ => true,
    writeError { ecode := 0x30, ctx := ctx, cnt := gs.length }] s

/-- PREEMPT_T2_EXPIRY: T2 has passed before every workgroup was parked (R401). (log 4, DESIGN CHOICE) -/
def stepT2 (ctx : Nat) : Act := fun s =>
  match s.ctxs.get? ctx with
  | none => []
  | some c => match c.pre with
    | some (t0, _, t2) =>
      if c.state == 1 && c.preempt == 2 && decide (t0 + cyclesOf t2 ≤ s.now) then resetContext ctx s else []
    | none => []

/-- CONTEXT_OPEN: STATE goes from free to open. (log 2, DEDUCED) -/
def stepOpen (ctx : Nat) : Act := fun s =>
  let c := s.ctxs.getD ctx Ctx.start
  if ctx < 4096 ∧ c.state = 0 then [.ctx ctx (some { c with state := 1 })] else []

/-- CONTEXT_CLOSE: STATE goes from open to resetting. -/
def stepClose (ctx : Nat) : Act := fun s =>
  match s.ctxs.get? ctx with
  | some c => if c.state = 1 then resetContext ctx s else []
  | none => []

/-- CONTEXT_FREE: once nothing of a resetting context remains, it is free, its binding table empty (R355). What its lanes left stopped is
drained first, and then their hold lists are released (R401, R410). -/
def stepFree (ctx : Nat) : Act := fun s =>
  match s.ctxs.get? ctx with
  | none => []
  | some c =>
    if c.state ≠ 2 then [] else
    let ws := s.wgs.filter fun w => w.2.ctx == ctx
    let gs := s.gangs.filter fun g => g.2.ctx == ctx
    let mine (k : LaneId) : Bool := ws.any fun w => w.1 == k.wg
    let ds := (gs.map fun g => g.2.cluster).dedup.flatMap (s.drainAll mine)
    let held := (ws.flatMap fun w => s.wgLanes w.1).filter fun k => s.laneIs k fun l => !l.holds.isEmpty || !l.arriving.isEmpty
    if !ds.isEmpty then Act.all ds s
    else if !held.isEmpty && !gs.any (fun g => s.commandsLeft mine g.2.cluster) then dropHolds held s
    else if s.traces mine || (ws.any fun w => !w.2.freed) ||
        gs.any (fun g => !g.2.ended || (s.cluster g.2.cluster).ports.any fun p => p.2.gang == g.1) then []
    else Act.all [
      removeGangs gs,
      Act.each (s.launches.filter fun l => l.2.ctx == ctx) fun l => fun _ => [.launch l.1 none],
      updCtx ctx fun c => { c with state := 0, preempt := 0, binds := [] }] s

/-! ### Exits (R14, R177, R229, R255, R340) -/

/-- Has a workgroup's gang a kill decided? -/
def State.killed (s : State) (w : Wg) : Bool := match s.gangs.get? w.gang with | some g => g.kill.isSome | none => false

/-- A workgroup whose lanes have all exited exits: its spokes are free and its weirs retire (R70). -/
def exitWg (wg : Nat) : Act := fun s =>
  match s.wgs.get? wg with
  | none => []
  | some w =>
    if w.exited || s.killed w || !(s.liveLanes wg).isEmpty then [] else Act.all [
      updWg wg fun w => { w with exited := true, active := false, parking := false, retiring := w.weirs, exitMark := s.fresh, answers := [], saddleOwed := [] },
      Act.each (w.place.map (·.1)).dedup fun p => updPeloton (w.core, p) fun v => { v with overdue := v.overdue.filter fun k => k.wg != wg }] s

/-- The tiles and segments of an exited workgroup are freed when what was issued before its exit is over. -/
def releaseWg (wg : Nat) : Act := fun s =>
  match s.wgs.get? wg with
  | none => []
  | some w =>
    if !w.exited || w.freed then [] else Act.all [
      freeTilesOf wg,
      fun t =>
        let gang := match t.gangs.get? w.gang with | some g => g.wgs | none => []
        let busy := (t.reqs.any fun r => !r.done && r.acc.any fun a => a.touches.any (meet (scratchKey wg 0, 2 ^ 22))) ||
          ((List.range 4).any fun i => (t.core (w.core / 4 * 4 + i)).mq.any fun m =>
            gang.contains m.lane.wg && decide (m.id < w.exitMark) && m.uses t wg) ||
          ((t.cluster (w.core / 4)).cmds.any fun m => gang.contains m.lane.wg && decide (m.id < w.exitMark)) ||
          ((List.range 16).any fun i => ((t.core w.core).tile i).owner == some wg)
        if busy || !w.weirs.isEmpty then [] else freeWg wg t] s

/-- A gang whose workgroups have all exited has exited: its launch is told. Its ports are released when its commands are
complete (R308). -/
def exitGang (gid : Nat) : Act := fun s =>
  match s.gangs.get? gid with
  | none => []
  | some g =>
    let out := g.wgs.all fun w => match s.wgs.get? w with | some x => x.exited | none => true
    Act.all [
      Act.when (!g.ended && g.kill.isNone && out) (Act.all [
        updGang gid fun g => { g with ended := true },
        updLaunch g.launch fun l => { l with finished := l.finished + 1 }]),
      fun t => match t.gangs.get? gid with
        | some v =>
          if v.ended && !((t.cluster v.cluster).cmds.any fun m => v.wgs.contains m.lane.wg) then freePorts gid v.cluster t else []
        | none => []] s

/-- Exits and what follows from them. -/
def serveExits : Act := Act.all [
  fun s => Act.each (s.wgs.map (·.1)) exitWg s,
  fun s => Act.each (s.wgs.map (·.1)) releaseWg s,
  fun s => Act.each (s.gangs.map (·.1)) exitGang s]

end Sys2Proof.Machine
end

