-- ==== Sys2Proof/Machine/Control.lean ====
section
/-! DEFINITION. Machine/Control.lean: what writes to the device control space do (R426 to R431, R433, R435, R437). -/

namespace Sys2Proof.Machine

open Sys2Proof

/-! ### Writes -/

/-- A context's CI field of a ring. -/
def Ctx.withCi (c : Ctx) (r : Ring) (ci : Word) : Ctx :=
  match r with
  | .fault => { c with fqci := ci }
  | .error => { c with eqci := ci }
  | .completion => { c with cqci := ci }

/-- CONTEXT_CI_WRITE (R298). -/
def stepCi (ctx : Nat) (r : Ring) (ci : Word) : Act := fun s =>
  if ctx < 4096 then [.ctx ctx (some ((s.ctx ctx).withCi r ci))] else []

/-- Does a write of `n` bytes at a byte offset `o` of an item write its bits from `lo` on? -/
def wrote (o n lo : Nat) : Bool := decide (8 * o ≤ lo) && decide (lo < 8 * (o + n))

/-- The settings of an entry written while STATE is free: `v` is the whole entry as the write of `n` bytes at offset `o` leaves it. A
setting with a range that is written takes the nearest end (R427); one that is not written stays. -/
def Ctx.withSettings (c : Ctx) (v o n : Nat) : Ctx :=
  let w (hi lo : Nat) : Word := BitVec.ofNat 32 (bits v hi lo)
  let d (hi lo : Nat) : DWord := BitVec.ofNat 64 (bits v hi lo)
  let h (hi lo : Nat) : Half := BitVec.ofNat 16 (bits v hi lo)
  let z (hi lo : Nat) : Byte := BitVec.ofNat 8 (if wrote o n lo then clamp 6 16 (bits v hi lo) else bits v hi lo)
  let vec (x : Half) : Half := x &&& 0x87FF#16
  { c with
    ptroot := d 63 0, kdtab := d 127 64, kdn := BitVec.ofNat 32 (min 65535 (bits v 159 128)),
    stack := BitVec.ofNat 32 (min (2 ^ 20) (bits v 191 160)), traptab := d 255 192, fqb := d 319 256, eqb := d 383 320, cqb := d 447 384,
    ovfb := d 703 640, ovfn := w 735 704, undob := d 831 768, undosz := w 863 832, bndmask := h 895 880, fqs := z 903 896,
    eqs := z 911 904, cqs := z 919 912, fvec := vec (h 943 928), evec := vec (h 959 944), cvec := vec (h 975 960),
    sigreq := bits v 996 996 == 1, stkva := d 1087 1024, stksz := w 1119 1088 }

/-- A write of `n` bytes at offset `o` of a context's entry, which makes it `v` (R366). -/
def writeContext (ctx v o n : Nat) : Act := fun s =>
  let c := s.ctx ctx
  let c1 := if c.state = 0 then c.withSettings v o n else c
  let c2 : Ctx := { c1 with fqci := BitVec.ofNat 32 (bits v 511 480), eqci := BitVec.ofNat 32 (bits v 575 544),
                            cqci := BitVec.ofNat 32 (bits v 639 608) }
  Act.all [
    fun _ => [.ctx ctx (some c2)],
    Act.when (c.state == 0 && bits v 993 992 == 1) (stepOpen ctx),
    Act.when (c.state == 1 && bits v 993 992 == 2) (stepClose ctx)] s

/-- QUANTUM_WRITE (R427): it takes effect at the core's next tick. -/
def stepQuantumWrite (core : Nat) (v : Half) : Act :=
  Act.when (decide (core < 576)) (updCore core fun c => { c with quantumSet := BitVec.ofNat 16 (clamp 1 65535 v.toNat) })
/-- CISTHW_WRITE (R427): it takes effect at the cistern's next take or spawn. -/
def stepCisthw (cluster : Nat) (v : Half) : Act :=
  Act.when (decide (cluster < 144)) (updCluster cluster fun c => { c with cisthwSet := BitVec.ofNat 16 (clamp 1 4095 v.toNat) })
/-- ROUTE_WRITE (R431). -/
def stepRoute (d : Nat) (v : Word) : Act := fun _ =>
  if d < 256 then [.route d (some (BitVec.ofNat 32 (v.toNat % 2 ^ 18)))] else []
/-- ATTESTATION_NONCE_WRITE (R437): the report starts, or starts again. (log 25, DEDUCED) -/
def stepNonce (v : BitVec 256) : Act := updDev fun d => { d with nonce := v, attStatus := 0 }

/-- Does an invalidation's range meet `n` bytes at an address? -/
def Inval.hits (i : Inval) (va : DWord) (n : Nat) : Bool :=
  i.len == 0 || (decide (i.start.toNat ≤ va.toNat + n) && decide (va.toNat < i.start.toNat + i.len.toNat))

/-- Does an invalidation's range meet the page of a cached leaf entry? -/
def Inval.meets (i : Inval) (e : Nat × BitVec 128) : Bool :=
  let n := 2 ^ pageBits (bits e.2.toNat 3 2)
  let lo := e.1 * 65536 / n * n
  i.len == 0 || (decide (i.start.toNat < lo + n) && decide (lo < i.start.toNat + i.len.toNat))

/-- What is under way in an invalidation's range by entries that probes have found: requests, write-backs, sluice operations, tasks that
wait to be spawned, and copies whose probe was at their issue (R237). -/
def State.underWay (s : State) (ctx : Nat) (i : Inval) : List Nat :=
  let mine (k : LaneId) : Bool := s.ctxOf k == ctx
  ((s.reqs.filter fun r => !r.done && r.acc.any fun a => a.op.isWback || (r.ctx == ctx &&
    (i.hits a.va a.size || 1 < a.touches.length))).map (·.id)) ++
  ((s.slreqs.filter fun r => mine r.lane && i.hits r.va 16).map (·.id)) ++
  ((s.slrels.filter fun r => mine r.lane).map (·.id)) ++
  (s.lanes.filterMap fun l => match l.2.parks.queue with
    | some (.spawn _ _ (some (_, va)) res _ _) => if mine l.1 && i.hits va 8 then some res else none
    | _ => none) ++
  s.clusters.flatMap fun c => (c.2.cmds.filter fun m => mine m.lane && match m.kind with
    | .nz src dst n _ _ _ _ _ _ => i.hits src (8 * n) || i.hits dst (8 * n)
    | .cpyl dst src n _ _ => i.hits src n || i.hits dst n
    | _ => false).map (·.id)

/-- Is all of it over? -/
def State.over_ (s : State) (ids : List Nat) : Bool := s.allPerformed ids && !(s.slreqs.any fun r => ids.contains r.id) &&
  !(s.lanes.any fun l => match l.2.parks.queue with | some (.spawn _ _ _ res _ _) => ids.contains res | _ => false) &&
  !s.clusters.any fun c => c.2.cmds.any fun m => ids.contains m.id

/-- The write-back of every line that an L1 holds dirty. -/
def writeBackAll : Act := fun s => Act.each (s.clusters.map (·.1)) sendWbacks s

/-- An invalidation begins to act: cached entries of its range are gone, and what older ones have led to is on its way. -/
def invalBegin (ctx : Nat) (i : Inval) : Act := fun s => Act.all [
  writeBackAll,
  Act.read fun t => updCtx ctx fun c => { c with
    tlb := c.tlb.filter fun e => !i.meets e,
    invals := match c.invals with
      | _ :: rest => { i with after := some (t.underWay ctx i) } :: rest
      | [] => [] }] s

/-- INVALIDATION_COMPLETE (R361, R430): from some moment on the oldest invalidation of a context leaves no older entry to probes; once
everything that older ones led to has been performed, it completes. -/
def stepInvalDone (ctx : Nat) : Act :=
  let head (t : State) : Option Inval := (t.ctxs.get? ctx).bind fun c => c.invals.head?
  Act.all [
    Act.read fun t => Act.opt (head t) fun i => Act.when i.after.isNone (invalBegin ctx i),
    Act.read fun t => Act.opt (head t) fun i => Act.when (match i.after with | some ids => t.over_ ids | none => false)
      (updCtx ctx fun c => { c with invals := c.invals.drop 1, invdone := c.invdone + 1 })]

/-- The power settings written (R435). -/
def writePower (v : Nat) : Act := updDev fun d => { d with
  pcap := BitVec.ofNat 12 (clamp 1200 3600 (bits v 11 0)), floor := BitVec.ofNat 8 (clamp 4 20 (bits v 39 32)),
  tlim := BitVec.ofNat 8 (clamp 20 60 (bits v 47 40)) }

/-- The reliability ring's settings written (R433), by a write of `n` bytes at offset `o`. -/
def writeRing (v o n : Nat) : Act := updDev fun d => { d with
  relBase := BitVec.ofNat 64 (bits v 63 0),
  relSize := BitVec.ofNat 64 (if wrote o n 64 then clamp 6 16 (bits v 71 64) else bits v 71 64),
  relCi := BitVec.ofNat 32 (bits v 191 160) }

/-- A write of `n` bytes at offset `o` of an item, which makes it `v`. -/
def writeItem (x : Item) (v o n : Nat) : Act :=
  match x with
  | .quantum n => stepQuantumWrite n (BitVec.ofNat 16 v)
  | .cisthw n => stepCisthw n (BitVec.ofNat 16 v)
  | .power => writePower v
  | .ring => writeRing v o n
  | .nonce => stepNonce (BitVec.ofNat 256 v)
  | .queue q => stepQueueConfig q (BitVec.ofNat 128 v)
  | .context c => writeContext c v o n
  | .answer c => answer c (BitVec.ofNat 32 (bits v 31 0)) (BitVec.ofNat 64 (bits v 191 128)) (Action.ofCode (bits v 33 32))
      (BitVec.ofNat 64 (bits v 255 192))
  | .inval c => stepInvalidate c (BitVec.ofNat 64 (bits v 63 0)) (BitVec.ofNat 64 (bits v 127 64))
  | .preempt c =>
    if bits v 0 0 = 0 then stepPreemptStart c (BitVec.ofNat 16 (bits v 31 16)) (BitVec.ofNat 16 (bits v 47 32))
    else stepPreemptResume c
  | .route d => stepRoute d (BitVec.ofNat 32 v)
  | .identity | .status | .report | .invdone _ | .binding _ _ => Act.skip

/-- A write to the control space (R427): of a whole register, naturally aligned; any other is discarded. (log 18, DEDUCED; log 36, DEDUCED; log 47, DESIGN CHOICE) -/
def controlWrite (off : Nat) (bs : List Byte) : Act := fun s =>
  match regAt off bs.length with
  | none => []
  | some (x, o) =>
    if !s.dev.up then [] else
    let old := s.item x
    let lo := old % 2 ^ (8 * o)
    let hi := old / 2 ^ (8 * (o + bs.length))
    writeItem x (lo + 2 ^ (8 * o) * natLE bs + 2 ^ (8 * (o + bs.length)) * hi) o bs.length s

/-- Add a record to the reliability log; it is dropped when the ring is full, or has no size yet (R433). (log 27, DEDUCED) -/
def writeLog (code unit : Nat) : Act := fun s =>
  let d := s.dev
  if d.relSize = 0 ∨ 2 ^ d.relSize.toNat ≤ (d.relPi - d.relCi).toNat then []
  else Act.all [
    storeBytes (d.relBase.toNat + d.relPi.toNat % 2 ^ d.relSize.toNat * 64) (bytesLE 64 (code + unit % 2 ^ 64 * 2 ^ 64)),
    updDev fun d => { d with relPi := d.relPi + 1 }] s

end Sys2Proof.Machine
end

