-- ==== Sys2Proof/Machine/Home.lean ====
section
/-! DEFINITION. Machine/Home.lean: the home agents (R238, R247, R251, R259 to R274, R425, R432): requests accepted and performed,
miss registers and fills, held accesses, and the writing of long-latency results (R37). -/

namespace Sys2Proof.Machine

open Sys2Proof

/-! ### What a home agent reads and writes -/

/-- Write bytes; conditions of launches and join counters that lanes wait for are watched (R337, R352). (log 18, DEDUCED) -/
def homeWrite (key : Nat) (bs : List Byte) : Act := fun s =>
  match s.controlOff key with
  | some off => controlWrite off bs s
  | none => Act.all [storeBytes key bs, watchCounters, serveJoins] s
/-- The bytes that an access reads; in the control space, of a register of that size (R427). -/
def State.homeBytes (s : State) (key n : Nat) : List Byte := match s.controlOff key with
  | some off => bytesLE n (s.controlRead off n)
  | none => s.bytes key n
/-- Does the line of a key carry an uncorrectable error (R251)? -/
def State.poisoned (s : State) (key : Nat) : Bool := s.dev.poison.contains (lineOf (s.phys key))

/-! ### Atomics (R248 to R250) -/

/-- The new value of an atomic, and its flags. -/
def rmwNew (op : Rmw) (t : Typ) (old a b : Nat) : Nat × BitVec 7 :=
  let n := if t.is64 then 64 else 32
  let less (x y : Nat) : Bool := decide (t.value x < t.value y)
  match op with
  | .add => ((old + a) % 2 ^ n, 0)
  | .min => (if less a old then a else old, 0)
  | .max => (if less old a then a else old, 0)
  | .and => (Nat.land old a, 0)
  | .or => (Nat.lor old a, 0)
  | .xor => (Nat.xor old a, 0)
  | .xchg => (a, 0)
  | .incw => (if a ≤ old then 0 else old + 1, 0)
  | .decw => (if old = 0 ∨ a < old then a else old - 1, 0)
  | .cas => (if old = a then b else old, 0)
  | .fadd =>
    if t == .f32 then formF32.result 0 (FV.add 0 (formF32.decode old) (formF32.decode a))
    else addHalves t 0 (BitVec.ofNat 32 old) (BitVec.ofNat 32 a)

/-! ### Performing an access -/

/-- The value of an outstanding result becomes known (R37). -/
def knowResult (k : LaneId) (res : Nat) (vals : Writes) (flags : BitVec 7) (err : Option DetErr) (readyAt : Nat) (req : Option Nat) : Act :=
  updLane k fun l => { l with results := l.results.map fun x =>
    if x.id = res then { x with vals := some vals, flags := flags, err := err, readyAt := readyAt, req := req } else x }

/-- The register words of a value of 0 for an access that consumes poisoned data (R251). -/
def AccOp.zeros : AccOp → Writes
  | .load a _ _ => (a.words 0 0).1.map fun w => (w.1, 0)
  | .rmw _ t _ _ (some (_, reg)) => (t.words 0).zipIdx.map fun w => (reg + w.2, w.1)
  | _ => []

/-- The result of an access that returns one. -/
def AccOp.result : AccOp → Option Nat
  | .load _ _ r => some r
  | .rmw _ _ _ _ (some (r, _)) => some r
  | _ => none

/-- An access that consumes poisoned data (R251, R432): 0 is written, a record is written, and a detected error is taken with the
result; for an exited lane it is reported at once (R402). (log 17, DEDUCED) -/
def consumePoison (a : Access) (readyAt : Nat) (req : Option Nat) : Act := fun s =>
  if a.lane = outsider then [] else
  Act.all [
    writeError (s.errOf a.lane 0x01 a.pc.toNat a.va.toNat),
    if s.gone a.lane then takeError a.lane 1 0 a.pc
    else Act.opt a.op.result fun r => knowResult a.lane r a.op.zeros 0 (some { source := 1, code := 0, pc := a.pc }) readyAt req] s

/-- A store or no-return atomic that meets a poisoned line (R251). (log 17, DEDUCED) -/
def writePoison (a : Access) : Act := fun s =>
  if a.lane = outsider then [] else writeError (s.errOf a.lane 0x02 a.pc.toNat a.va.toNat) s

/-- A line of the cluster's L1 after a request has written bytes of it back: those that it carried, and not written again, are clean. -/
def markClean (cl line id : Nat) : Act := updCluster cl fun c =>
  let clean (b : Nat × L1Byte) : Nat × L1Byte := if b.2.sent = some id then (b.1, { b.2 with dirty := false, sent := none }) else b
  { c with l1 := c.l1.map fun l => if l.line = line then { l with bytes := l.bytes.map clean } else l }

/-- The bytes of a line, by offset, that a cluster's write-backs on their way will write. -/
def State.flyingBack (s : State) (cl line : Nat) : List Nat := s.reqs.flatMap fun r =>
  if r.cluster = cl ∧ r.line = line ∧ r.done = false then r.acc.flatMap fun a => match a.op with
    | .wback bs => bs.map (·.1)
    | _ => []
  else []

/-- A fill from the home slice (R254, R263, R438): the line is allocated where the hint allows it, and merged into the bytes that
are neither dirty nor being written back. One for a line that a draining bank holds is allocated nowhere, and the old clean bytes go
(R257, R277). (log 16, DEDUCED) -/
def fillL1 (r : Req) (a : Access) : Act := fun s =>
  let c := s.cluster r.cluster
  if !a.fill || !r.cache || !c.hasL1 || s.poisoned (r.line * 128) then []
  else if (match c.line? r.line with | some l => c.draining l.bank | none => false) then dropCleanLine r.cluster r.line s
  else
  let had := (c.line? r.line).isSome
  Act.all [
    Act.when (!had) (Act.opt (markAfter none a.ch false) fun m => allocate r.cluster r.line m r.home r.ctx a.lane a.pc),
    Act.read fun t => Act.opt ((t.cluster r.cluster).line? r.line) fun l => updCluster r.cluster (·.putLine
      { l with
        mark := if had then (markAfter (some l.mark) a.ch false).getD l.mark else l.mark,
        bytes := (List.range 128).foldl (fun (m : Map Nat L1Byte) i =>
          if (match Map.get? m i with | some b => b.dirty | none => (t.flyingBack r.cluster r.line).contains i) then m
          else Map.set m i { v := t.byte (r.line * 128 + i), dirty := false, sent := none, since := t.tick }) l.bytes })] s

/-- A line of a slice that a write has changed differs from DRAM (R264). -/
def dirtyLine (h : Home) (line : Nat) : Act := match h with
  | .slice n => updSlice n fun c => { c with
      dirty := if (c.lines.get? line).isSome && !c.dirty.contains line then c.dirty ++ [line] else c.dirty }
  | _ => Act.skip

/-- Bytes of a line that are stored at home: the cluster's copy takes them as clean bytes, and write-backs on their way leave them out. -/
def overHome (cl key : Nat) (bs : List Byte) : Act := fun s =>
  let line := lineOf key
  let val (o : Nat) : Option Byte := if key % 128 ≤ o then bs[o - key % 128]? else none
  Act.all [
    updCluster cl fun c => { c with
      l1 := c.l1.map fun l =>
        if l.line = line then { l with
          bytes := l.bytes.map fun b => match val b.1 with
            | some v => (b.1, { b.2 with v := v, dirty := false, sent := none })
            | none => b }
        else l },
    Act.when (!(s.wbacksOf cl line).isEmpty) (updReqs fun rs => rs.map fun r => if r.cluster = cl ∧ r.line = line then
      { r with acc := r.acc.map fun a => match a.op with
        | .wback ws => { a with op := .wback (ws.filter fun w => (val w.1).isNone) }
        | _ => a } else r)] s

/-- The element of an STE whose scale byte has arrived is stored as by ST.WB (R244): in the L1, or by a request to its home slice, as
ST.CG is (R242, R257), where the L1 does not take it or it has to go home. (log 50, DEDUCED) -/
def storeElem (r : Req) (a : Access) (page : Typ) (v : Word) (typ : Typ) (l : Loc) (scale : Nat) (home : Bool) : Act := fun s =>
  let (x, f) := encodeElem page v typ scale
  let bs := bytesLE (elemSize page) x
  let c := s.cluster r.cluster
  let inL1 := c.hasL1 && !(s.slrels.any fun y => y.lane == a.lane && decide (y.id < r.id) && meet (y.key, 16) (l.key, bs.length)) &&
    match c.line? (lineOf l.key) with
    | some y => !c.draining y.bank
    | none => !c.ways.isEmpty && a.ch.toNat != 3
  Act.all [
    setFlags a.lane f,
    if inL1 && !home then storeL1 r.cluster r.ctx a.lane a.pc a.va l.home a.ch l.key bs
    else Act.all [
      homeLine r.cluster (lineOf l.key),
      sendReqFor (some r.id) r.ctx r.cluster (lineOf l.key) l.home l.cache []
        [{ a with key := l.key, size := bs.length, op := .store bs, fill := false }]]] s

/-- One lane's access at its home agent (R238, R241, R243, R244, R247 to R251). (log 17, DEDUCED; log 18, DEDUCED) -/
def performAccess (r : Req) (readyAt : Nat) (a : Access) : Act := fun s =>
  let bad := s.poisoned a.key
  let own (key : Nat) : Act := Act.when (a.lane != outsider) (dropCleanLine r.cluster (lineOf key))
  match a.op with
  | .load as_ known res =>
    let scale := match as_ with | .lde _ _ sc _ _ => sc | _ => none
    let isKnown (k : Nat) : Bool := known.any fun b => b.1 == k
    let need := ((List.range a.size).map (a.key + ·)) ++ scale.toList
    if need.any fun k => !isKnown k && (s.poisoned k || !s.keyReach k) then consumePoison a readyAt (some r.id) s
    else
      let given (k : Nat) : Byte := ((known.find? fun b => b.1 == k).map (·.2)).getD (s.byte k)
      -- an access at the scale byte alone: the L1 gave the element
      let v := if scale = some a.key ∧ known ≠ [] then natLE ((known.filter fun b => b.1 != a.key).map (·.2)) else s.homeNum a.key a.size
      let sc := match scale with
        | some k => (given k).toNat
        | none => 0
      let (ws, f) := as_.words v sc
      knowResult a.lane res ws f none readyAt (some r.id) s
  | .prefetch => []
  | .ste page v typ l known dead home => updReqs (fun rs => rs.map fun q => if q.id = r.id then { q with acc := q.acc.map fun b =>
      if b = a then { b with op := .ste page v typ l (some (known.getD (s.byte a.key))) dead home } else b } else q) s
  | .unitRead u =>
    let line := (s.bytes (r.line * 128) 128, readyAt)
    match u with
    | .matrix core cmd => updCore core (fun c => { c with mq := c.mq.map fun m =>
        if m.id = cmd then { m with got := m.got.set r.line line } else m }) s
    | .engine cl cmd slot => updCluster cl (fun c => { c with cmds := c.cmds.map fun m =>
        if m.id = cmd then { m with got := m.got.set slot ((m.got.getD slot []).set r.line line) } else m }) s
    | .host keep => Act.all [
        updReqs fun rs => rs.map fun q => if q.id = r.id then { q with data := s.bytes a.key a.size } else q,
        updDev fun d => { d with hostCopies := if keep && !d.hostCopies.contains r.line then d.hostCopies ++ [r.line] else d.hostCopies }] s
    | .device _ => []
  | .unitWrite u bs =>
    let whole := decide (128 ≤ bs.length)
    if (match u with | .device _ => s.dev.retired.contains (a.key / 65536) | _ => false) then []
    else Act.all [
      Act.when (bad && !whole) (writePoison a),
      Act.when (bad && whole) (updDev fun d => { d with poison := d.poison.filter (· != lineOf (s.phys a.key)) }),
      homeWrite a.key bs,
      match u with
      | .matrix _ _ | .engine _ _ _ => own a.key
      | _ => Act.skip] s
  | .unitAdd _ typ bs =>
    if bad then writePoison a s else
    let z := elemSize typ
    let at_ := (List.range (bs.length / z)).map (z * ·)
    let old := if (s.controlOff a.key).isSome then at_.flatMap fun i => s.homeBytes (a.key + i) z else s.bytes a.key bs.length
    let (sum, f) := addRows typ (bs.length / z) old bs
    Act.all [
      if (s.controlOff a.key).isSome then Act.each at_ fun i => homeWrite (a.key + i) ((sum.drop i).take z) else homeWrite a.key sum,
      setFlags a.lane f, own a.key] s
  | .store bs => Act.all [Act.when bad (writePoison a), homeWrite a.key bs, Act.when r.parent.isSome (overHome r.cluster a.key bs), own a.key] s
  | .encode page hi v t scale known =>
    let sc := (known.getD (s.byte scale)).toNat
    let (x, f) := encodeElem page v t sc
    let old := (s.byte a.key).toNat
    let b := if page == .mx4 then (if hi then old % 16 + x % 16 * 16 else old / 16 * 16 + x % 16) else x
    Act.all [Act.when bad (writePoison a), homeWrite a.key [BitVec.ofNat 8 b], setFlags a.lane f, own a.key] s
  | .rmw op t x y res =>
    let n := a.size
    if a.lane = outsider ∧ s.dev.retired.contains (a.key / 65536) = true then []
    else if bad then (if res.isSome then consumePoison a readyAt (some r.id) else writePoison a) s
    else
      let old := s.homeNum a.key n
      let (new, f) := rmwNew op t old (x.toNat % 2 ^ (8 * n)) (y.toNat % 2 ^ (8 * n))
      Act.all [
        homeWrite a.key (bytesLE n new), setFlags a.lane f,
        Act.opt res fun x => knowResult a.lane x.1
          ((List.range (n / 4)).map fun i => (x.2 + i, BitVec.ofNat 32 (old / 2 ^ (32 * i)))) 0 none readyAt (some r.id),
        own a.key] s
  | .wback bs =>
    let whole := decide (128 ≤ bs.length)
    Act.all [
      Act.when (bad && !whole) (writePoison a),
      Act.when (bad && whole && !a.bad) (updDev fun d => { d with poison := d.poison.filter (· != lineOf (s.phys a.key)) }),
      Act.when (a.bad && !bad) (updDev fun d => { d with poison := d.poison ++ [lineOf (s.phys a.key)] }),
      Act.each bs fun b => storeBytes (r.line * 128 + b.1) [b.2],
      watchCounters, serveJoins, markClean r.cluster r.line r.id] s
  | .joinInc => if bad then writePoison a s else Act.all [homeWrite a.key (bytesLE 8 ((s.homeNum a.key 8 + 1) % 2 ^ 64)), own a.key] s
  | .joinDec => if bad then writePoison a s else Act.all [homeWrite a.key (bytesLE 8 ((s.homeNum a.key 8 + 2 ^ 64 - 1) % 2 ^ 64)), own a.key] s
  | .snap dst n => storeBytes dst (s.homeBytes a.key n) s

/-- A write to a frame that its device has retired is not performed, and is reported (R251, R362); what an atomic then returns is a free
value. (log 19, DEDUCED) -/
def performRemote (r : Req) (readyAt : Nat) (a : Access) : Act := fun s =>
  if !a.op.reads && a.lane != outsider && Config.frameRetired s.tick (a.key / 65536) then Act.all [
    writeError (s.errOf a.lane 0x03 a.pc.toNat a.va.toNat),
    Act.opt a.op.result fun x => knowResult a.lane x (a.op.zeros.map fun w => (w.1, BitVec.ofNat 32 (Config.pick s.tick (2 ^ 41 + w.1)))) 0 none
      readyAt (some r.id)] s
  else performAccess r readyAt a s

/-- The reply of a request leaves its home agent (R261, R262): a line comes into the L1, an STE's element is stored, a host has what it
read; and the request's queue entry is free. (log 15, DEDUCED) -/
def replyLeaves (id : Nat) : Act := fun s =>
  match s.reqs.find? fun r => r.id == id && r.st == .replying with
  | none => []
  | some r => Act.all [
      updReqs fun rs => rs.filter fun q => q.id != id,
      match r.home with
      | .slice n => Act.when (r.reply && (s.slice n).queue.contains id) (updSlice n fun c => { c with queue := c.queue.filter (· != id) })
      | _ => Act.skip,
      Act.each r.acc fun a => Act.all [
        fillL1 r a,
        match a.op with
        | .ste page v typ l known dead home =>
          let scale := (known.getD (s.byte a.key)).toNat
          if dead then setFlags a.lane (encodeElem page v typ scale).2 else storeElem r a page v typ l scale home
        | .unitRead (.host _) => updDev fun d => { d with hostRead := r.data }
        | _ => Act.skip]] s

/-- Does anything come back from a request once it has been performed: a reply, or a line for the L1? -/
def Req.comesBack (r : Req) : Bool := (match r.home with | .slice _ => true | _ => false) && (r.reply || r.acc.any (·.fill))

/-- A request is performed: its accesses in ascending %slot order (R238, R261). One whose reply has yet to leave a slice keeps its
entry. -/
def performReq (r : Req) : Act := fun s =>
  let readyAt := match r.home with
    | .slice _ => max (s.now + 1) (r.acceptedAt + 64)
    | .remote _ => s.now + 64
    | _ => s.now + 1
  Act.all [
    updReqs fun rs => rs.map fun q => if q.id = r.id then { q with st := .replying } else q,
    match r.home with
    | .slice n => Act.when (!r.reply) (updSlice n fun c => { c with queue := c.queue.filter (· != r.id) })
    | _ => Act.skip,
    Act.when (r.acc.any fun a => !a.op.reads) (dirtyLine r.home r.line),
    Act.each r.acc (match r.home with | .remote _ => performRemote r readyAt | _ => performAccess r readyAt),
    Act.when (!r.comesBack) (replyLeaves r.id)] s

/-! ### A slice (R261 to R267, R271, R272, R425) -/

/-- Is the pseudo-channel of a line under soft repair (R268, R272)? -/
def State.repairing (s : State) (line : Nat) : Bool :=
  let la := s.phys (line * 128) % 2 ^ 44
  let die := la / 0x6000000000
  decide (la < 0x24000000000) && s.dev.repairs.any fun x => x.1 == die && x.2.1 == (la - die * 0x6000000000) / 128 % 384

/-- Must a request wait for the recall of a host's copy (R425)? (log 14, DEDUCED) -/
def State.conflicts (s : State) (r : Req) : Bool := s.dev.hostCopies.contains r.line && r.acc.any fun a =>
  !a.op.reads && match a.op.unit with | some (.host _) => false | _ => true
/-- Miss registers in use (R265, R271). -/
def Slice.used (c : Slice) : Nat := c.miss.length + c.held.length

/-- Miss registers in use, with those that hold write-backs of a quiesced pseudo-channel (R272). -/
def State.registers (s : State) (c : Slice) : Nat := c.used + (c.dram.filter fun d => !d.fill && s.repairing d.line).length

/-- A request of a slice in a new standing. -/
def setReq (id : Nat) (st : ReqSt) : Act := updReqs fun rs => rs.map fun q => if q.id = id then { q with st := st } else q
/-- It no longer waits at the slice. -/
def Slice.unwait (c : Slice) (id : Nat) : Slice := { c with waiting := c.waiting.filter (· != id) }

/-! ### The controllers of DRAM (R268 to R273) -/

/-- The controller of a line: an HBM pseudo-channel, by die, stack and number (R268), or an LPDDR channel (R269); and its slots. -/
def State.controller (s : State) (line : Nat) : Nat × Nat :=
  let la := s.phys (line * 128) % 2 ^ 44
  if la < 0x24000000000 then (la / 0x6000000000 * 384 + la % 0x6000000000 / 128 % 384, 160)
  else if la < 0x60000000000 then (4096 + (la - 0x40000000000) / 128 % 32, 96)
  else (4128 + (la - 0x60000000000) / 128 % 32, 96)

/-- Requests that hold slots of the controller of a line. -/
def State.slotsUsed (s : State) (line : Nat) : Nat := (s.slices.flatMap fun c => c.2.dram.filter fun d =>
  d.slot && (s.controller d.line).1 == (s.controller line).1).length

/-- The requests of slices that could take a slot now: their controller has a free one and no repair holds them (R270, R272). -/
def State.slotless (s : State) : List (Nat × Dram) := s.slices.flatMap fun c => (c.2.dram.filter fun d =>
  !d.slot && !s.repairing d.line && decide (s.slotsUsed d.line < (s.controller d.line).2)).map fun d => (c.1, d)

/-- Free slots of the controllers go to requests that wait at the slices; `n` bounds the work. (log 52, DESIGN CHOICE) -/
def grantSlots : Nat → Act
  | 0 => Act.skip
  | n + 1 => fun s =>
    match s.slotless with
    | [] => []
    | x :: xs =>
      let y := s.choose (2 ^ 40 + n) x (x :: xs)
      Act.seq (updSlice y.1 fun c => { c with dram := c.dram.map fun d => if d = y.2 then { d with slot := true } else d }) (grantSlots n) s

/-- Free slots go to every request that can take one. -/
def serveDram : Act := fun s => grantSlots (s.slices.flatMap fun c => c.2.dram.filter fun d => !d.slot).length s

/-- A slice sends a fill or a write-back of a line to its controller, when a slot is free. -/
def sendDram (n line : Nat) (fill : Bool) : Act := Act.all [
  fun s => updSlice n (fun c => { c with
    dram := c.dram ++ [{ line := line, fill := fill, slot := false }],
    l2hold := if !fill && s.repairing line then c.l2hold + 1 else c.l2hold }) s,
  serveDram]

/-- The line that gives way to a new line in a slice (R264): none while its set has room. (log 52, DESIGN CHOICE) -/
def Slice.victim (c : Slice) (line : Nat) : Option Nat :=
  let ways := 2 ^ (Config.l2Ways % 17)
  let sets := 2 ^ (16 - Config.l2Ways % 17)
  let set := c.lines.filter fun l => Config.l2Set l.1 % sets == Config.l2Set line % sets
  let pick (m : Mark) : Option Nat := (set.find? fun l => l.2 == m).map (·.1)
  if set.length < ways then none else (pick .ef <|> pick .n) <|> pick .el

/-! ### Requests at a slice -/

/-- The line's place and mark after accesses (R263). -/
def Slice.used_ (c : Slice) (line : Nat) (acc : List Access) : Slice := { c with
  lines := match c.lines.get? line with
    | some m => c.lines.del line ++ [(line, acc.foldl (fun m a => (markAfter (some m) a.ch true).getD m) m)]
    | none => c.lines }

/-- Serve a hit: the mark changes by the hint of each access (R263), and the request is performed. (log 15, DEDUCED) -/
def hitReq (n : Nat) (r : Req) : Act := Act.all [
  updSlice n fun c => (c.unwait r.id).used_ r.line r.acc,
  performReq r]

/-- Is a sluice operation that migration held, and that was accepted before a request on its line, still to be performed (R271)? -/
def State.behindSluice (s : State) (r : Req) : Bool :=
  let first (home : Home) (key : Nat) (held : Option (Nat × Nat)) : Bool := home == r.home && lineOf key == r.line &&
    match held with | some (_, o) => decide (o < r.order) | none => false
  (s.slreqs.any fun x => !x.waiting && first x.home x.key x.held) || s.slrels.any fun x => first x.home x.key x.held

/-- What a request that waits at a slice does now, if anything. (log 15, DEDUCED) -/
def State.move (s : State) (n : Nat) (r : Req) : Option Act :=
  let c := s.slice n
  let earlier (sts : List ReqSt) : Bool := s.reqs.any fun q => q.home == r.home && q.line == r.line && decide (q.order < r.order) && sts.contains q.st
  if s.pieceMoves r.line then
    if earlier [.waiting, .snooped] || decide (512 ≤ s.registers c) then none
    else some (Act.all [
      updSlice n fun c => { c.unwait r.id with queue := c.queue.filter (· != r.id), held := c.held ++ [r.id], l2hold := c.l2hold + 1 },
      setReq r.id .held])
  else if earlier [.waiting, .snooped, .held] || s.behindSluice r then none
  else if s.conflicts r then some (Act.all [updSlice n (·.unwait r.id), setReq r.id .snooped])
  else match c.miss.find? fun m => m.line == r.line with
    | some m =>
      if m.reqs.length < 64 then some (Act.all [
        updSlice n fun c => { c.unwait r.id with
          miss := c.miss.map fun x => if x.line = r.line then { x with reqs := x.reqs ++ [r.id] } else x, l2merge := c.l2merge + 1 },
        setReq r.id .attached])
      else none
    | none =>
      if (c.lines.get? r.line).isSome then some (hitReq n r)
      else if s.registers c < 512 then some (Act.all [
        updSlice n fun c => { c.unwait r.id with
          miss := c.miss ++ [{ line := r.line, reqs := [r.id] }], l2miss := c.l2miss + 1,
          l2hold := if s.repairing r.line then c.l2hold + 1 else c.l2hold },
        setReq r.id .attached,
        sendDram n r.line true])
      else none

/-- Let the requests that wait at a slice move, the earliest first; `fuel` bounds the work. -/
def serveSlice (n : Nat) : Nat → Act
  | 0 => Act.skip
  | fuel + 1 => fun s =>
    match (s.slice n).waiting.findSome? fun id => (s.reqs.find? fun r => r.id == id).bind (s.move n) with
    | some a => Act.seq a (serveSlice n fuel) s
    | none => []
/-- Let all of them move. -/
def serveWaiting (n : Nat) : Act := fun s => serveSlice n (s.slice n).waiting.length s

/-- Do two requests of a cluster keep their order on a line they share (R239, R289, R290, R438): both of one lane, both of one command,
or one a write-back? -/
def Req.ordered (q r : Req) : Bool :=
  q.acc.any (·.op.isWback) || r.acc.any (·.op.isWback) || q.acc.any fun a => r.acc.any fun b =>
    if a.op.own && b.op.own then a.lane == b.lane else a.op.unit.isSome && a.op.unit == b.op.unit

/-- Does an access wait for the element of an earlier STE of its lane (R239, R244): does it touch that byte, as its element, its datum or its
scale byte? -/
def Access.afterSte (q : Req) (b : Access) : Bool := b.op.own && q.acc.any fun a => match a.op with
  | .ste _ _ _ _ _ dead _ => !dead && a.lane == b.lane && b.touches.any (meet a.span)
  | _ => false

/-- Are two requests accesses of one agent to the control space, which keep their order (R427)? -/
def State.controlPair (s : State) (q r : Req) : Bool := (s.controlOff (q.line * 128)).isSome && (s.controlOff (r.line * 128)).isSome &&
  q.acc.any fun a => r.acc.any fun b => a.lane == b.lane

/-- Must a request wait for an earlier one to be accepted, or performed, or for a release of a sluice whose bytes it reaches (R239,
R293)? -/
def State.behind (s : State) (r : Req) : Bool :=
  (s.reqs.any fun q =>
    q.before r && !q.done && q.cluster == r.cluster &&
      ((q.ordered r && ((q.line == r.line && (q.st == .flying || (match q.home with | .slice _ => false | _ => true))) ||
          q.also.contains r.line || r.also.contains q.line)) || r.acc.any (Access.afterSte q) || s.controlPair q r)) ||
  s.slrels.any fun x => decide (x.id < r.rank) && r.acc.any fun a => a.op.own && a.lane == x.lane && a.touches.any (meet (x.key, 16))

/-- L2_REQUEST_ACCEPT (R261, R262): a request reaches its home agent. A slice accepts it when an entry is free; a bank, the host
and a remote device that can be reached perform it; one that cannot is held (R432). (log 19, DEDUCED; log 47, DESIGN CHOICE) -/
def stepAccept (id : Nat) : Act := fun s =>
  match s.reqs.find? fun r => r.id == id with
  | none => []
  | some r =>
    let remote := match r.home with | .remote _ => true | _ => false
    if !(r.st == .flying || (r.st == .held && remote)) || !s.allPerformed r.after || s.behind r then []
    else match r.home with
      | .slice n =>
        if (s.controlOff (r.line * 128)).isSome then performReq r s
        else if 32 ≤ (s.slice n).queue.length then []
        else Act.all [
          updSlice n fun c => { c with
            queue := c.queue ++ [id], waiting := c.waiting ++ [id], l2req := c.l2req + 1,
            l2qpeak := max c.l2qpeak (c.queue.length + 1) },
          updReqs fun rs => rs.map fun q =>
            if q.id = id then { q with st := .waiting, order := s.dev.order, acceptedAt := s.now } else q,
          updDev fun d => { d with order := d.order + 1 },
          serveWaiting n] s
      | .remote _ =>
        if s.reach r.home then performReq r s
        else if r.st == .held then []
        else updReqs (fun rs => rs.map fun q => if q.id = id then { q with st := .held, acceptedAt := s.now } else q) s
      | _ => performReq r s

/-- A write-back to DRAM or a fill has been performed: its slot is free. -/
def dropDram (n line : Nat) (fill : Bool) : Act := Act.all [
  updSlice n fun c => { c with dram := c.dram.filter fun d => !(d.line == line && d.fill == fill) },
  serveDram]

/-- The line is written into the slice (R264, R266): the line that gives way, if it differs from DRAM, is written back. -/
def placeLine (n line : Nat) (mark : Mark) : Act := fun s =>
  let c := s.slice n
  let v := c.victim line
  let dirty := match v with | some x => c.dirty.contains x | none => false
  Act.all [
    updSlice n fun c =>
      let gone (x : Nat) : Bool := some x == v
      { c with lines := Map.del (c.lines.filter fun l => !gone l.1) line ++ [(line, mark)], dirty := c.dirty.filter fun x => !gone x },
    Act.opt v fun x => Act.when dirty (sendDram n x false)] s

/-- An attached request is performed when the fill arrives, unless one before it has let a host take a copy that it conflicts with, or
waits for that (R425): then it waits too. -/
def performAttached (n : Nat) (r : Req) : Act := fun s =>
  if s.conflicts r || s.reqs.any (fun q => q.home == r.home && q.line == r.line && decide (q.order < r.order) && q.st == .waiting) then
    Act.all [setReq r.id .waiting, updSlice n fun c => { c with waiting := c.waiting ++ [r.id] }] s
  else performReq r s

/-- L2_FILL_ARRIVAL (R264 to R266, R270): the controller answers for a line whose request has a slot. A write-back that the slice sent
before a fill of the line is performed first. When the fill arrives, the line is written into the slice, in place of the line that
R264 chooses and `victim` names, and the attached requests are performed in acceptance order; those that waited follow. (log 1, DESIGN
CHOICE; log 15, DEDUCED; log 52, DESIGN CHOICE) -/
def stepFill (n line : Nat) (victim : Option Nat) : Act := fun s =>
  let c := s.slice n
  match c.dram.find? fun d => d.line == line with
  | none => []
  | some d =>
    if !d.slot || s.repairing line then []
    else if !d.fill then dropDram n line false s
    else match c.miss.find? fun m => m.line == line with
      | none => dropDram n line true s
      | some m =>
        let rs := m.reqs.filterMap fun id => s.reqs.find? fun r => r.id == id
        let keep := rs.any (·.cache)
        if decide (victim ≠ if keep then c.victim line else none) then [] else
        let mark := (rs.flatMap (·.acc)).foldl (fun m a => markAfter m a.ch true) none
        Act.all [
          updSlice n fun c => { c with miss := c.miss.filter fun x => x.line != line },
          Act.when keep (placeLine n line (mark.getD .n)),
          Act.each rs (performAttached n),
          dropDram n line true,
          serveWaiting n] s

/-- The accesses that a snoop held go on. (log 14, DEDUCED) -/
def releaseSnooped (rs : List Req) : Act := Act.each rs fun r => Act.all [
  setReq r.id .waiting,
  match r.home with
  | .slice n => Act.all [updSlice n fun c => { c with waiting := c.waiting ++ [r.id] }, serveWaiting n]
  | _ => Act.skip]

/-- BACK_INVALIDATION_COMPLETE (R425): the host's copy of a line is gone, and the accesses that the snoop held go on. (log 14, DEDUCED) -/
def stepBackInval (line : Nat) : Act := fun s =>
  if !s.dev.hostCopies.contains line then [] else
  Act.all [
    updDev fun d => { d with hostCopies := d.hostCopies.filter (· != line) },
    releaseSnooped (s.reqs.filter fun r => r.st == .snooped && r.line == line)] s

/-! ### Results (R37) -/

/-- The reply of a request leaves its slice, 64 cycles after acceptance at the earliest, with the first of its results or where it has
none (R261, R262). (log 15, DEDUCED) -/
def dropReply (id : Nat) : Act := fun s =>
  match s.reqs.find? fun r => r.id == id && r.st == .replying with
  | some r =>
    if s.now < r.acceptedAt + 64 || s.lanes.any (fun l => l.2.results.any fun x => x.req == some id) then [] else replyLeaves id s
  | none => []

/-- LONG_LATENCY_RESULT_WRITE (R37, R113, R251): a result whose value is known is written with its flags; an error that came with it
is taken. A register that another write has reached meanwhile ends with either value. (log 5, DESIGN CHOICE) -/
def stepResult (k : LaneId) (res : Nat) : Act := fun s =>
  match (s.lanes.get? k).bind fun l => l.results.find? fun x => x.id == res with
  | none => []
  | some x =>
    match x.vals with
    | none => []
    | some vs =>
      if s.now < x.readyAt then [] else Act.all [
        updLane k fun l => { l with results := l.results.filter fun y => y.id != res }.writes
          (vs.filter fun v => !x.late.contains v.1 || s.choose v.1 true [true, false]),
        setFlags k x.flags,
        Act.opt x.req replyLeaves,
        Act.opt x.err fun e => fun t => takeError k e.source e.code (t.unitPc k e.pc) t] s

end Sys2Proof.Machine
end

