-- ==== Sys2Proof/Machine/Sluice.lean ====
section
/-! DEFINITION. Machine/Sluice.lean: sluice operations at their home agents (R279 to R284, R271, R425, R426), what a migration held and lets go
on (R271), and what ends for want of a route (R432). -/

namespace Sys2Proof.Machine

open Sys2Proof

/-! ### Grants (R281) -/

/-- The cluster of a lane; none for an operation from outside. -/
def State.clOf (s : State) (k : LaneId) : Nat := if k = outsider then nowhere else s.clusterOf k

/-- The grant of a request (R281): the object and the hold list change, the lane goes on, and its later reads of the
sluice's ranges find no stale copy (R282). -/
def grantSluice (r : SlReq) : Act := fun s =>
  Act.all [
    putSluice r.key ((s.sluice r.key).granted r.excl),
    updSlReqs fun rs => rs.filter fun x => x.id != r.id,
    updLane r.lane fun l => { l with holds := l.holds ++ [{ va := r.va, key := r.key, excl := r.excl, home := r.home }],
                                     parks := { l.parks with acq := l.parks.acq.filter fun a => a != .sluice r.id } },
    Act.when (r.lane != outsider) (updCluster (s.clusterOf r.lane) fun c => c.dropClean fun l _ => l.line == lineOf r.key ||
      s.rangeHas (s.ctxOf r.lane) (s.gangOf r.lane) r.va l.line),
    Act.opt r.try_ fun t => updLane r.lane fun l => l.resolve t.1 [(t.2, 1)]] s

/-- Examine one sluice's queue from its head (R281). An exclusive request waits for every earlier one; a shared one for
every earlier exclusive one. -/
def serveQueue : List SlReq → Act
  | [] => Act.skip
  | r :: rest => Act.read fun s =>
    if (s.sluice r.key).grants r.excl then Act.seq (grantSluice r) (serveQueue rest)
    else Act.skip

/-- The WQ bit of a sluice follows the requests that wait (R279). -/
def keepWq (key : Nat) : Act := Act.read fun t =>
  let w := t.slreqs.any fun r => r.waiting && r.key == key
  if (t.sluice key).wq == w then Act.skip else putSluice key { t.sluice key with wq := w }

/-- The sluices whose queues are to be examined: those at which requests wait or waited, but for those whose lines a host may hold or a
migration holds (R271, R425), or whose home cannot be reached. -/
def State.sluiceKeys (s : State) : List Nat := (((s.slreqs.filter fun r => r.waiting).map (·.key)) ++ s.dev.wq).dedup.filter fun k =>
  !s.dev.hostCopies.contains (lineOf k) && !s.pieceMoves (lineOf k) && s.keyReach k

/-- Examine every such sluice, and keep its WQ bit (R279, R281). -/
def serveSluices : Act := fun s =>
  let keys := s.sluiceKeys
  Act.all [
    Act.each keys fun key => Act.all [
      Act.read fun t => serveQueue (t.slreqs.filter fun r => r.waiting && r.key == key),
      keepWq key],
    Act.when (keys.any s.dev.wq.contains) (updDev fun d => { d with wq := d.wq.filter fun k => !keys.contains k })] s

/-! ### Operations that reach their home agents -/

/-- Has a lane an access to a sluice's bytes, or its cluster a write-back of their line, from before a sluice operation (R293)? -/
def State.touching (s : State) (k : LaneId) (id key : Nat) : Bool := s.reqs.any fun q =>
  !q.done && decide (q.rank < id) &&
    ((q.isWback (s.clOf k) && q.line == lineOf key) || q.acc.any fun a => a.lane == k && a.op.own && a.touches.any (meet (key, 16)))

/-- Must a sluice operation wait at its home agent: for the recall of a host's copy of the line (R425), or for requests that the slice has
accepted on it before (R261)? -/
def State.sluiceWaits (s : State) (home : Home) (key : Nat) (held : Option (Nat × Nat)) : Bool :=
  s.dev.hostCopies.contains (lineOf key) || s.reqs.any fun q => q.home == home && q.line == lineOf key &&
    [ReqSt.waiting, .attached, .held, .snooped].contains q.st && (match held with | some (_, o) => decide (q.order < o) | none => true)

/-- A sluice operation is held from now on. -/
def markHeld (id order : Nat) : Act := fun s => Act.all [
  Act.when (s.slreqs.any fun r => r.id == id) (updSlReqs fun rs => rs.map fun r => if r.id = id then { r with held := some (s.now, order) } else r),
  Act.when (s.slrels.any fun r => r.id == id) (updSlRels fun rs => rs.map fun r => if r.id = id then { r with held := some (s.now, order) } else r)] s

/-- A migration holds a sluice operation like any request: it takes a miss register and counts in L2HOLD (R271, R274). (log 53, DEDUCED) -/
def holdSluice (id : Nat) (home : Home) : Act := fun s => match home with
  | .slice n =>
    let c := s.slice n
    if c.held.contains id || decide (512 ≤ s.registers c) then [] else Act.all [
      updSlice n fun c => { c with held := c.held ++ [id], l2hold := c.l2hold + 1 },
      markHeld id s.dev.order,
      updDev fun d => { d with order := d.order + 1 }] s
  | _ => []

/-- Requests at the slice that have waited for a sluice operation go on. -/
def afterSluice (home : Home) (held : Option (Nat × Nat)) : Act := match home, held with
  | .slice n, some _ => serveWaiting n
  | _, _ => Act.skip

/-- A request is examined at its home agent: it joins the sluice's queue, from which `serveSluices` grants at once what the rules allow;
an SLTRY that cannot be granted fails. -/
def examineSluice (r : SlReq) : Act := fun s =>
  let ahead := s.slreqs.any fun x => x.waiting && x.key == r.key
  match r.try_ with
  | none => updSlReqs (fun rs => rs.filter (fun x => x.id != r.id) ++ [{ r with waiting := true }]) s
  | some t =>
    if !ahead && (s.sluice r.key).grants r.excl then grantSluice r s
    else Act.all [
      updSlReqs fun rs => rs.filter fun x => x.id != r.id,
      updLane r.lane fun l => { l with
        parks := { l.parks with acq := l.parks.acq.filter fun a => a != .sluice r.id },
        results := l.results.map fun x => if x.id = t.1 then { x with vals := some [(t.2, 0)] } else x }] s

/-- SLUICE_REQUEST_ARRIVE (R281). Requests of one core's issue arrive in order, after the lane's earlier releases and its earlier
accesses to the object's bytes (R238, R293, R294). (log 41, DEDUCED; log 53, DEDUCED) -/
def stepSluiceArrive (id : Nat) : Act := fun s =>
  match s.slreqs.find? fun r => r.id == id && !r.waiting with
  | none => []
  | some r =>
    if (s.slreqs.any fun x => !x.waiting && decide (x.id < r.id) && x.key == r.key && s.coreOf x.lane == s.coreOf r.lane &&
          (x.lane == outsider) == (r.lane == outsider)) ||
        (s.slrels.any fun x => x.lane == r.lane && decide (x.id < r.id)) || s.touching r.lane r.id r.key then []
    else if s.pieceMoves (lineOf r.key) then holdSluice id r.home s
    else if !s.keyReach r.key then (if r.held.isNone then markHeld id 0 s else [])
    else if s.sluiceWaits r.home r.key r.held then []
    else Act.seq (examineSluice r) (afterSluice r.home r.held) s

/-- Is a release held back by what has to be performed before it (R282, R284, R293, R294): write-backs and accesses of its lane from before
it in the sluice's ranges as they stand now, those to the object's own bytes, and the lane's earlier releases of the sluice, or of one in
its ranges? -/
def State.relWaits (s : State) (r : SlRel) : Bool :=
  let ranged (line : Nat) : Bool := r.publish && s.rangeHas (s.ctxOf r.lane) (s.gangOf r.lane) r.va line
  (s.reqs.any fun q => !q.done && decide (q.rank < r.id) &&
    ((q.isWback (s.clOf r.lane) && ranged q.line) || q.acc.any fun a => a.lane == r.lane && a.op.own && decide (a.op ≠ .prefetch) &&
      a.touches.any fun t => ranged (lineOf t.1))) ||
  s.touching r.lane r.id r.key ||
  s.slrels.any fun x => x.lane == r.lane && decide (x.id < r.id) && (x.key == r.key || ranged (lineOf x.key))

/-- SLUICE_RELEASE_PERFORM (R282, R284, R294): once all that it publishes is performed the object is released. (log 53, DEDUCED) -/
def stepSluiceRelease (id : Nat) : Act := fun s =>
  match s.slrels.find? fun r => r.id == id with
  | none => []
  | some r =>
    if s.relWaits r then []
    else if s.pieceMoves (lineOf r.key) then holdSluice id r.home s
    else if !s.keyReach r.key then (if r.held.isNone then markHeld id 0 s else [])
    else if s.sluiceWaits r.home r.key r.held then []
    else Act.all [
      putSluice r.key ((s.sluice r.key).released r.excl),
      Act.when (r.lane != outsider) (dropCleanLine (s.clusterOf r.lane) (lineOf r.key)),
      updSlRels fun rs => rs.filter fun x => x.id != id,
      afterSluice r.home r.held] s

/-! ### The end of a hold (R271) -/

/-- The requests that the migration of a piece holds, in acceptance order (R271). -/
def State.heldOn (s : State) (piece : Nat) : List Req :=
  (s.reqs.filter fun r => r.st == .held && s.phys (r.line * 128) / 65536 == piece && (match r.home with | .slice _ => true | _ => false)).mergeSort
    fun a b => decide (a.order ≤ b.order)

/-- The sluice operations that it holds: order, number, home. -/
def State.heldSluices (s : State) (piece : Nat) : List (Nat × Nat × Home) :=
  let here (key : Nat) : Bool := s.phys key / 65536 == piece
  (s.slreqs.filterMap fun r => r.held.bind fun h => if here r.key && !r.waiting then some (h.2, r.id, r.home) else none) ++
  s.slrels.filterMap fun r => r.held.bind fun h => if here r.key then some (h.2, r.id, r.home) else none

/-- One that was held goes on: a sluice operation is performed; another request takes its place among those that wait at the slice, so
that it hits, misses or attaches, or waits for a snoop, as any does. -/
def goOn (x : Nat × Nat × Home) : Act := match x.2.2 with
  | .slice n => Act.all [
      updSlice n fun c => { c with held := c.held.filter (· != x.2.1) },
      fun s => if s.reqs.any fun r => r.id == x.2.1 then
          Act.all [setReq x.2.1 .waiting, updSlice n fun c => { c with waiting := c.waiting ++ [x.2.1] }, serveWaiting n] s
        else Act.all [stepSluiceArrive x.2.1, stepSluiceRelease x.2.1] s]
  | _ => Act.skip

/-- What a migration held goes on, in acceptance order (R271). (log 15, DEDUCED; log 53, DEDUCED) -/
def releaseHeld (rs : List Req) (sl : List (Nat × Nat × Home)) : Act :=
  Act.each ((rs.map fun r => (r.order, r.id, r.home)) ++ sl |>.mergeSort fun a b => decide (a.1 ≤ b.1)) goOn

/-! ### The end of an access without a route (R432) -/

/-- Has something been held for 10 ms since a cycle (R432)? -/
def State.tooLong (s : State) (since : Nat) : Bool := decide (since + 12000000 ≤ s.now)

/-- A sluice request ends without an answer: the lane takes a detected error, and what SLTRY writes is false. (log 19, DEDUCED) -/
def loseSluice (r : SlReq) : Act := fun s => Act.all [
  updSlReqs fun rs => rs.filter fun x => x.id != r.id,
  Act.when (r.lane != outsider) (writeError (s.errOf r.lane 0x01 (s.pcOf r.lane - 12).toNat r.va.toNat)),
  Act.opt r.try_ fun t => updLane r.lane fun l => l.resolve t.1 [(t.2, 0)],
  updParks r.lane fun p => { p with acq := p.acq.filter fun a => a != .sluice r.id },
  fun t => takeError r.lane 1 0 (t.pcOf r.lane - 12) t] s

/-- TJWAIT ends without an answer. (log 19, DEDUCED) -/
def loseJoin (k : LaneId) (va : DWord) : Act := fun s => Act.all [
  writeError (s.errOf k 0x01 (s.pcOf k - 12).toNat va.toNat),
  fun t => takeError k 1 0 (t.errPc k) t,
  leaveQueue k] s

/-- The lane of a TJWAIT, by its number, with its counter's address and key and the cycle since which it is held. -/
def State.joinWait (s : State) (id : Nat) : Option (LaneId × DWord × Nat × Nat) := s.lanes.findSome? fun l => match l.2.parks.queue with
  | some (.join va key _ n (some t)) => if n = id then some (l.1, va, key, t) else none
  | _ => none

/-- A sluice operation or a TJWAIT that has been held for 10 ms. (log 19, DEDUCED) -/
def sluiceTimeout (id : Nat) : Act := fun s =>
  match s.slreqs.find? fun r => r.id == id, s.slrels.find? fun r => r.id == id, s.joinWait id with
  | some r, _, _ => match r.held with
    | some (t, _) => if !s.keyReach r.key && s.tooLong t then loseSluice r s else []
    | none => []
  | none, some r, _ => match r.held with
    | some (t, _) => if !s.keyReach r.key && s.tooLong t then Act.all [
        updSlRels fun rs => rs.filter fun x => x.id != id,
        writeError (s.errOf r.lane 0x02 r.pc.toNat r.va.toNat)] s else []
    | none => []
  | none, none, some (k, va, key, t) => if !s.keyReach key && s.tooLong t then loseJoin k va s else []
  | none, none, none => []

/-- REMOTE_ACCESS_TIMEOUT (R432): 10 ms have passed without a route. (log 4, DESIGN CHOICE; log 19, DEDUCED) -/
def stepRemoteTimeout (id : Nat) : Act := fun s =>
  match s.reqs.find? fun r => r.id == id with
  | none => sluiceTimeout id s
  | some r =>
    let remote := match r.home with | .remote _ => true | _ => false
    if !remote || r.st != .held || s.reach r.home || !s.tooLong r.acceptedAt then []
    else Act.all [
      updReqs fun rs => rs.filter fun q => q.id != id,
      Act.each r.acc fun a => if a.op.result.isSome then consumePoison a (s.now + 1) none
        else match a.op with
          | .prefetch => Act.skip
          | .snap dst n => Act.all [writeError (s.errOf a.lane 0x01 a.pc.toNat a.va.toNat), storeBytes dst (List.replicate n 0)]
          | .unitRead u => Act.all [
              writeError (s.errOf a.lane 0x01 a.pc.toNat a.va.toNat),
              let line := (List.replicate 128 (0 : Byte), s.now + 1)
              match u with
              | .matrix core cmd => updCore core fun c => { c with mq := c.mq.map fun m =>
                  if m.id = cmd then { m with got := m.got.set r.line line } else m }
              | .engine cl cmd slot => updCluster cl fun c => { c with cmds := c.cmds.map fun m =>
                  if m.id = cmd then { m with got := m.got.set slot ((m.got.getD slot []).set r.line line) } else m }
              | _ => Act.skip]
          | _ => writePoison a] s

end Sys2Proof.Machine
end

