-- ==== Sys2Proof/Machine/Census.lean ====
section
/-! DEFINITION. Machine/Census.lean: fetch (R28, R48, R167), the census (R168 to R173), control flow (R175 to R181), and the
issue of every major. -/

namespace Sys2Proof.Machine

open Sys2Proof

/-! ### Fetch (R28, R48, R167) -/

/-- Checks 1 to 4 of R48 on a PC: the kind and the cause of the first that fails. (log 10, DEDUCED) -/
def State.pcBad (s : State) (ctx gang : Nat) (pc : DWord) : Option (Nat × Nat) :=
  if pc.toNat % 4 ≠ 0 then some (2, 0x07)
  else if !canonical pc then some (0, 0x02)
  else
    let ls := [0, 4, 8].map fun i => s.locate ctx gang (pc + BitVec.ofNat 64 i)
    if !canonical (pc + 8) || ls.any (·.isNone) then some (0, 0x03)
    else if ls.any fun l => match l with | some x => !x.ex | none => true then some (0, 0x04)
    else none

/-- Parcels of a cache with one more, which takes the place of the oldest when they would be more than `n`. -/
def addParcel (n : Nat) (m : Map Nat Word) (key : Nat) (v : Word) : Map Nat Word :=
  let r := Map.del m key ++ [(key, v)]
  r.drop (r.length - n)

/-- The sources of a parcel: the port's L0, the cluster's instruction cache, memory (R28, R167). A source that has it not gives way to
the next. -/
def State.parcel (s : State) (port key src : Nat) : Word :=
  let l0 := if src = 0 then (s.port port).l0.get? key else none
  let ic := if src ≤ 1 then (s.cluster (port / 16)).icache.get? key else none
  (l0 <|> ic).getD (BitVec.ofNat 32 (s.num key 4))

/-- The cluster's instruction cache, of 256 KiB, holds a parcel (R9). -/
def cacheParcel (cl key : Nat) (v : Word) : Act := updCluster cl fun c => { c with icache := addParcel 65536 c.icache key v }
/-- The port's L0, of 16 KiB, holds a parcel (R9). -/
def l0Parcel (port key : Nat) (v : Word) : Act := updPort port fun q => { q with l0 := addParcel 4096 q.l0 key v }

/-- May a lane's latch be filled: it is empty, the lane belongs to an active peloton, and it neither has exited nor stands
fault-parked? -/
def State.fetches (s : State) (k : LaneId) : Bool :=
  s.laneIs k (fun l => !l.exited && !l.exiting && l.latch.isNone && !l.parks.fault && l.err.isNone) &&
    match s.wgs.get? k.wg with
    | some w => w.active && !w.parking && (match s.gangs.get? w.gang with | some g => g.kill.isNone && !g.ended | none => false)
    | none => false

/-- The port of a lane: 4 · core + port (R120). -/
def State.portOf (s : State) (k : LaneId) : Nat := 4 * s.coreOf k + s.pslot k / 4

/-- The places of the three parcels at a lane's PC and of those that follow. -/
def State.codeAt (s : State) (k : LaneId) (i : Nat) : Option Nat :=
  (s.locate (s.ctxOf k) (s.gangOf k) (s.pcOf k + BitVec.ofNat 64 (4 * i))).map (·.key)

/-- Has the port's L0 the word at a lane's PC? -/
def State.inL0 (s : State) (k : LaneId) : Bool := (List.range 3).all fun i => match s.codeAt k i with
  | some key => ((s.port (s.portOf k)).l0.get? key).isSome
  | none => false

/-- Since which cycle a lane's latch asks for its word. -/
def State.askedAt (s : State) (k : LaneId) : Nat := match (s.lanes.get? k).bind (·.asked) with
  | some x => x.1
  | none => s.now

/-- Does a request of another lane of the port, whose word the L0 has, go before that of a lane (R167)? -/
def State.older (s : State) (j k : LaneId) : Bool := s.fetches j && s.portOf j == s.portOf k && s.inL0 j && (s.pcOf j != s.pcOf k || s.ctxOf j != s.ctxOf k) &&
  (decide (s.askedAt j < s.askedAt k) || (s.askedAt j == s.askedAt k && decide (s.slot j < s.slot k)))

/-- FETCH_LATCH_FILL (R167): the lane and the lanes of its port that wait at the same PC share one fetch; a port fetches at most four
words a cycle, and of those that its L0 has the oldest request's first. `pick` says, parcel by parcel, where its search begins: 0 in the
L0, 1 in the cluster's instruction cache, 2 in memory; `ahead` parcels more are prefetched. A word that fails R48 fault-parks its lanes,
and its step may come before those of older words of the same cycle, so that the cycle's records stand as R390 orders them.
(log 1, DESIGN CHOICE; log 2, DEDUCED; log 10, DEDUCED; log 23, DEDUCED) -/
def stepFetch (k : LaneId) (pick : List Nat) (ahead : Nat) : Act := fun s =>
  let port := s.portOf k
  let front := (s.port port).front
  let hit := s.inL0 k && (List.range 3).all fun i => (pick[i]?).getD 0 == 0
  let used := if front.1 = s.now then front.2 else 0
  let before := (((s.lanes.map (·.1)).filter fun j => s.older j k).map fun j => (s.pcOf j, s.ctxOf j)).eraseDups.length
  let ctx := s.ctxOf k
  let pc := s.pcOf k
  let ks := (s.lanes.map (·.1)).filter fun j => s.fetches j && s.pcOf j == pc && s.ctxOf j == ctx && s.portOf j == port
  let at_ (i : Nat) : Option Nat := s.codeAt k i
  let word (i : Nat) : Word := match at_ i with | some key => s.parcel port key ((pick[i]?).getD 0) | none => 0
  let raw := wordOfParcels (word 0) (word 1) (word 2)
  let bad := s.pcBad ctx (s.gangOf k) pc
  let got (j : LaneId) : Except (Nat × Nat) Op := match bad with
    | some x => .error x
    | none => match decode ((match s.wgs.get? j.wg with | some w => w.desc.regs | none => 0) / 8) raw with
      | .ok op => .ok op
      | .error c => .error (0, c)
  let fails := ks.any fun j => match got j with | .ok _ => false | .error _ => true
  if !s.fetches k || 4 ≤ used || (hit && (if fails then 4 ≤ used + before else 0 < before)) then [] else
  Act.all [
    updPort port fun q => { q with front := (s.now, used + 1) },
    Act.when (bad.isNone && !hit) (Act.all [
      Act.each (List.range 3) fun i => Act.opt (at_ i) fun key => Act.all [cacheParcel (port / 16) key (word i), l0Parcel port key (word i)],
      Act.each ((List.range ahead).map (· + 3)) fun i => Act.opt (at_ i) fun key => cacheParcel (port / 16) key (BitVec.ofNat 32 (s.num key 4))]),
    Act.each ks fun j => match got j with
      | .ok op => updLane j fun l => { l with latch := some { raw := raw, op := op, since := s.now + 1 }, asked := none }
      | .error _ => updLane j fun l => { l with asked := none },
    faultAll (ks.filterMap fun j => match got j with
      | .error x => some (x.1, 0, ⟨j, x.2, pc⟩)
      | .ok _ => none)] s

/-- Latches that have become empty ask for a word from now on (R167). -/
def askWords : Act := fun s => Act.each (s.lanes.filter fun l => s.fetches l.1 && (match l.2.asked with | some x => x.2 != l.2.pc | none => true))
  (fun l => updLane l.1 fun v => { v with asked := some (s.now, v.pc) }) s

/-! ### Transfers (R175, R176) -/

/-- The target of a transfer. -/
def Env.target (e : Env) : DWord :=
  match e.op.maj with
  | .bra | .call => e.l.pc + 12 + e.op.lit.signExtend 64
  | _ => e.src64 .n64 e.op.fy

/-- BRA, BRX, CALL, CALLX, RET. (log 10, DEDUCED) -/
def issueTransfer (es : List Env) : Act :=
  split es (fun e => if e.target.toNat % 4 ≠ 0 then some ⟨2, 0x07, e.target⟩ else none) fun ok =>
    Act.each ok fun e => fun s => updLane e.k (fun l =>
      let l := match e.op.fx with
        | .g _ => { l.writes (dest e.op.fx (words64 (e.l.pc + 12))) with shortUntil := s.now + 4 }
        | _ => l
      l.issued e.target e.op.w) s

/-! ### The end of a lane (R177) -/

/-- An exit takes effect: sluices that the lane holds are released (R280), its regions are popped without restoration, its
outstanding results are discarded, and it leaves its crew's and barriers' counts. (log 11, DEDUCED; log 22, DEDUCED) -/
def exitLane (k : LaneId) : Act := fun s =>
  match s.lanes.get? k with
  | none => []
  | some l =>
    if l.exited then [] else Act.all [
      Act.each l.holds fun h => sendRelease k h true,
      Act.each ((List.range 16).filter fun i => l.regions.any fun r => r.tiles.getLsbD i) (unbindTile (s.coreOf k)),
      withdrawSluices fun r => r.lane == k,
      leaveTrap k,
      updPeloton (s.coreOf k, s.pslot k) fun p => { p with overdue := p.overdue.filter (· != k) },
      updLane k fun l => { l with
        exited := true, exiting := false, latch := none, parks := Parks.none, results := [], holds := [], regions := [], err := none,
        arrived := [], undoUse := 0, heldBy := none,
        arriving := l.arriving.filter fun a => match a with | .barrier _ _ _ => false | .weir .. => true },
      Act.each (l.results.filterMap (·.err)) fun e => takeError k e.source e.code e.pc] s

/-- EXIT: with W the exit takes effect when the wait park ends. (log 22, DEDUCED) -/
def issueExit (es : List Env) : Act := Act.each es fun e =>
  if e.op.w then updLane e.k fun l => { l.issued (l.pc + 12) true with exiting := true } else exitLane e.k

/-! ### Waiting and traps (R178 to R181) -/

/-- YIELD. -/
def issueYield (es : List Env) : Act := Act.all [retire es,
  Act.each es fun e => fun s => updParks e.k (fun p => { p with yield := some s.now }) s]
/-- SLEEP. -/
def issueSleep (es : List Env) : Act := Act.all [retire es,
  Act.each es fun e => fun s => Act.when (e.op.lit != 0) (updParks e.k fun p => { p with sleep := some (s.now + e.op.lit.toNat) }) s]

/-- BPT and TRAP. -/
def issueTrap (es : List Env) (cls : Nat) (after : Bool) : Act := Act.all [
  raiseTraps (es.map fun e =>
    { lane := e.k, cls := cls, info := e.op.l 15 0, cause := 0, resume := if after then e.l.pc + 12 else e.l.pc }),
  parkOnW es]
/-- TFENCE. -/
def issueTfence (es : List Env) : Act := fun s =>
  let trap := es.filter fun e => s.armed e.k != 0
  Act.all [raiseTraps (trap.map (arithRaise s)), parkOnW trap, retire (es.filter fun e => s.armed e.k == 0)] s
/-- TRET. -/
def issueTret (es : List Env) : Act := Act.all [returnFromTrap (es.map (·.k)), parkOnW es]

/-! ### Register majors -/

/-- A short-latency instruction (R168). -/
def issueShort (run : Env → Result2) (es : List Env) : Act := Act.all [writeShort (es.map fun e => (e, run e)), retire es]
/-- A long-latency instruction whose value is formed at issue (R37). -/
def issueLong (run : Env → Result2) (es : List Env) : Act := Act.all [resultNow (es.map fun e => (e, run e)), retire es]

/-- Lanes of an issue by what they name (R116). -/
def byOperand (es : List Env) (key : Env → Nat) (f : Nat → List Env → Act) : Act :=
  Act.each (es.map key).dedup fun n => f n (es.filter fun e => key e == n)
/-- The value that the issuing lane of a list of environments has. -/
def envVal {α : Type} (es : List Env) (d : α) (f : Env → α) (k : LaneId) : α := match es.find? fun e => e.k == k with
  | some e => f e | none => d

/-- MOV: to registers, or to %flags or %farm (R118, R142). -/
def issueMov (es : List Env) : Act :=
  let shared (e : Env) : Bool := match e.op.fx with | .sr _ => true | _ => false
  Act.all [
    writeShort ((es.filter fun e => !shared e).map fun e => (e, runMov e)),
    byOperand (es.filter shared) (fun e => e.op.fx.code) fun _ xs => match xs with
      | x :: _ => match x.op.fx with
        | .sr r => Act.all [
            movShared (xs.map (·.k)) (envVal xs 0 fun e => e.src e.op.fy) r,
            Act.each xs fun e => fun s => updLane e.k (fun l => { l with shortUntil := s.now + 4 }) s]
        | _ => Act.skip
      | [] => Act.skip,
    retire es]

/-- KMOV (R144). -/
def issueKmov (es : List Env) : Act := Act.all [
  byOperand es (fun e => match e.op.fx with | .k n => n.val | _ => 0) fun n xs =>
    kmovCrews (xs.map (·.k)) n (envVal xs [] fun e =>
      if e.op.typ.is64 then words64 (e.src64 e.op.typ e.op.fy) else [e.src e.op.fy]),
  Act.each es fun e => fun s => updLane e.k (fun l => { l with shortUntil := s.now + 4 }) s,
  retire es]

/-- CSRW (R121, R145). -/
def issueCsrw (es : List Env) : Act := Act.all [
  byOperand es (fun e => e.op.l 15 0) fun n xs =>
    csrwShared (xs.map (·.k)) n (envVal xs 0 fun e => if csr64 n then e.src64 .n64 e.op.fy else (e.src e.op.fy).setWidth 64),
  retire es]

/-! ### Every major -/

/-- The issue of a major for the lanes whose guard is true. -/
def issueMaj (m : Maj) (es : List Env) : Act :=
  match m with
  | .iadd => issueShort runIadd es | .isub => issueShort runIsub es | .iadd3 => issueShort runIadd3 es
  | .imul => issueShort runImul es | .imulh => issueShort runImulh es | .imad => issueShort runImad es
  | .idiv => issueLong runIdiv es | .irem => issueLong runIrem es | .imin => issueShort runImin es
  | .imax => issueShort runImax es | .iabs => issueShort runIabs es | .ineg => issueShort runIneg es
  | .iaddmin => issueShort runIaddmin es | .iaddmax => issueShort runIaddmax es | .isad => issueShort runIsad es
  | .lea => issueShort runLea es | .and => issueShort runAnd es | .or => issueShort runOr es
  | .xor => issueShort runXor es | .andn => issueShort runAndn es | .not => issueShort runNot es
  | .shl => issueShort runShl es | .shr => issueShort runShr es | .sar => issueShort runSar es
  | .rol => issueShort runRol es | .fshl => issueShort runFshl es | .bfx => issueShort runBfx es
  | .bfi => issueShort runBfi es | .popc => issueShort runPopc es | .clz => issueShort runClz es
  | .ctz => issueShort runCtz es | .brev => issueShort runBrev es | .prmt => issueShort runPrmt es
  | .icmp => issueShort runIcmp es | .isel => issueShort runIsel es | .mov => issueMov es
  | .iext => issueShort runIext es | .pset => issueShort runPset es | .pmov => issueShort runPmov es
  | .csrr => issueLong runCsrr es | .csrw => issueCsrw es | .kmov => issueKmov es
  | .fadd => issueShort runFadd es | .fsub => issueShort runFsub es | .fmul => issueShort runFmul es
  | .ffma => issueShort runFfma es | .fmin => issueShort runFmin es | .fmax => issueShort runFmax es
  | .fabs => issueShort runFabs es | .fneg => issueShort runFneg es | .faddmin => issueShort runFaddmin es
  | .fcmp => issueShort runFcmp es | .fsel => issueShort runFsel es | .frnd => issueShort runFrnd es
  | .frcp => issueLong runFrcp es | .frsq => issueLong runFrsq es | .fsqrt => issueLong runFsqrt es
  | .fex2 => issueLong runFex2 es | .flg2 => issueLong runFlg2 es | .fsin => issueLong runFsin es
  | .fcos => issueLong runFcos es | .ftanh => issueLong runFtanh es | .fsigm => issueLong runFsigm es
  | .fclass => issueShort runFclass es | .fscale => issueShort runFscale es | .hadd2 => issueShort runHadd2 es
  | .hmul2 => issueShort runHmul2 es | .hfma2 => issueShort runHfma2 es | .hmin2 => issueShort runHmin2 es
  | .hmax2 => issueShort runHmax2 es | .fdot4 => issueShort runFdot4 es | .cvt => issueShort runCvt es
  | .cvtp => issueShort runCvtp es | .cvt8 => issueShort runCvt8 es | .unpk => issueShort runUnpk es
  | .mxq => issueLong runMxq es | .mxdq => issueShort runMxdq es | .dsq => issueLong runDsq es
  | .dsdq => issueShort runDsdq es
  | .lshf | .lxch | .lbcst | .lvote | .lball | .lscan | .lred | .lmatch | .lrdv | .lcnt => issueColl es
  | .bra | .brx | .call | .callx | .ret => issueTransfer es
  | .exit => issueExit es | .nop => retire es | .yield => issueYield es | .sleep => issueSleep es
  | .bpt => issueTrap es 1 false | .trap => issueTrap es 2 true | .tfence => issueTfence es | .tret => issueTret es
  | .ld => issueLd es | .st => issueSt es | .lde => issueLde es | .ste => issueSte es | .pref => issuePref es
  | .cctl => issueCctl es | .atom => issueAtom es | .acas => issueAcas es | .afadd => issueAfadd es
  | .slacq => issueSlacq es | .sltry => issueSltry es | .slrel => issueSlrel es | .slbind => issueSlbind es
  | .slunb => issueSlunb es | .fence => issueFence es | .bar => issueBar es | .bara => issueBara es | .gbar => issueGbar es
  | .winit => issueWinit es | .wexp => issueWexp es | .warr => issueWarr es | .wwait => issueWwait es
  | .wtest => issueWtest es | .wret => issueWret es | .carve => issueCarve es
  | .malloc => issueMalloc es | .mfree => issueMfree es | .mzero => issueMzero es | .mloop => issueMloop es
  | .mloops => issueMloops es | .mwait => issueMwait es | .mout => issueMout es | .mren => issueMren es
  | .mstat => issueMstat es | .msadl => issueMsadl es | .mpass => issueMpass es | .mbind => issueMbind es
  | .mflag => issueMflag es
  | .sdef => issueSdef es | .sgath => issueSgath es | .sscat => issueSscat es | .sscadd => issueSscadd es
  | .smerge => issueSmerge es | .snz => issueSnz es | .sstat => issueSstat es | .dpush => issueDpush es
  | .dpop => issueDpop es | .dpeek => issueDpeek es | .dcfg => issueDcfg es | .drst => issueDrst es
  | .cpyw => issueCpyw es | .cpyl => issueCpyl es
  | .rbegin => issueRbegin es | .rpres => issueRpres es | .rpresm => issueRpresm es | .rend => issueRend es
  | .rfail => issueRfail es | .rstat => issueRstat es
  | .tspawn => issueTspawn es | .ttake => issueTtake es | .tjoin => issueTjoin es | .tjwait => issueTjwait es
  | .qpush => issueQpush es | .qpop => issueQpop es | .launch => issueLaunch es
  | .bndset => issueBndset es | .bndget => issueBndget es | .perfr => issuePerfr es | .perfc => issuePerfc es
  | .errinj => issueErrinj es

/-! ### Readiness (R168) -/

/-- Is a lane in no park, as a census at `now` finds it? -/
def Parks.open_ (p : Parks) (now : Nat) : Bool :=
  p.wait.isEmpty && p.coll.isNone && p.yield.isNone && (match p.sleep with | some t => decide (t ≤ now) | Option.none => true) && !p.trap &&
    p.bar.isNone && p.weir.isNone && p.acq.isEmpty && p.queue.isNone && !p.fault

/-- Would a lane present a class, the half-rate rule aside? -/
def Lane.wants (l : Lane) (now : Nat) : Bool :=
  !l.exited && !l.exiting && l.err.isNone && l.parks.open_ now && decide (l.shortUntil ≤ now) &&
    match l.latch with | some x => decide (x.since ≤ now) | none => false

/-- The lanes of a peloton slot whose workgroup is active and does not leave. -/
def State.pelotonLanes (s : State) (core slot : Nat) : List LaneId := s.wgs.flatMap fun w =>
  let killed := match s.gangs.get? w.2.gang with | some g => g.kill.isSome || g.ended | none => true
  if w.2.core = core ∧ w.2.active ∧ !w.2.parking ∧ !killed then
    (List.range w.2.desc.lanes).filterMap fun i => if ((w.2.place[i / 16]?).map (·.1)) = some slot then some ⟨w.1, i⟩ else none
  else []

/-- Is a lane withheld in a census of its peloton (R168, R346)? (log 21, DEDUCED) -/
def State.withheld (s : State) (k : LaneId) (l : Lane) : Bool :=
  let c := s.cluster (s.clusterOf k)
  match l.spawned with
  | some n => decide (c.cisthw.toNat < c.cistern.length) && decide (n % 2 = 0) && decide (n < 64)
  | none => false

/-- The lanes that are ready in a state (R168). -/
def State.readyNow (s : State) : List LaneId := (s.lanes.filter fun x =>
  x.2.wants s.now && !s.withheld x.1 x.2 && (s.pelotonLanes (s.coreOf x.1) (s.pslot x.1)).contains x.1).map (·.1)

/-- The lanes of a peloton that present a class in a census of the present cycle: they were ready as the cycle began (R169), and nothing
since has stopped them. -/
def State.wanting (s : State) (core slot : Nat) : List (LaneId × Lane) :=
  (s.pelotonLanes core slot).filterMap fun k => match s.lanes.get? k with
    | some l => if s.ready.contains k && l.wants s.now then some (k, l) else none
    | none => none

/-- Cycles, from a number on, that the arbiter removes of a cluster (R435). -/
def removed (cut cl t n : Nat) : Nat := ((List.range n).filter fun i => cycleCut cut cl (t + i)).length

/-- Cycles pass: THROT counts those that the arbiter has removed (R22, R373), and the lanes that are ready as the new cycle begins are
noted (R169). (log 24, DEDUCED) -/
def State.elapse (s : State) (n : Nat) : State :=
  if n = 0 then s else
  let t := { s with
    now := s.now + n,
    clusters := s.clusters.map fun (c : Nat × Cluster) =>
      if c.2.cut = 0 then c else (c.1, { c.2 with throt := c.2.throt + BitVec.ofNat 32 (removed c.2.cut c.1 s.now n) }) }
  { t with ready := t.readyNow }

/-! ### The vote (R170) -/

/-- The overdue order at the start of a census: lanes that join it stand behind those in it. -/
def State.overdueNow (s : State) (p : Peloton) (rs : List (LaneId × Lane)) : List LaneId :=
  let late := (rs.filter fun r => decide (p.agelim.toNat ≤ r.2.wait.toNat) && !p.overdue.contains r.1).mergeSort fun a b =>
    decide (b.2.wait.toNat < a.2.wait.toNat) || (a.2.wait == b.2.wait && decide (s.slot a.1 ≤ s.slot b.1))
  p.overdue ++ late.map (·.1)

/-- The class key and the BP that a lane presents. -/
def Lane.keyOf (l : Lane) : Nat := match l.latch with | some x => x.op.key | none => 0
/-- BP. -/
def Lane.bpOf (l : Lane) : Nat := match l.latch with | some x => x.op.bp | none => 0

/-- Does class `a` win against class `b` among the ready lanes? -/
def beats (rs : List (LaneId × Lane)) (a b : Nat) : Bool :=
  let of (k : Nat) : List (LaneId × Lane) := rs.filter fun r => r.2.keyOf == k
  let low (k : Nat) : Nat := ((of k).map fun r => r.2.bpOf).foldl Nat.min 64
  decide ((of b).length < (of a).length) || ((of a).length == (of b).length &&
    (decide (low a < low b) || (low a == low b && decide (a ≤ b))))

/-- The winning class. -/
def winner (rs : List (LaneId × Lane)) (overdue : List LaneId) : Option Nat :=
  match overdue.findSome? fun k => rs.find? fun r => r.1 == k with
  | some r => some r.2.keyOf
  | none => (rs.map fun r => r.2.keyOf).foldl (fun best k => match best with
      | some b => some (if beats rs b k then b else k)
      | none => some k) none

/-- Issue the winning class for the lanes that present it, by their guards (R34). -/
def issueClass (xs : List Env) : Act :=
  let yes := xs.filter fun e => guardOf e.l e.op
  let bad := yes.filterMap fun e => (parityHit e.l e.op).map fun n => (e, n)
  let go := yes.filter fun e => (parityHit e.l e.op).isNone
  Act.all [
    match xs with
    | x :: _ => Act.when (!go.isEmpty) (issueMaj x.op.maj go)
    | [] => Act.skip,
    retire (xs.filter fun e => !guardOf e.l e.op),
    Act.each bad fun b => takeError b.1.k 2 b.2 b.1.l.pc]

/-- Has a lane that presented the winning class issued it (R180, R236, R402)? (log 21, DEDUCED) -/
def State.didIssue (s : State) (e : Env) : Bool :=
  (!guardOf e.l e.op || (parityHit e.l e.op).isNone) && s.laneIs e.k fun l => !l.parks.fault && !l.parks.trap

/-- The lanes that present a class, as they issue. -/
def State.presenting (s : State) (rs : List (LaneId × Lane)) (key : Option Nat) : List Env := rs.filterMap fun r => match r.2.latch with
  | some x => if some x.op.key = key then some { s := s, k := r.1, l := r.2, op := x.op } else none
  | none => none

/-- A census begins: the yields that it spends, the censuses since a TSPAWN (R346), the gangs whose first instruction issues (R342),
and the sleeps that are over. (log 21, DEDUCED) -/
def censusOpen (core slot : Nat) (xs : List Env) : Act := fun s => Act.all [
  Act.each (s.pelotonLanes core slot) fun k => updLane k fun l => { l with
    spawned := match l.spawned with | some n => if n < 64 then some (n + 1) else none | none => none,
    parks := { l.parks with yield := match l.parks.yield with | some t => if t < s.now then none else some t | none => none } },
  Act.each (xs.map fun e => s.gangOf e.k).dedup fun g => updGang g fun v =>
    if v.started then v else { v with started := true, startedAt := s.now },
  Act.each xs fun e => updParks e.k fun q => { q with sleep := none }] s

/-- Has an issue a place in the order of the ports' issues in a cycle (R205, R207, R302)? Writes and reads of bound registers take effect in
any order (R116). (log 5, DESIGN CHOICE) -/
def Env.inOrder (e : Env) : Bool := match e.op.maj with
  | .bndset | .bndget | .ste => false
  | _ => true

/-- A census ends: the wait counters (R171), the overdue order, how long the peloton's datapath is taken (R12), and the port's counters
(R373). (log 21, DEDUCED) -/
def censusClose (port slot : Nat) (rs : List (LaneId × Lane)) (od : List LaneId) (xs : List Env) : Act := fun s =>
  let done := xs.filter s.didIssue
  let isDone (k : LaneId) : Bool := done.any fun e => e.k == k
  let low := xs.all fun e => decide (e.s.slot e.k < 32)
  let high := xs.all fun e => decide (32 ≤ e.s.slot e.k)
  Act.all [
    Act.each rs fun r => updLane r.1 fun l => { l with wait := if isDone r.1 then 0 else if l.wait = 15 then 15 else l.wait + 1 },
    updPeloton (port / 4, slot) fun q => { q with
      overdue := od.filter fun k => !isDone k && !s.gone k,
      busyUntil := if xs.isEmpty then q.busyUntil else s.now + (if low || high then 1 else 2) },
    updPort port fun q => { q with
      busyUntil := if xs.isEmpty then q.busyUntil else s.now + (if low || high then 1 else 2),
      sentAt := if xs.any Env.inOrder then some s.now else q.sentAt,
      last := slot % 4, lastAt := some s.now, pcens := q.pcens + 1, pissue := q.pissue + BitVec.ofNat 32 done.length }] s

/-- A census of a peloton slot of a core, among its ready lanes (R169 to R171). (log 21, DEDUCED) -/
def censusOf (port slot : Nat) (rs : List (LaneId × Lane)) : Act := fun s =>
  let core := port / 4
  let od := s.overdueNow (s.peloton core slot) rs
  let xs := s.presenting rs (winner rs od)
  Act.all [censusOpen core slot xs, issueClass xs, censusClose port slot rs od xs] s

/-- Spend the yields of a peloton that has no other lane ready, in a cycle in which its datapath is free (R178). (log 21, DEDUCED) -/
def spendYields (core slot : Nat) : Act := fun s =>
  if s.now < (s.peloton core slot).busyUntil then [] else
  Act.each (s.pelotonLanes core slot) (fun k =>
    let others := (s.wanting core slot).any fun w => w.1 != k
    Act.when (!others) (updParks k fun p => { p with yield := match p.yield with | some t => if t < s.now then none else some t | none => none })) s

/-- Has a later port of the cluster issued in the present cycle already what has a place in the order of the ports (R205, R207, R302)? -/
def State.portPassed (s : State) (port : Nat) : Bool :=
  (List.range 16).any fun i => decide (port < port / 16 * 16 + i) && (s.port (port / 16 * 16 + i)).sentAt == some s.now

/-- The slot that a port picks: in cyclic order after the one picked last, one whose previous issue has left the datapath and that has a
ready lane (R169). None in a cycle that the arbiter removes (R22), or in which an issue still holds the port's datapath (R12). -/
def State.pickSlot (s : State) (port : Nat) : Option Nat :=
  if s.cutNow (port / 16) || decide (s.now < (s.port port).busyUntil) then none
  else ((List.range 4).map fun i => 4 * (port % 4) + ((s.port port).last + 1 + i) % 4).find? fun sl =>
    decide ((s.peloton (port / 4) sl).busyUntil ≤ s.now) && !(s.wanting (port / 4) sl).isEmpty

/-- What a port's census issues in a state. -/
def State.chosen (s : State) (port : Nat) : List Env := match s.pickSlot port with
  | some sl =>
    let rs := s.wanting (port / 4) sl
    s.presenting rs (winner rs (s.overdueNow (s.peloton (port / 4) sl) rs))
  | none => []

/-- CENSUS (R169, R170): one cycle of an issue port. (log 2, DEDUCED; log 21, DEDUCED) -/
def stepCensus (port : Nat) : Act := fun s =>
  if 2304 ≤ port ∨ (s.port port).lastAt = some s.now ∨ (s.portPassed port && (s.chosen port).any Env.inOrder) = true then [] else
  let picked := s.pickSlot port
  Act.all [
    Act.each (((List.range 4).map fun i => 4 * (port % 4) + i).filter fun sl => some sl ≠ picked) (spendYields (port / 4)),
    Act.opt picked fun sl => fun t => censusOf port sl (s.wanting (port / 4) sl) t] s

/-- SLEEP_EXPIRY (R178): a lane's sleep has run out, or its yield is spent in a free cycle. -/
def stepSleepExpiry (k : LaneId) : Act := fun s =>
  match s.lanes.get? k with
  | none => []
  | some l => Act.all [
      match l.parks.sleep with
      | some t => Act.when (decide (t ≤ s.now)) (updParks k fun p => { p with sleep := none })
      | none => Act.skip,
      match l.parks.yield with
      | some t =>
        let core := s.coreOf k
        let slot := s.pslot k
        let others := (s.wanting core slot).any fun w => w.1 != k
        Act.when (decide (t < s.now) && decide ((s.peloton core slot).busyUntil ≤ s.now) && !others) (updParks k fun p => { p with yield := none })
      | none => Act.skip] s

end Sys2Proof.Machine
end

