-- ==== Sys2Proof/Machine/Settle.lean ====
section
/-! DEFINITION. Machine/Settle.lean: what follows from a step at once, in the same cycle: waits that have ended, barriers that are
complete, queues that can be served, parking and exits that can go on. Every step ends with it. -/

namespace Sys2Proof.Machine

open Sys2Proof

/-! ### The wait park (R168) -/

/-- Has a wait of a lane ended (R37, R225, R417, R418)? A FENCE ends by FENCE_COMPLETE alone. -/
def State.waitOver (s : State) (k : LaneId) (l : Lane) (w : WaitFor) : Bool :=
  l.err.isNone && match w with
  | .results => l.results.all (·.silent)
  | .fence _ _ _ => false
  | .tile _ cmds => !(s.core (s.coreOf k)).mq.any fun m => cmds.contains m.id
  | .rend mark => l.results.all (·.silent) && (s.setD k mark).cmds.isEmpty && (s.setD k mark).tiles.isEmpty
  | .snap _ _ reqs => !s.reqs.any fun r => reqs.contains r.id

/-- What the end of a wait does. -/
def endWait (k : LaneId) (w : WaitFor) : Act := fun s =>
  match s.lanes.get? k with
  | none => []
  | some l => match w with
    | .rend _ => popRegion k s
    | .snap addr len _ => endSnap k l addr len s
    | _ => []

/-- End the waits of a lane that are over, in order. -/
def serveWaits (k : LaneId) : Act := fun s =>
  match s.lanes.get? k with
  | none => []
  | some l =>
    let over_ := l.parks.wait.filter (s.waitOver k l)
    if over_.isEmpty then [] else Act.all [
      updParks k fun p => { p with wait := p.wait.filter fun w => !over_.contains w },
      Act.each over_ (endWait k)] s

/-- The lanes in the wait park. -/
def State.waiters (s : State) : List LaneId := (s.lanes.filter fun l => !l.2.parks.wait.isEmpty).map (·.1)
/-- The lanes whose EXIT with W takes effect (R177); a lane of a gang whose kill is decided ends without (R410). -/
def State.leavers (s : State) : List LaneId := (s.lanes.filter fun l => l.2.exiting && l.2.parks.wait.isEmpty && l.2.err.isNone &&
  !(s.wgs.get? l.1.wg).any s.killed).map (·.1)

/-! ### Everything -/

/-- Units of cores. -/
def serveCore (core : Nat) : Act := Act.all [
  serveSaddle core,
  fun s => serveStats core (s.core core).mq.length s,
  serveSwap core]

/-- Units of clusters. -/
def serveCluster (cl : Nat) : Act := Act.all [
  serveSlices cl, checkSlices cl,
  fun s => admitCmds cl (s.cluster cl).cmds.length s,
  fun s => serveSpills cl (s.spillers cl).length s,
  fun s => serveCistern cl (((s.cluster cl).parts.map fun p => p.2.2.length).foldl (· + ·) (s.takers cl).length) s]

/-- What follows from a step at once. (log 3, DESIGN CHOICE) -/
def settle : Act := Act.all [
  fun s => Act.each s.waiters serveWaits s,
  fun s => Act.each s.leavers exitLane s,
  serveBarriers,
  serveWeirs,
  serveSluices,
  fun s => Act.each (s.cores.map (·.1)) serveCore s,
  fun s => Act.each (s.clusters.map (·.1)) serveCluster s,
  fun s => Act.each (s.queues.map (·.1)) (fun q => fun t => serveItems q ((t.poppers q).length + (t.pushers q).length) t) s,
  serveJoins,
  holdJoins,
  fun s => Act.each ((s.wgs.filter fun w => w.2.parking).map (·.1)) servePark s,
  fun s => Act.each (s.ctxs.map (·.1)) servePreempt s,
  serveExits,
  watchCounters,
  askWords,
  fun s => Act.each ((s.reqs.filter fun r => r.st == .replying).map (·.id)) dropReply s]

/-- The state once what follows at once has happened. (log 3, DESIGN CHOICE) -/
def State.settled (s : State) : State := s.after settle

end Sys2Proof.Machine
end

