-- ==== Sys2Proof/Machine/Outside.lean ====
section
/-! DEFINITION. Machine/Outside.lean: what the outside world and the device's own management do: host accesses (R290, R425), accesses of other devices (R289), migration
(R271, R362), repair (R272, R434), scrubbing and errors (R402, R433), headgates (R334), record rings (R297, R298), links (R431), power
(R435), reset (R436) and attestation (R437). -/

namespace Sys2Proof.Machine

open Sys2Proof

/-- An action of the running device: nothing answers while boot has failed (R436). -/
def ifUp (a : Act) : Act := fun s => if s.dev.up then a s else []

/-! ### Host accesses (R290, R425) -/

/-- The memory key of a local address of this device, for `n` bytes of one backed line. -/
def State.own (s : State) (la n : Nat) : Option Nat :=
  if backed la && decide (la < 2 ^ 44) && decide (la % 128 + n ≤ 128) && decide (0 < n) then some (s.dev.devno.toNat * 2 ^ 44 + la) else none
/-- The same of the host's two ranges of device memory (R424). -/
def State.hdm (s : State) (la n : Nat) : Option Nat := if la < controlBase then s.own la n else none

/-- Does a leaf entry map a physical address, other than of host memory (R358)? -/
def leafHas (e pa : Nat) : Bool :=
  let n := 2 ^ pageBits (bits e 3 2)
  bits e 8 8 == 0 && bits e 87 52 * 2 ^ 16 / n == pa / n

/-- The home die of a line as far as the cached leaf entries of contexts name one, or any die (R19, R259). -/
def State.dieOf (s : State) (line : Nat) : Nat :=
  let named := s.ctxs.flatMap fun c => c.2.tlb.filterMap fun t =>
    let e := t.2.toNat
    if leafHas e (line * 128) then some (bits e 99 97) else none
  match named with
  | d :: _ => d
  | [] => s.choose line 0 (List.range 6)

/-- The home slice of a line for an access from outside (R259, R260): the slice that holds it, that has a register or requests for it,
else that of its home die. (log 47, DESIGN CHOICE) -/
def State.sliceFor (s : State) (line : Nat) : Nat :=
  match s.slices.find? fun c => (c.2.lines.get? line).isSome || c.2.miss.any fun m => m.line == line with
  | some c => c.1
  | none => match s.reqs.findSome? fun r => if r.line = line then (match r.home with | .slice n => some n | _ => none) else none with
    | some n => n
    | none => s.dieOf line * 16 + sliceFold (line * 128)

/-- An access from outside reaches the home slice of its line, which accepts it as any other (R261). -/
def outsideAccess (key n : Nat) (op : AccOp) : Act := fun s =>
  Act.seq (sendReq 4096 nowhere (lineOf key) (.slice (s.sliceFor (lineOf key))) true []
      [{ lane := outsider, slot := 0, pc := 0, seq := 0, va := 0, key := key, size := n, ch := 0, op := op }])
    (stepAccept s.fresh) s

/-- The bytes of an access from outside. -/
def deviceSize : DeviceAccess → Nat
  | .load n => n
  | .store bs => bs.length
  | .atom _ t _ _ _ => if t.is64 then 8 else 4
  | .acquire _ _ | .release _ | .withdraw _ => 16

/-- Has an access of another device to be aligned to its size (R247, R279)? -/
def deviceAligned : DeviceAccess → Bool
  | .load _ | .store _ => false
  | _ => true

/-- What another device's access does at the home slice: a sluice operation is examined there as a lane's is (R279, R281), unless its frame is retired (R362). -/
def deviceAct (dev key : Nat) (x : DeviceAccess) : Act := fun s =>
  let home : Home := .slice (s.sliceFor (lineOf key))
  let alive := !s.dev.retired.contains (key / 65536)
  match x with
  | .load n => outsideAccess key n (.unitRead (.device dev)) s
  | .store bs => outsideAccess key bs.length (.unitWrite (.device dev) bs) s
  | .atom mn t a b ret => outsideAccess key (deviceSize x)
      (.rmw (match mn with | 9 => .cas | 10 => .fadd | n => atomOp n) t a b (if ret then some (0, 0) else none)) s
  | .acquire excl try_ => Act.when alive (Act.fresh fun n => Act.all [
      updSlReqs fun rs => rs ++ [{ id := n, lane := outsider, va := 0, key := key, excl := excl,
                                   try_ := if try_ then some (0, 0) else none, waiting := false, slot := 0, home := home }],
      stepSluiceArrive n]) s
  | .release excl => Act.when alive (Act.fresh fun n => Act.all [
      updSlRels fun rs => rs ++ [{ id := n, lane := outsider, key := key, va := 0, excl := excl, publish := false, home := home }],
      stepSluiceRelease n]) s
  | .withdraw id => withdrawSluices (fun r => decide (r.lane = outsider) && r.key == key && r.id == id) s

/-- HOST_MEM_ACCESS: an access over CXL.mem, or of another device, goes to the home slice; the host's own memory, the headgate windows
and the control space answer at once. (log 14, DEDUCED; log 17, DEDUCED; log 47, DESIGN CHOICE) -/
def stepHost (a : HostAccess) : Act :=
  let answer (n v : Nat) : Act := updDev fun d => { d with hostRead := bytesLE n v }
  match a with
  | .read la n keep => ifUp fun s => match s.hdm la n with
    | some key => outsideAccess key n (.unitRead (.host keep)) s
    | none => []
  | .write la bs => ifUp fun s => match s.hdm la bs.length with
    | some key => outsideAccess key bs.length (.unitWrite (.host false) bs) s
    | none => []
  | .own addr bs => Act.when (decide (addr + bs.length ≤ 2 ^ 52)) (homeWrite (hostBase + addr) bs)
  | .window q off n => ifUp (Act.when (decide (q < 2048) && decide (off + n ≤ 4096)) fun s =>
      answer n (if n ≠ 4 then 0 else if off = 0 then (s.wq q).recs.length else if off = 4 then (s.wq q).drops.toNat else 0) s)
  | .io off n => fun s => answer n (s.controlRead off n) s
  | .device dev la x => ifUp fun s =>
      let apart := deviceAligned x && la % deviceSize x != 0
      if dev = s.dev.devno.toNat ∨ 256 ≤ dev ∨ apart = true ∨ ((List.range 18).any fun i => (s.link i).up) = false then [] else
      match s.own la (deviceSize x) with
      | some key => deviceAct dev key x s
      | none => []

/-! ### Migration (R271, R362) -/

/-- MIGRATION_PIECE_START: requests for the lines of a 64 KiB piece are held from now on. Pieces are numbered by memory key. -/
def stepMigrateStart (old new : Nat) : Act := fun s =>
  let own (p : Nat) : Bool := decide (p * 65536 / 2 ^ 44 = s.dev.devno.toNat) && backed (p * 65536 % 2 ^ 44) && decide (p * 65536 % 2 ^ 44 < controlBase)
  let used (p : Nat) : Bool := s.dev.migrating.any (fun m => m.1 == p || m.2 == p) || s.dev.moved.any fun m => m.1 == p
  if own old && own new && decide (old ≠ new) && !used old && !used new then
    updDev (fun d => { d with migrating := d.migrating ++ [(old, new)] }) s
  else []

/-- The contents of a piece, with its poisoned lines, stand on another. -/
def copyPiece (old new : Nat) : Act := fun s =>
  let at_ (p : Nat) : List Host.Cell := s.mem.filter fun c => c.1 / 65536 == p
  Act.all [
    fun _ => (at_ new).map fun c => .byte c.1 0,
    fun _ => (at_ old).map fun c => .byte (new * 65536 + c.1 % 65536) c.2,
    updDev fun d => { d with poison := (d.poison.filter fun l => l / 512 ≠ new) ++
      (d.poison.filter fun l => l / 512 = old).map fun l => new * 512 + l % 512 }] s

/-- MIGRATION_PIECE_END: when the piece has been copied, accesses to the old frame are redirected to the new one; when the migration
aborts, the old one stands. Held requests are performed on the frame that stands. (log 20, DEDUCED) -/
def stepMigrateEnd (old : Nat) (done : Bool) : Act := fun s =>
  match s.dev.migrating.find? fun m => m.1 == old with
  | none => []
  | some m =>
    let rs := s.heldOn old
    let sl := s.heldSluices old
    Act.all [
      Act.when done (copyPiece old m.2),
      updDev fun d => { d with
        migrating := d.migrating.filter fun x => x.1 != old,
        moved := if done then (d.moved.map fun x => if x.2 = old then (x.1, m.2) else x) ++ [(old, m.2)] else d.moved },
      releaseHeld rs sl] s

/-- Does a leaf entry that a walk from a table finds name a piece of a frame? The shifts of the levels are listed (R356). -/
def namesPiece (s : State) (piece : Nat) : List Nat → Nat → Bool
  | [], _ => false
  | sh :: rest, table => (List.range 1024).any fun i =>
    let e := s.num (table + 16 * i) 16
    if e % 2 = 0 then false
    else if bits e 1 1 = 1 then
      leafOk sh e 0 && leafHas e (piece * 65536)
    else namesPiece s piece rest (bits e 87 50 * 2 ^ 14)

/-- Does a context name a piece, in its page tables or in a copy of a leaf entry that a probe may still use? -/
def State.pieceNamed (s : State) (piece : Nat) : Bool := s.ctxs.any fun c => c.2.state != 0 &&
  (namesPiece s piece [46, 36, 26, 16] c.2.ptroot.toNat || c.2.tlb.any fun t => leafHas t.2.toNat (piece * 65536))

/-- The pieces whose contents have moved are retired once the leaf entries that named them have been rewritten and invalidated (R362). (log 20, DEDUCED) -/
def retireMoved : Act := fun s =>
  let ps := (s.dev.moved.map (·.1)).filter fun p => !s.dev.retired.contains p && !s.pieceNamed p
  Act.all [
    updDev fun d => { d with retired := d.retired ++ ps },
    Act.each ps fun p => writeLog 0x05 (p * 65536)] s

/-- INVALIDATION_COMPLETE (R361, R362, R430). (log 20, DEDUCED) -/
def stepInvalEnd (ctx : Nat) : Act := fun s =>
  match (s.ctxs.get? ctx).bind fun c => c.invals.head? with
  | none => []
  | some _ => Act.all [stepInvalDone ctx, retireMoved] s

/-! ### Repair, scrubbing and errors (R272, R402, R433, R434) -/

/-- A row's number in the log. (log 27, DEDUCED) -/
def rowUnit (r : Nat × Nat × Nat) : Nat := r.1 * 2 ^ 48 + r.2.1 * 2 ^ 32 + r.2.2 % 2 ^ 32

/-- SOFT_REPAIR_START: a row whose errors have been logged is repaired, one pseudo-channel of a stack at a time; a row that has been
repaired before is recorded for hard repair. (log 15, DEDUCED) -/
def stepRepairStart (die chan row : Nat) : Act := fun s =>
  let r := (die, chan, row)
  if !s.dev.reported.contains r then []
  else if s.dev.softRepaired.contains r then Act.all [
    updDev fun d => { d with reported := d.reported.filter (· != r), hardRepairs := d.hardRepairs ++ [r] },
    writeLog 0x04 (rowUnit r)] s
  else if s.dev.repairs.any fun x => x.1 == die && x.2.1 % 4 == chan % 4 then []
  else Act.all [
    writeLog 0x02 (rowUnit r),
    updDev fun d => { d with reported := d.reported.filter (· != r), repairs := d.repairs ++ [(die, chan, row, s.now)] },
    fun t => Act.each (t.slices.map (·.1)) (fun n => updSlice n fun c => { c with
      l2hold := c.l2hold + BitVec.ofNat 32 (c.dram.filter fun m => !s.repairing m.line && t.repairing m.line).length }) t] s

/-- SOFT_REPAIR_END: after 200 µs. (log 4, DESIGN CHOICE) -/
def stepRepairEnd (die chan : Nat) : Act := fun s =>
  match s.dev.repairs.find? fun x => x.1 == die && x.2.1 == chan with
  | none => []
  | some (d, c, row, t0) =>
    if s.now < t0 + cyclesOf 200 then [] else Act.all [
      updDev fun v => { v with repairs := v.repairs.filter (· != (d, c, row, t0)), softRepaired := v.softRepaired ++ [(d, c, row)] },
      writeLog 0x03 (rowUnit (d, c, row)),
      serveDram] s

/-- The die, channel and row of a line of DRAM (R268, R269). -/
def dramRow (line : Nat) : Nat × Nat × Nat :=
  let la := line * 128 % 2 ^ 44
  if la < 0x24000000000 then (la / 0x6000000000, la % 0x6000000000 / 128 % 384, Config.rowOf line)
  else if la < 0x60000000000 then (6, (la - 0x40000000000) / 128 % 32, Config.rowOf line)
  else (7, 32 + (la - 0x60000000000) / 128 % 32, Config.rowOf line)

/-- A corrected error is counted for its row; the 64th is logged. (log 27, DEDUCED) -/
def countCorrected (line : Nat) : Act := fun s =>
  let r := dramRow line
  let n := Map.getD s.dev.corrected r 0 + 1
  if n < 64 then updDev (fun d => { d with corrected := Map.set d.corrected r n }) s
  else Act.all [
    updDev fun d => { d with
      corrected := Map.set d.corrected r 0,
      reported := if r.1 < 6 ∧ r ∉ d.reported then d.reported ++ [r] else d.reported },
    writeLog 0x01 (line * 128 % 2 ^ 44)] s

/-- The line that the scrubber reads after one. -/
def scrubAfter (line : Nat) : Nat :=
  if line < 0x24000000000 / 128 then line
  else if line < 0x40000000000 / 128 then 0x40000000000 / 128
  else if line < 0x80000000000 / 128 then line else 0

/-- PATROL_SCRUB: the next `count` lines are read, and what can be corrected is. Lines count from local address 0. (log 27, DEDUCED) -/
def stepScrub (line count : Nat) : Act := fun s =>
  if line ≠ s.dev.scrubNext ∨ count = 0 then [] else
  let base := s.dev.devno.toNat * 2 ^ 37
  let hit (l : Nat) : Bool := decide (base + line ≤ l) && decide (l < base + line + count)
  Act.all [
    Act.each (s.dev.correctable.filter hit) countCorrected,
    updDev fun d => { d with correctable := d.correctable.filter fun l => !hit l, scrubNext := scrubAfter (line + count) }] s

/-- ECC_ERROR: a storage error strikes a line of device memory or of a scratchpad, or a copy of one in an L1, whose poison goes home with its
dirty bytes. (log 17, DEDUCED) -/
def stepEcc (x : EccSite) : Act := fun s =>
  let key := x.line * 128
  let mine := decide (2 ^ 54 ≤ key) || (decide (key < hostBase) && decide (key / 2 ^ 44 = s.dev.devno.toNat) && decide (key % 2 ^ 44 < 0x80000000000))
  match x.l1 with
  | some cl => if x.correctable then [] else updCluster cl (fun c => { c with l1 := c.l1.map fun l => if l.line = x.line then { l with bad := true } else l }) s
  | none =>
  if !mine then []
  else if x.correctable then updDev (fun d => { d with correctable := d.correctable ++ [x.line] }) s
  else updDev (fun d => { d with poison := if d.poison.contains x.line then d.poison else d.poison ++ [x.line] }) s

/-- PARITY_ERROR: a soft error strikes a g register or a tile row; it is found when the register is read, or at the row's next check
point (R402). -/
def stepParity (x : ParitySite) : Act :=
  match x with
  | .reg k g => Act.when (decide (g < 256)) (updLane k fun l => { l with parity := if l.parity.contains g then l.parity else l.parity ++ [g] })
  | .row core tile row => Act.when (decide (core < 576) && decide (tile < 16) && decide (row < 32)) (updTile core tile fun t =>
      { t with rows := t.rows.zipIdx.map fun r => if r.2 = row then { r.1 with bad := true } else r.1 })

/-! ### Headgates and rings (R297, R298, R334, R366) -/

/-- HEADGATE_WRITE: a posted write to a queue's window. (log 2, DEDUCED; log 29, DEDUCED; log 47, DESIGN CHOICE) -/
def stepHeadgate (q off : Nat) (bs : List Byte) : Act := fun s =>
  if 2048 ≤ q ∨ 4096 ≤ off then [] else
  let w := s.wq q
  let drop : Act := fun t => [.queue q (some { t.wq q with drops := (t.wq q).drops + 1 })]
  let report (code : Nat) : Act := Act.when (s.isOpen w.ctx) (writeError { ecode := code, ctx := w.ctx, cnt := q })
  if bs.length ≠ 64 ∨ off % 64 ≠ 0 ∨ !w.en then Act.all [drop, report 0x29] s
  else if !s.isOpen w.ctx then drop s
  else if !w.room then Act.all [drop, report 0x28] s
  else enqueue q (BitVec.ofNat 512 (natLE bs)) [] s

/-- RING_RECORD_WRITE: a record that has waited for room is written: the oldest fault record, or the oldest completion record. An
error record never waits. -/
def stepRing (ctx : Nat) (r : Ring) : Act := fun s =>
  match r with
  | .fault => writeWaitingFault ctx s
  | .error => []
  | .completion => match s.ctxs.get? ctx with
    | none => []
    | some c => match c.cwait with
      | [] => []
      | v :: rest =>
        if !c.room .completion then [] else Act.all [
          updCtx ctx fun c => { c with cwait := rest }, writeRecord ctx .completion v.toNat] s

/-! ### Links (R431) -/

/-- FLIT_CRC_FAILURE: a flit fails its CRC and is sent again; whether it is the one that failed before is not said. The 16th resend of
one flit that fails takes the link down. A link that has been trained starts its 100 µs afresh. (log 5, DESIGN CHOICE; log 26, DEDUCED) -/
def stepFlit (link : Nat) : Act := fun s =>
  let l := s.link link
  if 18 ≤ link then []
  else if l.up then
    let n := s.choose link (l.resends + 1) [l.resends + 1, 1]
    if n < 17 then updLink link (fun l => { l with resends := n }) s
    else Act.all [
      updLink link fun l => { l with up := false, resends := 0, cleanSince := none, triedAt := s.now },
      writeLog 0x06 link] s
  else match l.cleanSince with
    | some _ => updLink link (fun l => { l with cleanSince := some s.now }) s
    | none => []

/-- LINK_TRAINING_ATTEMPT: once every 1 ms while the link is down. -/
def stepTraining (link : Nat) (trained : Bool) : Act := fun s =>
  let l := s.link link
  if 18 ≤ link || l.up || l.cleanSince.isSome || decide (s.now < l.triedAt + cyclesOf 1000) then []
  else updLink link (fun l => { l with triedAt := s.now, cleanSince := if trained then some s.now else none }) s

/-- LINK_UP: trained, and 100 µs without a resend. (log 4, DESIGN CHOICE) -/
def stepLinkUp (link : Nat) : Act := fun s =>
  let l := s.link link
  match l.cleanSince with
  | none => []
  | some t =>
    if 18 ≤ link || l.up || decide (s.now < t + cyclesOf 100) then []
    else Act.all [updLink link fun l => { l with up := true, resends := 0, cleanSince := none }, writeLog 0x07 link] s

/-! ### Power (R22, R435) -/

/-- Cycles of every 64 that a cluster with demand `d` loses, when `rem` W remain above the floors and the clusters together demand
`sum` above them. (log 24, DEDUCED) -/
def cutOf (floor rem sum d : Nat) : Nat :=
  if d ≤ floor ∨ sum ≤ rem then 0
  else (64 * ((d - floor) * (sum - rem)) + sum * d - 1) / (sum * d)

/-- POWER_PERIOD: the arbiter divides the budget for 10 µs. Cycles are removed, and counted, as they pass (State.elapse). (log 4, DESIGN
CHOICE; log 8, DESIGN CHOICE; log 24, DEDUCED) -/
def stepPower (inlet fixed : Nat) (demand : List Nat) : Act := fun s =>
  let d := s.dev
  if (match d.powerAt with | some t => decide (s.now < t + cyclesOf 10) | none => false) then [] else
  let floor := d.floor.toNat
  let budget := d.pcap.toNat - 100 * (inlet - d.tlim.toNat)
  let rem := budget - fixed - 144 * floor
  let want := (List.range 144).map fun c => (demand[c]?).getD 0
  let sum := (want.map fun x => x - floor).foldl (· + ·) 0
  Act.all [
    updDev fun d => { d with modpwr := BitVec.ofNat 32 (Config.pick s.tick 435), powerAt := some s.now },
    Act.each want.zipIdx fun x => Act.read fun t =>
      let cut := cutOf floor rem sum x.1
      Act.when (decide (cut ≠ 0) || (t.cluster x.2).cut != 0) (updCluster x.2 fun c => { c with cut := cut })] s

/-! ### Reset and attestation (R436, R437) -/

/-- The version of a firmware image that the boot ROM accepts: its container is linked and signed, both signatures verify under the
fused root keys, and the word at the start of its first section is at least the fused version. -/
def fwVersion (x : FwImage) (least : Word) : Option Word :=
  match readObj x.file with
  | .error _ => none
  | .ok o =>
    let v := BitVec.ofNat 32 (numAt (match o.secs with | y :: _ => y.data | [] => []) 0 4)
    if o.linked && decide (4 ≤ (match o.secs with | y :: _ => y.data.length | [] => 0)) && o.trusted x.file [Config.rootKeys.1] [Config.rootKeys.2] &&
      decide (least.toNat ≤ v.toNat) then some v else none

/-- DEVICE_RESET: everything returns to its reset value, and the boot ROM tries the primary image and then the secondary. Rows recorded
for hard repair are repaired. (log 2, DEDUCED; log 28, DEDUCED) -/
def stepReset (primary secondary : Option FwImage) : Act := fun s =>
  let img := (primary.toList ++ secondary.toList).findSome? fun x => (fwVersion x s.dev.fwmin).map fun v => (v, x)
  [.wipe { Dev.reset with
    devno := s.dev.devno, fwmin := s.dev.fwmin, up := img.isSome, fwver := (img.map (·.1)).getD 0, resetAt := s.now,
    measured := img.toList.map fun y => BitVec.ofNat 256 (natLE (sha256 y.2.file)),
    retired := s.dev.retired, softRepaired := s.dev.softRepaired.filter fun r => !s.dev.hardRepairs.contains r,
    order := s.dev.order }]

/-- ATTESTATION_REPORT_READY: the report over the identity block, the nonce and the measurements of the boot ROM's code and of each accepted
image is complete, with both signatures. (log 25, DEDUCED) -/
def stepReport : Act := fun s =>
  if s.dev.attStatus ≠ 0 then [] else
  let exactly (n : Nat) (bs : List Byte) : List Byte := (bs ++ List.replicate n 0).take n
  let meas := exactly 256 (sha256 Config.romCode ++ s.dev.measured.flatMap fun h => bytesLE 32 h.toNat)
  let signed := bytesLE 64 s.identity ++ bytesLE 32 s.dev.nonce.toNat ++ meas
  let body := signed ++ exactly 64 (Config.signs false signed) ++ exactly 3309 (Config.signs true signed)
  updDev (fun d => { d with attStatus := 1, report := body ++ List.replicate (4096 - body.length) 0 }) s

end Sys2Proof.Machine
end

