-- ==== Sys2Proof/Machine/Steps.lean ====
section
/-! DEFINITION. Machine/Steps.lean: the meaning of each step: its action, and what follows from it at once. A step whose conditions do
not hold in a state changes nothing but what follows at once. -/

namespace Sys2Proof.Machine

open Sys2Proof

/-- The outcome of a step whose action is `a`. (log 3, DESIGN CHOICE) -/
def run (a : Act) (s : State) : Host.Outcome State Fault Refusal := .next (s.after a).settled

/-- CENSUS (R170). -/
def execCensus (port : Nat) (s : State) : Host.Outcome State Fault Refusal := run (recordsInOrder (stepCensus port)) s
/-- FETCH_LATCH_FILL (R167). -/
def execFetchLatchFill (lane : LaneId) (pick : List Nat) (ahead : Nat) (s : State) : Host.Outcome State Fault Refusal := run (recordsInOrder (stepFetch lane pick ahead)) s
/-- LONG_LATENCY_RESULT_WRITE (R37). -/
def execLongLatencyResultWrite (lane : LaneId) (res : Nat) (s : State) : Host.Outcome State Fault Refusal := run (stepResult lane res) s
/-- COLLECTIVE_EXECUTE (R184). -/
def execCollectiveExecute (crew : CrewId) (s : State) : Host.Outcome State Fault Refusal := run (stepCollective crew) s
/-- RENDEZVOUS_MISMATCH (R185). -/
def execRendezvousMismatch (crew : CrewId) (s : State) : Host.Outcome State Fault Refusal := run (recordsInOrder (stepMismatch crew)) s
/-- SLEEP_EXPIRY (R178). -/
def execSleepExpiry (lane : LaneId) (s : State) : Host.Outcome State Fault Refusal := run (stepSleepExpiry lane) s
/-- L2_REQUEST_ACCEPT (R261). -/
def execL2RequestAccept (req : Nat) (s : State) : Host.Outcome State Fault Refusal := run (stepAccept req) s
/-- L2_FILL_ARRIVAL (R266). -/
def execL2FillArrival (slice line : Nat) (victim : Option Nat) (s : State) : Host.Outcome State Fault Refusal := run (stepFill slice line victim) s
/-- BACK_INVALIDATION_COMPLETE (R425). -/
def execBackInvalidationComplete (line : Nat) (s : State) : Host.Outcome State Fault Refusal := run (stepBackInval line) s
/-- HOST_MEM_ACCESS (R290). -/
def execHostMemAccess (a : HostAccess) (s : State) : Host.Outcome State Fault Refusal := run (stepHost a) s
/-- MIGRATION_PIECE_START (R271). -/
def execMigrationPieceStart (old new : Nat) (s : State) : Host.Outcome State Fault Refusal := run (ifUp (stepMigrateStart old new)) s
/-- MIGRATION_PIECE_END (R271). -/
def execMigrationPieceEnd (old : Nat) (done : Bool) (s : State) : Host.Outcome State Fault Refusal := run (stepMigrateEnd old done) s
/-- SOFT_REPAIR_START (R434). -/
def execSoftRepairStart (die chan row : Nat) (s : State) : Host.Outcome State Fault Refusal := run (ifUp (stepRepairStart die chan row)) s
/-- SOFT_REPAIR_END (R272). -/
def execSoftRepairEnd (die chan : Nat) (s : State) : Host.Outcome State Fault Refusal := run (stepRepairEnd die chan) s
/-- PATROL_SCRUB (R433). -/
def execPatrolScrub (line count : Nat) (s : State) : Host.Outcome State Fault Refusal := run (ifUp (stepScrub line count)) s
/-- BANK_DRAIN_DONE (R257). -/
def execBankDrainDone (cluster bank : Nat) (s : State) : Host.Outcome State Fault Refusal := run (stepDrainDone cluster bank) s
/-- FENCE_COMPLETE (R285). -/
def execFenceComplete (lane : LaneId) (s : State) : Host.Outcome State Fault Refusal := run (stepFence lane) s
/-- SLUICE_REQUEST_ARRIVE (R281). -/
def execSluiceRequestArrive (req : Nat) (s : State) : Host.Outcome State Fault Refusal := run (stepSluiceArrive req) s
/-- SLUICE_RELEASE_PERFORM (R282). -/
def execSluiceReleasePerform (rel : Nat) (s : State) : Host.Outcome State Fault Refusal := run (stepSluiceRelease rel) s
/-- WEIR_RETIRE (R379). -/
def execWeirRetire (wg off : Nat) (s : State) : Host.Outcome State Fault Refusal := run (recordsInOrder (stepWeirRetire wg off)) s
/-- BARRIER_UNREACHABLE (R383). -/
def execBarrierUnreachable (gang : Bool) (id : Nat) (s : State) : Host.Outcome State Fault Refusal := run (recordsInOrder (stepUnreachable gang id)) s
/-- MATRIX_COMMAND_ACCEPT (R207). -/
def execMatrixCommandAccept (core : Nat) (s : State) : Host.Outcome State Fault Refusal := run (stepMatrixAccept core) s
/-- TILE_COMMAND_REACHED (R201). -/
def execTileCommandReached (core tile : Nat) (s : State) : Host.Outcome State Fault Refusal := run (stepTileReached core tile) s
/-- MATRIX_K_STEP (R193). -/
def execMatrixKStep (core tile : Nat) (s : State) : Host.Outcome State Fault Refusal := run (stepKStep core tile) s
/-- MOUT_ROW (R223). -/
def execMoutRow (core tile : Nat) (s : State) : Host.Outcome State Fault Refusal := run (stepMoutRow core tile) s
/-- DITCH_CONTROLLER_OP (R302). -/
def execDitchControllerOp (cluster op : Nat) (s : State) : Host.Outcome State Fault Refusal := run (recordsInOrder (stepDitchOp cluster op)) s
/-- ENGINE_COMMAND_FIRE (R303). -/
def execEngineCommandFire (cluster cmd : Nat) (s : State) : Host.Outcome State Fault Refusal := run (stepFire cluster cmd) s
/-- ENGINE_ROW (R325). -/
def execEngineRow (cluster cmd row : Nat) (s : State) : Host.Outcome State Fault Refusal := run (stepEngineRow cluster cmd row) s
/-- ENGINE_COMMAND_COMPLETE (R317). -/
def execEngineCommandComplete (cluster cmd : Nat) (s : State) : Host.Outcome State Fault Refusal := run (stepComplete cluster cmd) s
/-- ROLLBACK (R405). -/
def execRollback (lane : LaneId) (more : List LaneId) (s : State) : Host.Outcome State Fault Refusal := run (stepRollback lane more) s
/-- GANG_KILL (R410). -/
def execGangKill (gang : Nat) (s : State) : Host.Outcome State Fault Refusal := run (stepGangKill gang) s
/-- HEADGATE_WRITE (R334). -/
def execHeadgateWrite (queue off : Nat) (bytes : List Byte) (s : State) : Host.Outcome State Fault Refusal := run (ifUp (stepHeadgate queue off bytes)) s
/-- LAUNCH_ACCEPT (R336). -/
def execLaunchAccept (die : Nat) (queue : Option Nat) (s : State) : Host.Outcome State Fault Refusal := run (stepLaunchAccept die queue) s
/-- LAUNCH_CONDITION_CHECK (R337). -/
def execLaunchConditionCheck (launch : Nat) (s : State) : Host.Outcome State Fault Refusal := run (stepCondition launch) s
/-- GANG_PLACE (R338). -/
def execGangPlace (launch cluster : Nat) (coreL stackL undoL : List Nat) (s : State) : Host.Outcome State Fault Refusal := run (stepPlace launch cluster coreL stackL undoL) s
/-- LAUNCH_COMPLETE (R339). -/
def execLaunchComplete (launch : Nat) (s : State) : Host.Outcome State Fault Refusal := run (stepLaunchComplete launch) s
/-- WORKGROUP_ACTIVATE (R341). -/
def execWorkgroupActivate (wg : Nat) (place : List (Nat × Nat)) (s : State) : Host.Outcome State Fault Refusal := run (stepActivate wg place) s
/-- QUANTUM_TICK (R342). -/
def execQuantumTick (core : Nat) (place : List (Nat × Nat)) (s : State) : Host.Outcome State Fault Refusal := run (stepQuantum core place) s
/-- RING_RECORD_WRITE (R297). -/
def execRingRecordWrite (ctx : Nat) (ring : Ring) (s : State) : Host.Outcome State Fault Refusal := run (stepRing ctx ring) s
/-- CONTEXT_OPEN (R366). -/
def execContextOpen (ctx : Nat) (s : State) : Host.Outcome State Fault Refusal := run (ifUp (stepOpen ctx)) s
/-- CONTEXT_CLOSE (R366). -/
def execContextClose (ctx : Nat) (s : State) : Host.Outcome State Fault Refusal := run (ifUp (stepClose ctx)) s
/-- CONTEXT_CI_WRITE (R298). -/
def execContextCiWrite (ctx : Nat) (ring : Ring) (ci : Word) (s : State) : Host.Outcome State Fault Refusal := run (ifUp (stepCi ctx ring ci)) s
/-- CONTEXT_FREE (R366). -/
def execContextFree (ctx : Nat) (s : State) : Host.Outcome State Fault Refusal := run (stepFree ctx) s
/-- FAULT_ANSWER_RETRY (R391). -/
def execFaultAnswerRetry (ctx : Nat) (fid : Word) (amask : DWord) (s : State) : Host.Outcome State Fault Refusal := run (ifUp (answer ctx fid amask .retry 0)) s
/-- FAULT_ANSWER_TRAP (R391). -/
def execFaultAnswerTrap (ctx : Nat) (fid : Word) (amask : DWord) (s : State) : Host.Outcome State Fault Refusal := run (ifUp (answer ctx fid amask .trap 0)) s
/-- FAULT_ANSWER_KILL (R391). -/
def execFaultAnswerKill (ctx : Nat) (fid : Word) (amask : DWord) (s : State) : Host.Outcome State Fault Refusal := run (ifUp (answer ctx fid amask .kill 0)) s
/-- FAULT_ANSWER_RESUMEAT (R391). -/
def execFaultAnswerResumeat (ctx : Nat) (fid : Word) (amask : DWord) (rpc : DWord) (s : State) : Host.Outcome State Fault Refusal := run (ifUp (answer ctx fid amask .resumeAt rpc)) s
/-- TRANSLATION_INVALIDATION (R361). -/
def execTranslationInvalidation (ctx : Nat) (start len : DWord) (s : State) : Host.Outcome State Fault Refusal := run (ifUp (stepInvalidate ctx start len)) s
/-- INVALIDATION_COMPLETE (R430). -/
def execInvalidationComplete (ctx : Nat) (s : State) : Host.Outcome State Fault Refusal := run (stepInvalEnd ctx) s
/-- PREEMPT_START (R399). -/
def execPreemptStart (ctx : Nat) (t1 t2 : Half) (s : State) : Host.Outcome State Fault Refusal := run (ifUp (stepPreemptStart ctx t1 t2)) s
/-- PREEMPT_RESUME (R399). -/
def execPreemptResume (ctx : Nat) (s : State) : Host.Outcome State Fault Refusal := run (ifUp (stepPreemptResume ctx)) s
/-- PREEMPT_T1_EXPIRY (R400). -/
def execPreemptT1Expiry (ctx : Nat) (s : State) : Host.Outcome State Fault Refusal := run (stepT1 ctx) s
/-- PREEMPT_T2_EXPIRY (R401). -/
def execPreemptT2Expiry (ctx : Nat) (s : State) : Host.Outcome State Fault Refusal := run (stepT2 ctx) s
/-- QUANTUM_WRITE (R427). -/
def execQuantumWrite (core : Nat) (v : Half) (s : State) : Host.Outcome State Fault Refusal := run (ifUp (stepQuantumWrite core v)) s
/-- CISTHW_WRITE (R427). -/
def execCisthwWrite (cluster : Nat) (v : Half) (s : State) : Host.Outcome State Fault Refusal := run (ifUp (stepCisthw cluster v)) s
/-- WORK_QUEUE_CONFIG_WRITE (R429). -/
def execWorkQueueConfigWrite (queue : Nat) (v : BitVec 128) (s : State) : Host.Outcome State Fault Refusal := run (ifUp (stepQueueConfig queue v)) s
/-- ROUTE_WRITE (R431). -/
def execRouteWrite (dev : Nat) (v : Word) (s : State) : Host.Outcome State Fault Refusal := run (ifUp (stepRoute dev v)) s
/-- ATTESTATION_NONCE_WRITE (R437). -/
def execAttestationNonceWrite (nonce : BitVec 256) (s : State) : Host.Outcome State Fault Refusal := run (ifUp (stepNonce nonce)) s
/-- ATTESTATION_REPORT_READY (R437). -/
def execAttestationReportReady (s : State) : Host.Outcome State Fault Refusal := run (ifUp stepReport) s
/-- CONTROL_SPACE_WRITE (R427). -/
def execControlSpaceWrite (off : Nat) (bytes : List Byte) (s : State) : Host.Outcome State Fault Refusal := run (controlWrite off bytes) s
/-- FLIT_CRC_FAILURE (R431). -/
def execFlitCrcFailure (link : Nat) (s : State) : Host.Outcome State Fault Refusal := run (ifUp (stepFlit link)) s
/-- LINK_TRAINING_ATTEMPT (R431). -/
def execLinkTrainingAttempt (link : Nat) (trained : Bool) (s : State) : Host.Outcome State Fault Refusal := run (ifUp (stepTraining link trained)) s
/-- LINK_UP (R431). -/
def execLinkUp (link : Nat) (s : State) : Host.Outcome State Fault Refusal := run (ifUp (stepLinkUp link)) s
/-- REMOTE_ACCESS_TIMEOUT (R432). -/
def execRemoteAccessTimeout (req : Nat) (s : State) : Host.Outcome State Fault Refusal := run (stepRemoteTimeout req) s
/-- POWER_PERIOD (R435). -/
def execPowerPeriod (inlet fixed : Nat) (demand : List Nat) (s : State) : Host.Outcome State Fault Refusal := run (ifUp (stepPower inlet fixed demand)) s
/-- DEVICE_RESET (R436). -/
def execDeviceReset (primary secondary : Option FwImage) (s : State) : Host.Outcome State Fault Refusal := run (stepReset primary secondary) s
/-- PARITY_ERROR (R402). -/
def execParityError (site : ParitySite) (s : State) : Host.Outcome State Fault Refusal := run (stepParity site) s
/-- ECC_ERROR (R433). -/
def execEccError (site : EccSite) (s : State) : Host.Outcome State Fault Refusal := run (stepEcc site) s

end Sys2Proof.Machine
end

