-- ==== Sys2Proof/Machine/Dispatch.lean ====
section
/-! DEFINITION. Machine/Dispatch.lean: the meaning of each step, one arm per row of the opcode table. -/

namespace Sys2Proof.Machine

open Sys2Proof

def exec (i : Instr) (s : State) : Host.Outcome State Fault Refusal :=
  match i with
  | .census port => Sys2Proof.Machine.execCensus port s
  | .fetchLatchFill lane pick ahead => Sys2Proof.Machine.execFetchLatchFill lane pick ahead s
  | .longLatencyResultWrite lane res => Sys2Proof.Machine.execLongLatencyResultWrite lane res s
  | .collectiveExecute crew => Sys2Proof.Machine.execCollectiveExecute crew s
  | .rendezvousMismatch crew => Sys2Proof.Machine.execRendezvousMismatch crew s
  | .sleepExpiry lane => Sys2Proof.Machine.execSleepExpiry lane s
  | .l2RequestAccept req => Sys2Proof.Machine.execL2RequestAccept req s
  | .l2FillArrival slice line victim => Sys2Proof.Machine.execL2FillArrival slice line victim s
  | .backInvalidationComplete line => Sys2Proof.Machine.execBackInvalidationComplete line s
  | .hostMemAccess a => Sys2Proof.Machine.execHostMemAccess a s
  | .migrationPieceStart old new => Sys2Proof.Machine.execMigrationPieceStart old new s
  | .migrationPieceEnd old done => Sys2Proof.Machine.execMigrationPieceEnd old done s
  | .softRepairStart die chan row => Sys2Proof.Machine.execSoftRepairStart die chan row s
  | .softRepairEnd die chan => Sys2Proof.Machine.execSoftRepairEnd die chan s
  | .patrolScrub line count => Sys2Proof.Machine.execPatrolScrub line count s
  | .bankDrainDone cluster bank => Sys2Proof.Machine.execBankDrainDone cluster bank s
  | .fenceComplete lane => Sys2Proof.Machine.execFenceComplete lane s
  | .sluiceRequestArrive req => Sys2Proof.Machine.execSluiceRequestArrive req s
  | .sluiceReleasePerform rel => Sys2Proof.Machine.execSluiceReleasePerform rel s
  | .weirRetire wg off => Sys2Proof.Machine.execWeirRetire wg off s
  | .barrierUnreachable gang id => Sys2Proof.Machine.execBarrierUnreachable gang id s
  | .matrixCommandAccept core => Sys2Proof.Machine.execMatrixCommandAccept core s
  | .tileCommandReached core tile => Sys2Proof.Machine.execTileCommandReached core tile s
  | .matrixKStep core tile => Sys2Proof.Machine.execMatrixKStep core tile s
  | .moutRow core tile => Sys2Proof.Machine.execMoutRow core tile s
  | .ditchControllerOp cluster op => Sys2Proof.Machine.execDitchControllerOp cluster op s
  | .engineCommandFire cluster cmd => Sys2Proof.Machine.execEngineCommandFire cluster cmd s
  | .engineRow cluster cmd row => Sys2Proof.Machine.execEngineRow cluster cmd row s
  | .engineCommandComplete cluster cmd => Sys2Proof.Machine.execEngineCommandComplete cluster cmd s
  | .rollback lane more => Sys2Proof.Machine.execRollback lane more s
  | .gangKill gang => Sys2Proof.Machine.execGangKill gang s
  | .headgateWrite queue off bytes => Sys2Proof.Machine.execHeadgateWrite queue off bytes s
  | .launchAccept die queue => Sys2Proof.Machine.execLaunchAccept die queue s
  | .launchConditionCheck launch => Sys2Proof.Machine.execLaunchConditionCheck launch s
  | .gangPlace launch cluster coreL stackL undoL => Sys2Proof.Machine.execGangPlace launch cluster coreL stackL undoL s
  | .launchComplete launch => Sys2Proof.Machine.execLaunchComplete launch s
  | .workgroupActivate wg place => Sys2Proof.Machine.execWorkgroupActivate wg place s
  | .quantumTick core place => Sys2Proof.Machine.execQuantumTick core place s
  | .ringRecordWrite ctx ring => Sys2Proof.Machine.execRingRecordWrite ctx ring s
  | .contextOpen ctx => Sys2Proof.Machine.execContextOpen ctx s
  | .contextClose ctx => Sys2Proof.Machine.execContextClose ctx s
  | .contextCiWrite ctx ring ci => Sys2Proof.Machine.execContextCiWrite ctx ring ci s
  | .contextFree ctx => Sys2Proof.Machine.execContextFree ctx s
  | .faultAnswerRetry ctx fid amask => Sys2Proof.Machine.execFaultAnswerRetry ctx fid amask s
  | .faultAnswerTrap ctx fid amask => Sys2Proof.Machine.execFaultAnswerTrap ctx fid amask s
  | .faultAnswerKill ctx fid amask => Sys2Proof.Machine.execFaultAnswerKill ctx fid amask s
  | .faultAnswerResumeat ctx fid amask rpc => Sys2Proof.Machine.execFaultAnswerResumeat ctx fid amask rpc s
  | .translationInvalidation ctx start len => Sys2Proof.Machine.execTranslationInvalidation ctx start len s
  | .invalidationComplete ctx => Sys2Proof.Machine.execInvalidationComplete ctx s
  | .preemptStart ctx t1 t2 => Sys2Proof.Machine.execPreemptStart ctx t1 t2 s
  | .preemptResume ctx => Sys2Proof.Machine.execPreemptResume ctx s
  | .preemptT1Expiry ctx => Sys2Proof.Machine.execPreemptT1Expiry ctx s
  | .preemptT2Expiry ctx => Sys2Proof.Machine.execPreemptT2Expiry ctx s
  | .quantumWrite core v => Sys2Proof.Machine.execQuantumWrite core v s
  | .cisthwWrite cluster v => Sys2Proof.Machine.execCisthwWrite cluster v s
  | .workQueueConfigWrite queue v => Sys2Proof.Machine.execWorkQueueConfigWrite queue v s
  | .routeWrite dev v => Sys2Proof.Machine.execRouteWrite dev v s
  | .attestationNonceWrite nonce => Sys2Proof.Machine.execAttestationNonceWrite nonce s
  | .attestationReportReady => Sys2Proof.Machine.execAttestationReportReady s
  | .controlSpaceWrite off bytes => Sys2Proof.Machine.execControlSpaceWrite off bytes s
  | .flitCrcFailure link => Sys2Proof.Machine.execFlitCrcFailure link s
  | .linkTrainingAttempt link trained => Sys2Proof.Machine.execLinkTrainingAttempt link trained s
  | .linkUp link => Sys2Proof.Machine.execLinkUp link s
  | .remoteAccessTimeout req => Sys2Proof.Machine.execRemoteAccessTimeout req s
  | .powerPeriod inlet fixed demand => Sys2Proof.Machine.execPowerPeriod inlet fixed demand s
  | .deviceReset primary secondary => Sys2Proof.Machine.execDeviceReset primary secondary s
  | .parityError site => Sys2Proof.Machine.execParityError site s
  | .eccError site => Sys2Proof.Machine.execEccError site s

end Sys2Proof.Machine
end

