-- ==== Sys2Proof/Machine/Step.lean ====
section
/-! DEFINITION. Machine/Step.lean: one step of the part. The next step is the first of the agenda, after the cycles
that it gives, or a free value where the agenda is empty. -/

namespace Sys2Proof.Machine

open Sys2Proof

/-- The step that comes next, with the cycles that pass before it. (log 1, DESIGN CHOICE) -/
def State.nextStep (s : State) : Nat × Instr :=
  match s.agenda with
  | a :: _ => a
  | [] => Config.freeStep s.tick

/-- The state in which the next step runs: its cycles have passed and it has left the agenda. (log 1, DESIGN CHOICE) -/
def State.advance (s : State) : State :=
  State.elapse { s with tick := s.tick + 1, agenda := s.agenda.tail } s.nextStep.1

/-- One step. -/
def step (s : State) : Host.Outcome State Fault Refusal := exec s.nextStep.2 s.advance

/-- The state `s` with an instruction word where the next step issues it: lane 0 of a one-lane workgroup, alone in
peloton slot 0 of core 0, has it in its fetch latch, and the next step is the CENSUS of port 0. (log 2, DEDUCED) -/
def State.withFetchWord (s : State) (nbits w : Nat) : State :=
  let raw := BitVec.ofNat 96 (w % 2 ^ nbits)
  let desc : Desc := { entry := 0, lanes := 1, gang := 1, regs := 256, scratch := 0, undo := 0, tiles := 0, stack := 0,
                       resx := 0, resn := 0 }
  let lane := Lane.start 0 0 0 0
  let latch := match decode 32 raw with
    | .ok op => some { raw := raw, op := op }
    | .error _ => none
  let launch : Launch :=
    { ctx := 0, lnum := 0, kdi := 0, desc := desc, prio := 0, limit := 1, args := [], grid := 1, side := 0, cdone := 0,
      conds := [], next := 1, again := [], finished := 0, reln := 0, abandoned := false,
      order := 0 }
  let gang : Gang :=
    { launch := 0, ctx := 0, idx := 0, relaunch := 0, cluster := 0, wgs := [0], started := true, startedAt := s.now,
      kill := none, ended := false, phases := [] }
  let wg : Wg :=
    { ctx := 0, gang := 0, idx := 0, core := 0, kdi := 0, desc := desc, active := true, begun := true, place := [(0, 0)],
      crewOf := [0], parkedAt := 0, activeAt := s.now, parking := false, exited := false, freed := false, sregs := [],
      weirs := [], retiring := [], phases := [], answers := [], saddleOwed := [], exitMark := 0 }
  { s with
    agenda := [(0, .census 0)],
    dev := { s.dev with up := true },
    ready := [⟨0, 0⟩],
    ports := s.ports.del 0,
    pelotons := s.pelotons.del (0, 0),
    ctxs := s.ctxs.set 0 { Ctx.start with state := 1 },
    launches := s.launches.set 0 launch,
    gangs := s.gangs.set 0 gang,
    wgs := Map.set (s.wgs.filter fun e => decide (e.2.core ≠ 0)) 0 wg,
    crews := s.crews.set ⟨0, 0⟩ (Crew.start [] [0]),
    lanes := s.lanes.set ⟨0, 0⟩ { lane with latch := latch } }

end Sys2Proof.Machine
end

