-- ==== Sys2Proof/Machine/Source.lean ====
section
/-! DEFINITION. Machine/Source.lean: the text of the assembly language: characters, words, literals and expressions (R51, R52, R57, R62,
R63). -/

namespace Sys2Proof.Machine

open Sys2Proof

/-- Why a line is refused. -/
inductive AsmErr where
  /-- longer than 4,096 characters, or an identifier of more than 255 (R51, R52) -/
  | tooLong
  /-- not one of the forms of R51 -/
  | form
  /-- a reserved word as a name (R52) -/
  | reserved
  /-- no such mnemonic, or a part given twice (R53) -/
  | mnemonic
  /-- a check of R48, by its order (R54) -/
  | check (order : Nat)
  /-- more or fewer operands than the form names, or of another kind (R55) -/
  | operands
  /-- a value that does not fit (R57, R66) -/
  | range
  /-- two different literals (R58) -/
  | literals
  /-- a target that is no multiple of 4, or no address of code (R60) -/
  | target
  /-- hints (R61) -/
  | hint
  /-- an expression that is not one, or divides by zero, or shifts too far (R62) -/
  | expression
  /-- a combination of relocatable values (R63) -/
  | relocatable
  /-- a symbol that is not defined, or not yet where it must be (R63, R64) -/
  | undefined
  /-- a second definition (R64) -/
  | redefined
  /-- a directive, or an instruction, where it may not stand (R65, R68, R69) -/
  | place
  /-- an argument outside its limits (R66, R68 to R71) -/
  | argument
  /-- given twice, or missing (R69, R70) -/
  | once
  /-- nested too deep, or not closed (R72) -/
  | nesting
  deriving DecidableEq, Repr, Inhabited

/-! ### Characters and words (R51, R52) -/

/-- A letter or `_`. -/
def isStart (c : Char) : Bool := c.isAlpha || c == '_'
/-- A letter, digit or `_`. -/
def isWordChar (c : Char) : Bool := isStart c || c.isDigit
/-- A space or tab. (log 43, DEDUCED) -/
def isBlank (c : Char) : Bool := c == ' ' || c == '\t' || c == '\r'
/-- A word in capitals, for what is case-insensitive. -/
def upper (s : List Char) : String := String.ofList (s.map Char.toUpper)

/-- A line without its comment; quoted text holds none. (log 43, DEDUCED) -/
def dropComment : Bool → List Char → List Char
  | _, [] => []
  | true, c :: cs => c :: dropComment (c != '"') cs
  | false, ';' :: _ => []
  | false, '/' :: '/' :: _ => []
  | false, c :: cs => c :: dropComment (c == '"') cs

/-- Without blanks at both ends. -/
def trim (s : List Char) : List Char := ((s.dropWhile isBlank).reverse.dropWhile isBlank).reverse

/-- The text cut at a character. -/
def splitOn (d : Char) : List Char → List (List Char)
  | [] => [[]]
  | c :: cs => if c = d then [] :: splitOn d cs else match splitOn d cs with
      | x :: xs => (c :: x) :: xs
      | [] => [[c]]

/-- The number of decimal digits. -/
def decNat (s : List Char) : Nat := s.foldl (fun n c => n * 10 + (c.toNat - '0'.toNat)) 0
/-- The digit of a character in a base up to 16. -/
def digitOf (c : Char) : Nat :=
  if c.isDigit then c.toNat - '0'.toNat else if 'a' ≤ c ∧ c ≤ 'f' then c.toNat - 'a'.toNat + 10
  else if 'A' ≤ c ∧ c ≤ 'F' then c.toNat - 'A'.toNat + 10 else 99

/-- The MAJ names (R45). -/
def majName : Maj → String
  | .iadd => "IADD" | .isub => "ISUB" | .iadd3 => "IADD3" | .imul => "IMUL" | .imulh => "IMULH" | .imad => "IMAD" | .idiv => "IDIV"
  | .irem => "IREM" | .imin => "IMIN" | .imax => "IMAX" | .iabs => "IABS" | .ineg => "INEG" | .iaddmin => "IADDMIN"
  | .iaddmax => "IADDMAX" | .isad => "ISAD" | .lea => "LEA" | .and => "AND" | .or => "OR" | .xor => "XOR" | .andn => "ANDN"
  | .not => "NOT" | .shl => "SHL" | .shr => "SHR" | .sar => "SAR" | .rol => "ROL" | .fshl => "FSHL" | .bfx => "BFX" | .bfi => "BFI"
  | .popc => "POPC" | .clz => "CLZ" | .ctz => "CTZ" | .brev => "BREV" | .prmt => "PRMT" | .icmp => "ICMP" | .isel => "ISEL"
  | .mov => "MOV" | .iext => "IEXT" | .pset => "PSET" | .pmov => "PMOV" | .csrr => "CSRR" | .csrw => "CSRW" | .kmov => "KMOV"
  | .fadd => "FADD" | .fsub => "FSUB" | .fmul => "FMUL" | .ffma => "FFMA" | .fmin => "FMIN" | .fmax => "FMAX" | .fabs => "FABS"
  | .fneg => "FNEG" | .faddmin => "FADDMIN" | .fcmp => "FCMP" | .fsel => "FSEL" | .frnd => "FRND" | .frcp => "FRCP" | .frsq => "FRSQ"
  | .fsqrt => "FSQRT" | .fex2 => "FEX2" | .flg2 => "FLG2" | .fsin => "FSIN" | .fcos => "FCOS" | .ftanh => "FTANH" | .fsigm => "FSIGM"
  | .fclass => "FCLASS" | .fscale => "FSCALE" | .hadd2 => "HADD2" | .hmul2 => "HMUL2" | .hfma2 => "HFMA2" | .hmin2 => "HMIN2"
  | .hmax2 => "HMAX2" | .fdot4 => "FDOT4" | .cvt => "CVT" | .cvtp => "CVTP" | .cvt8 => "CVT8" | .unpk => "UNPK" | .mxq => "MXQ"
  | .mxdq => "MXDQ" | .dsq => "DSQ" | .dsdq => "DSDQ" | .lshf => "LSHF" | .lxch => "LXCH" | .lbcst => "LBCST" | .lvote => "LVOTE"
  | .lball => "LBALL" | .lscan => "LSCAN" | .lred => "LRED" | .lmatch => "LMATCH" | .lrdv => "LRDV" | .lcnt => "LCNT" | .bra => "BRA"
  | .brx => "BRX" | .call => "CALL" | .callx => "CALLX" | .ret => "RET" | .exit => "EXIT" | .nop => "NOP" | .yield => "YIELD"
  | .sleep => "SLEEP" | .bpt => "BPT" | .tfence => "TFENCE" | .trap => "TRAP" | .tret => "TRET" | .ld => "LD" | .st => "ST"
  | .lde => "LDE" | .ste => "STE" | .pref => "PREF" | .cctl => "CCTL" | .atom => "ATOM" | .acas => "ACAS" | .afadd => "AFADD"
  | .slacq => "SLACQ" | .sltry => "SLTRY" | .slrel => "SLREL" | .slbind => "SLBIND" | .slunb => "SLUNB" | .fence => "FENCE"
  | .bar => "BAR" | .bara => "BARA" | .gbar => "GBAR" | .winit => "WINIT" | .wexp => "WEXP" | .warr => "WARR" | .wwait => "WWAIT"
  | .wtest => "WTEST" | .wret => "WRET" | .carve => "CARVE" | .malloc => "MALLOC" | .mfree => "MFREE" | .mzero => "MZERO"
  | .mloop => "MLOOP" | .mloops => "MLOOPS" | .mwait => "MWAIT" | .mout => "MOUT" | .mren => "MREN" | .mstat => "MSTAT"
  | .msadl => "MSADL" | .mpass => "MPASS" | .mbind => "MBIND" | .mflag => "MFLAG" | .sdef => "SDEF" | .sgath => "SGATH"
  | .sscat => "SSCAT" | .sscadd => "SSCADD" | .smerge => "SMERGE" | .snz => "SNZ" | .sstat => "SSTAT" | .dpush => "DPUSH"
  | .dpop => "DPOP" | .dpeek => "DPEEK" | .dcfg => "DCFG" | .drst => "DRST" | .cpyw => "CPYW" | .cpyl => "CPYL" | .rbegin => "RBEGIN"
  | .rpres => "RPRES" | .rpresm => "RPRESM" | .rend => "REND" | .rfail => "RFAIL" | .rstat => "RSTAT" | .tspawn => "TSPAWN"
  | .ttake => "TTAKE" | .tjoin => "TJOIN" | .tjwait => "TJWAIT" | .qpush => "QPUSH" | .qpop => "QPOP" | .launch => "LAUNCH"
  | .bndset => "BNDSET" | .bndget => "BNDGET" | .perfr => "PERFR" | .perfc => "PERFC" | .errinj => "ERRINJ"

/-- Every major. -/
def majList : List Maj :=
  [.iadd, .isub, .iadd3, .imul, .imulh, .imad, .idiv, .irem, .imin, .imax, .iabs, .ineg, .iaddmin, .iaddmax, .isad, .lea, .and, .or,
   .xor, .andn, .not, .shl, .shr, .sar, .rol, .fshl, .bfx, .bfi, .popc, .clz, .ctz, .brev, .prmt, .icmp, .isel, .mov, .iext, .pset,
   .pmov, .csrr, .csrw, .kmov, .fadd, .fsub, .fmul, .ffma, .fmin, .fmax, .fabs, .fneg, .faddmin, .fcmp, .fsel, .frnd, .frcp, .frsq,
   .fsqrt, .fex2, .flg2, .fsin, .fcos, .ftanh, .fsigm, .fclass, .fscale, .hadd2, .hmul2, .hfma2, .hmin2, .hmax2, .fdot4, .cvt, .cvtp,
   .cvt8, .unpk, .mxq, .mxdq, .dsq, .dsdq, .lshf, .lxch, .lbcst, .lvote, .lball, .lscan, .lred, .lmatch, .lrdv, .lcnt, .bra, .brx,
   .call, .callx, .ret, .exit, .nop, .yield, .sleep, .bpt, .tfence, .trap, .tret, .ld, .st, .lde, .ste, .pref, .cctl, .atom, .acas,
   .afadd, .slacq, .sltry, .slrel, .slbind, .slunb, .fence, .bar, .bara, .gbar, .winit, .wexp, .warr, .wwait, .wtest, .wret, .carve,
   .malloc, .mfree, .mzero, .mloop, .mloops, .mwait, .mout, .mren, .mstat, .msadl, .mpass, .mbind, .mflag, .sdef, .sgath, .sscat,
   .sscadd, .smerge, .snz, .sstat, .dpush, .dpop, .dpeek, .dcfg, .drst, .cpyw, .cpyl, .rbegin, .rpres, .rpresm, .rend, .rfail, .rstat,
   .tspawn, .ttake, .tjoin, .tjwait, .qpush, .qpop, .launch, .bndset, .bndget, .perfr, .perfc, .errinj]

/-- The major that a name, in capitals, names. -/
def majOfName (n : String) : Option Maj := majList.find? fun m => majName m == n

/-- The type names (R43). -/
def typName : Typ → String
  | .b32 => "B32" | .s32 => "S32" | .n32 => "N32" | .s64 => "S64" | .n64 => "N64" | .s16 => "S16" | .n16 => "N16" | .s8 => "S8"
  | .n8 => "N8" | .f32 => "F32" | .f16 => "F16" | .bf16 => "BF16" | .e4m3 => "E4M3" | .e5m2 => "E5M2" | .mx4 => "MX4" | .ds8 => "DS8"
/-- Every type, in code order. -/
def typList : List Typ := (List.range 16).map Typ.ofCode
/-- The type that a name names. -/
def typOfName (n : String) : Option Typ := typList.find? fun t => typName t == n

/-- The register of a word: a letter and a number (R56); the number is not yet checked. -/
def regWord (s : List Char) : Option (Char × Nat) :=
  match s.map Char.toLower with
  | c :: d :: ds => if (c == 'g' || c == 'p' || c == 'k' || c == 'm' || c == 's' || c == 'f') && (d :: ds).all Char.isDigit then
      some (c, decNat (d :: ds)) else none
  | _ => none
/-- The operand of a register word whose number exists. -/
def regOpnd (s : List Char) : Option Opnd := match regWord s with
  | some (c, n) =>
    if c == 'g' then (if h : n < 256 then some (.g ⟨n, h⟩) else none)
    else if c == 'p' then (if h : n < 16 then some (.p ⟨n, h⟩) else none)
    else if c == 'k' then (if h : n < 48 then some (.k ⟨n, h⟩) else none)
    else if c == 'm' then (if h : n < 16 then some (.m ⟨n, h⟩) else none)
    else if c == 's' then (if h : n < 16 then some (.s ⟨n, h⟩) else none)
    else if h : n < 32 then some (.f ⟨n, h⟩) else none
  | none => if upper s == "Z" then some .z else none

/-- A reserved word (R52). (log 43, DEDUCED) -/
def isReserved (s : List Char) : Bool :=
  (regWord s).isSome || (let u := upper s; u == "Z" || u == "LO" || u == "HI" || u == "KIDX" || u == "ILLEGAL" || (majOfName u).isSome)

/-- A name that may be a symbol's. -/
def symName (s : List Char) : Except AsmErr String :=
  match s with
  | c :: cs => if !isStart c || !cs.all isWordChar then .error .form
      else if 255 < s.length then .error .tooLong else if isReserved s then .error .reserved else .ok (String.ofList s)
  | [] => .error .form

/-! ### Tokens -/

/-- A token of operands and arguments. -/
inductive Tok where
  | word (s : List Char)
  /-- an integer literal; `plain` says that it is decimal -/
  | int (v : Nat) (plain : Bool)
  /-- a floating literal: digits and a power of ten -/
  | flt (m : Nat) (e : Int)
  | op (s : String)
  | text (s : List Char)
  deriving DecidableEq, Repr, Inhabited

/-- Digits and the underscores that separate them. -/
def isDigits (c : Char) : Bool := c.isDigit || c == '_'
/-- Without underscores. -/
def noUnder (s : List Char) : List Char := s.filter (· != '_')

/-- The exponent that follows digits, and the rest. -/
def lexExp (s : List Char) : Option (Int × List Char) :=
  match s with
  | e :: r =>
    if e == 'e' || e == 'E' then
      let (neg, d) := match r with | '-' :: t => (true, t) | '+' :: t => (false, t) | t => (false, t)
      let ds := d.takeWhile Char.isDigit
      if ds.isEmpty then none else some (if neg then -(decNat ds : Int) else decNat ds, d.dropWhile Char.isDigit)
    else none
  | [] => none

/-- A number at the start of a text (R57, R62). (log 58, DESIGN CHOICE) -/
def lexNum (s : List Char) : Option (Tok × List Char) :=
  let based (b : Nat) (r : List Char) : Option (Tok × List Char) :=
    let ds := r.takeWhile fun c => decide (digitOf c < b) || c == '_'
    if (noUnder ds).isEmpty then none else some (.int ((noUnder ds).foldl (fun n c => n * b + digitOf c) 0) false, r.drop ds.length)
  let out := match s with
    | '0' :: 'x' :: r => based 16 r
    | '0' :: 'X' :: r => based 16 r
    | '0' :: 'b' :: r => based 2 r
    | '0' :: 'B' :: r => based 2 r
    | _ =>
      let a := s.takeWhile isDigits
      let r := s.dropWhile isDigits
      let (frac, point, r) := match r with
        | '.' :: t => (t.takeWhile isDigits, true, t.dropWhile isDigits)
        | t => ([], false, t)
      let ds := noUnder (a ++ frac)
      let shift : Int := (noUnder frac).length
      match lexExp r with
      | some (e, r) => some (.flt (decNat ds) (e - shift), r)
      | none => if point then some (.flt (decNat ds) (-shift), r) else some (.int (decNat ds) true, r)
  match out with
  | some (t, c :: r) => if isWordChar c then none else some (t, c :: r)
  | o => o

/-- The tokens of a text; `fuel` bounds their number. A number begins with a digit, so `.5` is none. (log 58, DESIGN CHOICE) -/
def lexAll : Nat → List Char → Except AsmErr (List Tok)
  | 0, _ => .ok []
  | fuel + 1, s =>
    match s.dropWhile isBlank with
    | [] => .ok []
    | c :: r =>
      let s := c :: r
      if isStart c then do
        let w := s.takeWhile isWordChar
        if 255 < w.length then .error .tooLong
        else return .word w :: (← lexAll fuel (s.dropWhile isWordChar))
      else if c.isDigit then match lexNum s with
        | some (t, rest) => do return t :: (← lexAll fuel rest)
        | none => .error .expression
      else if c == '"' then do return .text (r.takeWhile (· != '"')) :: (← lexAll fuel ((r.dropWhile (· != '"')).drop 1))
      else
        let two := String.ofList (s.take 2)
        if two == "&&" || two == "||" || two == "==" || two == "!=" || two == "<=" || two == ">=" || two == "<<" || two == ">>" then do
          return .op two :: (← lexAll fuel (s.drop 2))
        else if ['(', ')', '[', ']', ',', ':', '+', '-', '*', '/', '%', '&', '^', '|', '<', '>', '!', '~', '=', '$'].contains c then do return .op (String.ofList [c]) :: (← lexAll fuel r)
        else .error .form

/-- The tokens of a text. -/
def lex (s : List Char) : Except AsmErr (List Tok) := lexAll (s.length + 1) s

/-- Tokens cut at commas; no tokens are no arguments. -/
def commas (ts : List Tok) : List (List Tok) :=
  let rec go : List Tok → List (List Tok)
    | [] => [[]]
    | t :: r => if t = .op "," then [] :: go r else match go r with
        | x :: xs => (t :: x) :: xs
        | [] => [[t]]
  if ts.isEmpty then [] else go ts

/-! ### Expressions (R62) -/

/-- Operators of one operand. -/
inductive UnOp where
  | neg | not | isZero
  deriving DecidableEq, Repr, Inhabited

/-- Operators of two operands. -/
inductive BinOp where
  | mul | div | rem | add | sub | shl | shr | and | xor | or | eq | ne | lt | le | gt | ge | land | lor
  deriving DecidableEq, Repr, Inhabited

/-- An expression. -/
inductive Exp where
  | int (v : Nat) (plain : Bool)
  | sym (n : List Char)
  | here
  | group (e : Exp)
  | lo (e : Exp)
  | hi (e : Exp)
  | kidx (n : List Char)
  | un (o : UnOp) (e : Exp)
  | bin (o : BinOp) (a b : Exp)
  deriving DecidableEq, Repr, Inhabited

/-- The operator of a level, 1 the tightest of the two-operand levels, that a token is. -/
def binAt (level : Nat) (t : Tok) : Option BinOp :=
  match t with
  | .op s => match level with
    | 1 => if s == "*" then some .mul else if s == "/" then some .div else if s == "%" then some .rem else none
    | 2 => if s == "+" then some .add else if s == "-" then some .sub else none
    | 3 => if s == "<<" then some .shl else if s == ">>" then some .shr else none
    | 4 => if s == "&" then some .and else none
    | 5 => if s == "^" then some .xor else none
    | 6 => if s == "|" then some .or else none
    | 7 => if s == "==" then some .eq else if s == "!=" then some .ne else if s == "<" then some .lt else if s == "<=" then some .le
      else if s == ">" then some .gt else if s == ">=" then some .ge else none
    | 8 => if s == "&&" then some .land else none
    | 9 => if s == "||" then some .lor else none
    | _ => none
  | _ => none

/-- Read an expression of a level (9 the loosest, 0 the unary and primary forms): `left` is what stands to the left at that level
already. The rest of the tokens is answered with it. -/
def readExp : Nat → Nat → Option Exp → List Tok → Option (Exp × List Tok)
  | 0, _, _, _ => none
  | fuel + 1, 0, _, ts =>
    match ts with
    | .int v p :: r => some (.int v p, r)
    | .op "-" :: r => (readExp fuel 0 none r).map fun x => (.un .neg x.1, x.2)
    | .op "~" :: r => (readExp fuel 0 none r).map fun x => (.un .not x.1, x.2)
    | .op "!" :: r => (readExp fuel 0 none r).map fun x => (.un .isZero x.1, x.2)
    | .op "$" :: r => some (.here, r)
    | .op "(" :: r => match readExp fuel 9 none r with
      | some (e, .op ")" :: r) => some (.group e, r)
      | _ => none
    | .word w :: r =>
      let u := upper w
      if u == "LO" || u == "HI" then match r with
        | .op "(" :: r => match readExp fuel 9 none r with
          | some (e, .op ")" :: r) => some (if u == "LO" then .lo e else .hi e, r)
          | _ => none
        | _ => none
      else if u == "KIDX" then match r with
        | .op "(" :: .word n :: .op ")" :: r => some (.kidx n, r)
        | _ => none
      else if isReserved w then none
      else some (.sym w, r)
    | _ => none
  | fuel + 1, level + 1, none, ts =>
    match readExp fuel level none ts with
    | some (a, r) => readExp fuel (level + 1) (some a) r
    | none => none
  | fuel + 1, level + 1, some a, ts =>
    match ts with
    | t :: r => match binAt (level + 1) t with
      | some o => match readExp fuel level none r with
        | some (b, r) => readExp fuel (level + 1) (some (.bin o a b)) r
        | none => none
      | none => some (a, t :: r)
    | [] => some (a, [])

/-- The expression at the start of tokens, and the rest. -/
def expOf (ts : List Tok) : Option (Exp × List Tok) := readExp (24 * (ts.length + 1)) 9 none ts
/-- The expression that all of the tokens are. -/
def wholeExp (ts : List Tok) : Except AsmErr Exp := match expOf ts with
  | some (e, []) => .ok e
  | _ => .error .expression

/-! ### Values (R62, R63) -/

/-- Which 32 bits of a relocatable value: all of it, the low or the high half. -/
inductive RelPart where
  | whole | lo | hi
  deriving DecidableEq, Repr, Inhabited

/-- What a relocatable value is relative to. -/
inductive Base where
  | sec (i : Nat)
  | ext (n : String)
  deriving DecidableEq, Repr, Inhabited

/-- A value: absolute; relocatable, with an addend; or the index of a kernel, with an addend. -/
inductive Val where
  | abs (v : Int)
  | rel (b : Base) (p : RelPart) (a : Int)
  | kidx (n : String) (a : Int)
  deriving DecidableEq, Repr, Inhabited

/-- A number in 64 bits of two's complement. -/
def wrap64 (v : Int) : Int := signed 64 (v % 2 ^ 64).toNat

/-- 1 for true. -/
def truth01 (b : Bool) : Int := if b then 1 else 0

/-- An operator on absolute values. -/
def BinOp.eval (o : BinOp) (a b : Int) : Except AsmErr Int :=
  let bitsOp (f : Nat → Nat → Nat) : Int := wrap64 (f (a % 2 ^ 64).toNat (b % 2 ^ 64).toNat)
  match o with
  | .mul => .ok (wrap64 (a * b))
  | .div => if b = 0 then .error .expression else .ok (wrap64 (a.tdiv b))
  | .rem => if b = 0 then .error .expression else .ok (wrap64 (a.tmod b))
  | .add => .ok (wrap64 (a + b))
  | .sub => .ok (wrap64 (a - b))
  | .shl => if b < 0 ∨ 63 < b then .error .expression else .ok (wrap64 (a * 2 ^ b.toNat))
  | .shr => if b < 0 ∨ 63 < b then .error .expression else .ok (a / 2 ^ b.toNat)
  | .and => .ok (bitsOp Nat.land)
  | .xor => .ok (bitsOp Nat.xor)
  | .or => .ok (bitsOp Nat.lor)
  | .eq => .ok (truth01 (a == b))
  | .ne => .ok (truth01 (a != b))
  | .lt => .ok (truth01 (a < b))
  | .le => .ok (truth01 (a ≤ b))
  | .gt => .ok (truth01 (a > b))
  | .ge => .ok (truth01 (a ≥ b))
  | .land => .ok (truth01 (a != 0 && b != 0))
  | .lor => .ok (truth01 (a != 0 || b != 0))

/-- What an absolute value adds to the addend of a relocatable one: in the high half, 1 stands for 2^32. -/
def RelPart.unit (p : RelPart) : Int := match p with | .hi => 2 ^ 32 | _ => 1

/-- An operator on values (R63). (log 43, DEDUCED; log 58, DESIGN CHOICE) -/
def BinOp.apply (o : BinOp) (x y : Val) : Except AsmErr Val :=
  match x, y with
  | .abs a, .abs b => (o.eval a b).map .abs
  | .rel b p a, .abs v => if o = .add then .ok (.rel b p (wrap64 (a + v * p.unit))) else if o = .sub then .ok (.rel b p (wrap64 (a - v * p.unit)))
      else .error .relocatable
  | .abs v, .rel b p a => if o = .add then .ok (.rel b p (wrap64 (a + v * p.unit))) else .error .relocatable
  | .rel (.sec i) .whole a, .rel (.sec j) .whole b => if o = .sub ∧ i = j then .ok (.abs (wrap64 (a - b))) else .error .relocatable
  | .kidx n a, .abs v => if o = .add then .ok (.kidx n (wrap64 (a + v))) else if o = .sub then .ok (.kidx n (wrap64 (a - v)))
      else .error .relocatable
  | .abs v, .kidx n a => if o = .add then .ok (.kidx n (wrap64 (a + v))) else .error .relocatable
  | _, _ => .error .relocatable

/-- The value of an expression, given those of its symbols, of kernels' indices, and of `$`.
(log 43, DEDUCED; log 58, DESIGN CHOICE) -/
def Exp.eval (look : List Char → Except AsmErr Val) (kern : List Char → Except AsmErr Val) (dollar : Option Val) : Exp → Except AsmErr Val
  | .int v _ => .ok (.abs (wrap64 v))
  | .sym n => look n
  | .here => match dollar with | some v => .ok v | none => .error .place
  | .group e => e.eval look kern dollar
  | .lo e => do match ← e.eval look kern dollar with
      | .abs v => return .abs (v % 2 ^ 32)
      | .rel b .whole a => return .rel b .lo a
      | v => return v
  | .hi e => do match ← e.eval look kern dollar with
      | .abs v => return .abs (v / 2 ^ 32 % 2 ^ 32)
      | .rel b .whole a => return .rel b .hi a
      | _ => .error .relocatable
  | .kidx n => kern n
  | .un o e => do match ← e.eval look kern dollar with
      | .abs v => return .abs (match o with | .neg => wrap64 (-v) | .not => -v - 1 | .isZero => truth01 (v == 0))
      | _ => .error .relocatable
  | .bin o a b => do o.apply (← a.eval look kern dollar) (← b.eval look kern dollar)

/-! ### Floating literals (R57) -/

/-- A floating literal. -/
inductive Flt where
  | fin (neg : Bool) (m : Nat) (e : Int)
  | inf (neg : Bool)
  | nan
  deriving DecidableEq, Repr, Inhabited

/-- The floating literal that tokens are. -/
def fltOf (ts : List Tok) : Option Flt :=
  match ts with
  | [.flt m e] => some (.fin false m e)
  | [.op "-", .flt m e] => some (.fin true m e)
  | [.word w] => if upper w == "INF" then some (.inf false) else if upper w == "NAN" then some .nan else none
  | [.op "-", .word w] => if upper w == "INF" then some (.inf true) else none
  | _ => none

/-- A floating literal rounded to a form, to nearest, ties to even; a magnitude beyond the largest finite value is an error. -/
def Flt.bits (f : FForm) : Flt → Except AsmErr Nat
  | .nan => .ok f.canon
  | .inf neg => if f.inf then .ok (f.infinity neg) else .error .range
  | .fin neg m e =>
    if m = 0 then .ok (f.sign neg)
    else
      let d := 10 ^ (-e).toNat
      let s := if e ≥ 0 then 0 else f.man + 8 + Nat.log2 d
      let n := m * 10 ^ e.toNat * 2 ^ s
      let (k, q) := f.roundMag 0 neg (n / d) (-(s : Int)) (n % d != 0)
      if q > f.qmax ∨ (q = f.qmax ∧ k > f.kmax) then .error .range else .ok (f.pack neg k q)

/-- A decimal integer, alone or after a minus, which a floating operand does not take. -/
def Exp.isPlain : Exp → Bool
  | .int _ p => p
  | .un .neg (.int _ p) => p
  | _ => false

end Sys2Proof.Machine
end

