-- ==== Sys2Proof/Machine/Forms.lean ====
section
/-! DEFINITION. Machine/Forms.lean: instruction lines of the assembly language (R53 to R61): the MIN names and the assembly form of each
entry, and the word that a line becomes. -/

namespace Sys2Proof.Machine

open Sys2Proof

/-! ### Mnemonics (R53) -/

/-- The position of a name in a list. -/
def nameIn (l : List String) (n : String) : Option Nat := (l.zipIdx.find? fun x => x.1 == n).map (·.2)
/-- A name's number by a list of names and numbers. -/
def nameAs (l : List (String × Nat)) (n : String) : Option Nat := (l.find? fun x => x.1 == n).map (·.2)

/-- The set R (R148). -/
def namesR : List String := ["RNE", "RTZ", "RDN", "RUP"]
/-- The names of the rounding modes behind a type's name (R160). -/
def cvtName (n : String) : Option Nat :=
  typList.findSome? fun t => (namesR.zipIdx.find? fun m => typName t ++ m.1 == n).map fun m => 4 * t.code + m.2

/-- The number of a name of LO or HI, for any bound register or none (R244). -/
def steName (n : String) : Option Nat :=
  if n == "LO" then some 0 else if n == "HI" then some 1
  else (List.range 16).findSome? fun b => if n == "B" ++ toString b ++ "LO" then some (32 + 2 * b)
    else if n == "B" ++ toString b ++ "HI" then some (33 + 2 * b) else none

/-- The MIN value that a name, in capitals, has in an entry. -/
def minName (m : Maj) (n : String) : Option Nat :=
  match m with
  | .iadd | .isub | .iabs | .ineg | .iaddmin | .iaddmax => nameIn ["WRAP", "SAT"] n
  | .iadd3 => nameIn ["WRAP"] n
  | .imul => nameIn ["WRAP", "SAT", "WIDE"] n
  | .imad => nameIn ["WRAP", "WIDE"] n
  | .idiv | .irem => nameIn ["TRUNC"] n
  | .lea => nameIn ["SH0", "SH1", "SH2", "SH3", "SH4", "SH5", "SH6", "SH7"] n
  | .shl | .shr | .sar => nameIn ["CLAMP", "MOD"] n
  | .icmp => nameIn ["EQ", "NE", "LT", "LE", "GT", "GE"] n
  | .pset => nameIn ["AND", "OR", "XOR", "ANDN", "ORN", "NAND", "NOR", "XNOR"] n
  | .pmov => nameIn ["PACK", "UNPACK"] n
  | .iext => nameIn ["W32", "W64"] n
  | .fadd | .fsub | .fmul | .ffma | .faddmin | .frnd | .fscale | .fsqrt | .hadd2 | .hmul2 | .hfma2 | .cvtp | .mout => nameIn namesR n
  | .fmin | .fmax | .hmin2 | .hmax2 => nameIn ["NUM", "PROP"] n
  | .fcmp => nameIn ["EQ", "NE", "LT", "LE", "GT", "GE", "UNO", "ORD"] n
  | .frcp | .frsq | .fex2 | .flg2 | .fsin | .fcos | .ftanh | .fsigm => nameIn ["RNE"] n
  | .fdot4 => nameIn ["RNE", "RTZ", "RDN", "RUP", "XRNE", "XRTZ", "XRDN", "XRUP"] n
  | .cvt => cvtName n
  | .cvt8 => nameIn ["LRNE", "LRTZ", "LRDN", "LRUP", "HRNE", "HRTZ", "HRDN", "HRUP"] n
  | .unpk => nameIn ["E0", "E1", "E2", "E3", "E4", "E5", "E6", "E7"] n
  | .mxq | .dsq => nameAs [("SCALE", 0), ("ERNE", 4), ("ERTZ", 5), ("ERDN", 6), ("ERUP", 7)] n
  | .lshf => nameIn ["IDX", "UP", "DOWN", "XOR"] n
  | .lbcst => nameIn ["FIRST", "IDX"] n
  | .lvote => nameIn ["ALL", "ANY", "UNI"] n
  | .lscan => nameIn ["ADDI", "ADDX", "MINI", "MINX", "MAXI", "MAXX"] n
  | .lred => nameIn ["ADD", "MIN", "MAX", "AND", "OR", "XOR"] n
  | .lcnt => nameIn ["ALL", "PRE"] n
  | .ld => nameAs [("CA", 0), ("CG", 1), ("CAQ", 4), ("CGQ", 5)] n
  | .st => nameAs [("WB", 0), ("CG", 1), ("WBQ", 4), ("CGQ", 5)] n
  | .lde => nameIn ["LO", "HI"] n
  | .ste => steName n
  | .pref => nameIn ["L1", "L2"] n
  | .cctl => nameIn ["IINV", "IINVA", "WB", "INV", "DEMOTE"] n
  | .atom => match nameIn ["ADD", "MIN", "MAX", "AND", "OR", "XOR", "XCHG", "INCW", "DECW"] n with
    | some i => some i
    | none => (nameIn ["ADDNR", "MINNR", "MAXNR", "ANDNR", "ORNR", "XORNR", "XCHGNR", "INCWNR", "DECWNR"] n).map (32 + ·)
  | .acas | .afadd => nameAs [("NR", 32)] n
  | .slacq | .sltry => nameIn ["X", "S"] n
  | .fence => nameIn ["LANE", "CREW", "WG", "GANG", "DEV", "DOM", "SYS"] n
  | .wtest => nameIn ["GEN", "IMAGE"] n
  | .carve => nameIn ["CACHE", "SCRATCH", "DITCH"] n
  | .mloops => nameIn ["S24", "S14"] n
  | .mren => nameIn ["UP"] n
  | .mstat => nameIn ["ROW", "EVT", "PROG", "RES", "MANT"] n
  | .mbind => nameIn ["BIND", "UNB"] n
  | .mflag => nameIn ["IDLE", "STOP"] n
  | .sgath => nameIn ["RAW", "DEC"] n
  | .sscat => nameIn ["RAW"] n
  | .sscadd => nameIn ["ADD"] n
  | .smerge => nameIn ["KEEPZ", "DROPZ"] n
  | .snz => nameIn ["DITCH", "BUF"] n
  | .sstat => nameIn ["HELD", "ROOM", "PUSHED", "POPPED", "STATE"] n
  | .dpush | .dpop | .dpeek => nameIn ["W4", "W8", "W16", "W32", "W64"] n
  | .dcfg => nameIn ["SET", "REL"] n
  | .rpres => nameIn ["GMASK", "PMASK", "RANGE"] n
  | .rstat => nameIn ["DEPTH", "TRIES", "LIMIT", "UNDO", "LAST", "LABEL"] n
  | .bndset => nameIn ["FLAG", "CLAMP", "TRAP"] n
  | .bndget => nameIn ["LIMITS", "MODE"] n
  | .errinj => nameIn ["SIGNAL", "MANT", "GPAR"] n
  | .tspawn | .ttake | .qpush | .qpop => nameIn ["WAIT", "TRY"] n
  | .imulh | .imin | .imax | .isad | .and | .or | .xor | .andn | .not | .rol | .fshl | .bfx | .bfi | .popc | .clz | .ctz | .brev
  | .prmt | .isel | .mov | .csrr | .csrw | .kmov | .fabs | .fneg | .fsel | .fclass | .mxdq | .dsdq | .lxch | .lball | .lmatch | .lrdv
  | .bra | .brx | .call | .callx | .ret | .exit | .nop | .yield | .sleep | .bpt | .tfence | .trap | .tret | .slrel | .slbind | .slunb
  | .bar | .bara | .gbar | .winit | .wexp | .warr | .wwait | .wret | .malloc | .mfree | .mzero | .mloop | .mwait | .msadl | .mpass
  | .sdef | .drst | .cpyw | .cpyl | .rbegin | .rpresm | .rend | .rfail | .tjoin | .tjwait | .launch | .perfr | .perfc => none

/-- The parts of a mnemonic after the MAJ name: MIN and TYP, each set at most once; a MIN name is looked for first. -/
def readParts (m : Maj) : List String → Option Nat → Option Typ → Except AsmErr (Nat × Typ)
  | [], mn, t => .ok (mn.getD 0, t.getD .b32)
  | n :: r, mn, t => match minName m n with
    | some v => if mn.isSome then .error .mnemonic else readParts m r (some v) t
    | none => match typOfName n with
      | some v => if t.isSome then .error .mnemonic else readParts m r mn (some v)
      | none => .error .mnemonic

/-- The major, MIN and TYP of a mnemonic. -/
def mnemonic (s : List Char) : Except AsmErr (Maj × Nat × Typ) :=
  match splitOn '.' s with
  | n :: parts => match majOfName (upper n) with
    | some m => if 2 < parts.length then .error .mnemonic else (readParts m (parts.map upper) none none).map fun x => (m, x)
    | none => .error .mnemonic
  | [] => .error .mnemonic

/-! ### Assembly forms (R55, and the entry of each major) -/

/-- A place of an assembly form. -/
inductive Slot where
  | x | y | z
  /-- the third source of format Q -/
  | c
  /-- FZ, in brackets in the form -/
  | zOpt
  | mem
  | target
  | csr
  /-- a value that fills bits of LIT: its low bit and its width -/
  | imm (lo width : Nat)
  /-- `key=value`: the same, with a name; `need` is false in brackets -/
  | key (name : String) (lo width : Nat) (need : Bool)
  deriving DecidableEq, Repr, Inhabited

/-- `tag=` of a collective. -/
def tagKey : Slot := .key "TAG" 20 12 true

/-- The assembly form of an entry. (log 43, DEDUCED) -/
def formOfMaj (m : Maj) (mn : Nat) : List Slot :=
  match m with
  | .iabs | .ineg | .not | .popc | .clz | .ctz | .brev | .mov | .iext | .kmov | .fabs | .fneg | .frnd | .frcp | .frsq | .fsqrt | .fex2
  | .flg2 | .fsin | .fcos | .ftanh | .fsigm | .cvt | .unpk => [.x, .y]
  | .iadd | .isub | .imul | .imulh | .idiv | .irem | .imin | .imax | .and | .or | .xor | .andn | .shl | .shr | .sar | .rol | .icmp
  | .pset | .fadd | .fsub | .fmul | .fmin | .fmax | .fcmp | .fscale | .hadd2 | .hmul2 | .hmin2 | .hmax2 | .cvtp | .cvt8 | .mxdq
  | .dsdq => [.x, .y, .z]
  | .iadd3 | .imad | .iaddmin | .iaddmax | .isad | .lea | .fshl | .bfx | .bfi | .prmt | .isel | .ffma | .faddmin | .fsel | .hfma2
  | .fdot4 => [.x, .y, .z, .c]
  | .mxq | .dsq => if mn = 0 then [.x, .y] else [.x, .y, .z]
  | .fclass => [.x, .y, .zOpt]
  | .pmov => if mn = 0 then [.x] else [.y, .z]
  | .csrr => [.x, .csr]
  | .csrw => [.csr, .y]
  | .lshf => if mn = 0 then [.x, .y, .z, tagKey, .key "DELTA" 0 6 false] else [.x, .y, tagKey, .key "DELTA" 0 6 true]
  | .lxch => [.x, .y, .z, tagKey]
  | .lbcst => [.x, .y, tagKey, .key "SRC" 0 6 (mn == 1)]
  | .lvote | .lball | .lscan | .lred | .lmatch | .lcnt => [.x, .y, tagKey]
  | .lrdv => [.x, tagKey]
  | .bra => [.target]
  | .brx | .ret => [.y]
  | .call => [.x, .target]
  | .callx => [.x, .y]
  | .exit | .nop | .yield | .tfence | .tret | .fence | .rend | .msadl | .mpass => []
  | .sleep => [.imm 0 32]
  | .bpt | .trap | .rfail => [.imm 0 16]
  | .bar | .bara => [.imm 0 4]
  | .gbar => [.imm 0 2]
  | .ld | .lde | .atom | .acas | .afadd | .sltry | .wtest => [.x, .mem]
  | .st | .ste | .winit | .wexp | .wwait => [.mem, .x]
  | .pref | .slacq | .slrel | .warr | .wret => [.mem]
  | .cctl => if mn = 1 then [] else [.mem]
  | .slbind => [.x, .y, .z]
  | .slunb => [.y]
  | .carve => [.x, .y]
  | .malloc | .mflag => [.x, .y]
  | .mfree | .mzero | .mwait | .mren | .mbind => [.x]
  | .mloop | .mloops => [.x, .y, .z, .key "KS" 0 12 true]
  | .mout => [.x, .y, .z, .key "ROW" 0 5 true, .key "N" 5 6 true, .key "BND" 11 4 true, .key "BE" 15 1 true]
  | .mstat => [.x, .y] ++ (if mn = 0 ∨ mn = 3 ∨ mn = 4 then [.key "ROW" 0 5 true] else []) ++ (if mn = 4 then [.key "COL" 5 5 true] else [])
  | .sdef => [.x, .y]
  | .sgath | .sscat | .sscadd => [.x, .y, .z, .key "ARR" 31 1 false, .key "AOFF" 0 22 false]
  | .smerge => [.x, .y, .z, .key "OP" 6 3 true, .key "OSEL" 5 1 true, .key "OPORT" 0 5 false]
  | .snz => [.x, .y, .z, .key "PORT" 0 5 false]
  | .sstat | .dpush => [.x, .y]
  | .dpop => [.x, .y, .zOpt, .key "TRY" 0 1 false]
  | .dpeek => [.x, .y, .z, .key "K" 0 16 true]
  | .dcfg => if mn = 0 then [.x, .key "LGN" 0 5 true, .key "ESZ" 5 3 true] else [.x]
  | .drst => [.x]
  | .cpyw => [.x, .y, .key "ARR" 31 1 false, .key "WE" 30 1 false, .key "WOFF" 0 22 false]
  | .cpyl => [.x, .y, .z, .key "ARR" 31 1 false, .key "WE" 30 1 false, .key "WOFF" 0 22 false]
  | .rbegin => [.y, .target]
  | .rpres => if mn = 0 then [.y, .key "MASK" 0 32 true] else if mn = 1 then [.key "MASK" 0 16 true] else [.y, .z]
  | .rpresm => [.y, .z]
  | .rstat => [.x, .key "LVL" 0 3 false]
  | .bndset => [.y, .key "BND" 0 4 true]
  | .bndget => [.x, .key "BND" 0 4 true]
  | .errinj => if mn = 0 then [.imm 0 16] else if mn = 1 then [.x, .z, .key "BIT" 0 6 true] else [.x]
  | .tspawn => [.x, .y]
  | .ttake => [.x, .zOpt]
  | .tjoin | .tjwait | .launch => [.y]
  | .qpush => [.x, .y, .z]
  | .qpop => [.x, .y, .zOpt]
  | .perfr => [.x, .y, .imm 0 16]
  | .perfc => [.y, .imm 0 16]

/-! ### Operands (R56 to R59) -/

/-- What a line is assembled with: the value of an expression where it stands, the ditch names of its kernel (R70), and which sections
hold code. -/
structure Scope where
  value : Exp → Except AsmErr Val
  ditch : List Char → Option Nat
  code : Nat → Bool

/-- Where the value of LIT comes from a symbol: the type of relocation, and what it is of. -/
structure LitRel where
  type : Nat
  of_ : Val
  deriving DecidableEq, Repr, Inhabited

/-- The special register of a name, in capitals (R117). -/
def sregOf (n : String) : Option SReg := (nameIn ["LANE", "SLOT", "CREW", "CMASK", "PELOTON", "CORE", "CLUSTER", "DIE", "WG", "GANG", "LAUNCH",
  "RELAUNCH", "KDI", "NLANE", "RDEPTH", "RTRY", "FLAGS", "FARM", "CYCLE", "CTX"] n).bind fun i => SReg.ofCode (0x140 + i)
/-- The code of a CSR's name (R120). -/
def csrOf (n : String) : Option Nat := nameAs [("STKBASE", 0x1000), ("UNDOSZ", 0x1001), ("TPC", 0x2000), ("TCAUSE", 0x2001), ("AGELIM", 0x3000),
  ("QUANTUM", 0x4000), ("CISTHW", 0x5000), ("BNDMASK", 0x6000), ("PREEMPT", 0x6001)] n
/-- A register operand, and whether it was written as a pair; none where the tokens are no register. -/
def regArg (sc : Scope) (ts : List Tok) : Except AsmErr (Option (Opnd × Bool)) :=
  let one (w : List Char) : Except AsmErr (Option Opnd) :=
    match regOpnd w with
    | some o => .ok (some o)
    | none => if (regWord w).isSome then .error .operands else match sc.ditch w with
      | some n => if h : n < 32 then .ok (some (.f ⟨n, h⟩)) else .error .operands
      | none => .ok none
  match ts with
  | [.word w] => (one w).map fun o => o.map fun o => (o, false)
  | [.op "%", .word w] => match sregOf (upper w) with
    | some r => .ok (some (.sr r, false))
    | none => .error .operands
  | [.word a, .op ":", .word b] =>
    match regOpnd a, regOpnd b with
    | some (.g m), some (.g n) => if m.val % 2 = 0 ∧ n.val = m.val + 1 then .ok (some (.g m, true)) else .error .operands
    | some (.k m), some (.k n) => if m.val % 2 = 0 ∧ n.val = m.val + 1 then .ok (some (.k m, true)) else .error .operands
    | _, _ => .error .operands
  | _ => .ok none

/-- How a literal of a role is encoded (R57). -/
inductive LitKind where
  | int32 | s64 | n64
  | narrow (n : Nat)
  | f32
  | half (bf : Bool)
  deriving DecidableEq, Repr, Inhabited

/-- The literal of an operand of a type. -/
def litOfTyp (t : Typ) : LitKind := match t with
  | .s64 => .s64 | .n64 => .n64 | .f32 => .f32 | .b32 | .s32 | .n32 => .int32
  | .mx4 => .narrow 4 | .s16 | .n16 | .f16 | .bf16 => .narrow 16 | .s8 | .n8 | .e4m3 | .e5m2 | .ds8 => .narrow 8

/-- The literal that FY of a T-format major holds. (log 43, DEDUCED) -/
def litY (m : Maj) (mn : Nat) (t : Typ) : LitKind := match m with
  | .hadd2 | .hmul2 | .hmin2 | .hmax2 => .half (t == .bf16)
  | .unpk => if t.isHalf then .half (t == .bf16) else .int32
  | .cvt => litOfTyp (Typ.ofCode (mn / 4))
  | .cvtp | .cvt8 | .mxq | .dsq => .f32
  | .mxdq => .narrow 4
  | .dsdq => .narrow 8
  | .pset | .pmov => .int32
  | _ => litOfTyp t
/-- The literal that FZ holds. (log 43, DEDUCED) -/
def litZ (m : Maj) (mn : Nat) (t : Typ) : LitKind := match m with
  | .shl | .shr | .sar | .rol | .fscale | .fclass => .int32
  | .mxq | .dsq | .mxdq | .dsdq => .narrow 8
  | _ => litY m mn t

/-- Relocation of a LIT for a value that is not absolute: the type for each half of it. -/
def litRel (whole : Nat) (v : Val) : Except AsmErr LitRel := match v with
  | .rel _ .whole _ => .ok ⟨whole, v⟩
  | .rel _ .lo _ => if whole = 9 then .error .relocatable else .ok ⟨7, v⟩
  | .rel _ .hi _ => if whole = 9 then .error .relocatable else .ok ⟨8, v⟩
  | .kidx _ _ => if whole = 9 then .error .relocatable else .ok ⟨11, v⟩
  | .abs _ => .error .relocatable

/-- Is a value inside bounds? -/
def between (lo hi v : Int) : Bool := decide (lo ≤ v) && decide (v ≤ hi)
/-- An integer in 32 bits of two's complement. -/
def low32 (v : Int) : Nat := (v % 2 ^ 32).toNat

/-- The literal that tokens are, for a role: the 32 bits of LIT, or where they come from. A relocatable value is none for an operand
narrower than 32 bits. (log 43, DEDUCED; log 58, DESIGN CHOICE) -/
def literal (sc : Scope) (k : LitKind) (ts : List Tok) : Except AsmErr (Nat × Option LitRel) :=
  let int (e : Exp) (lo hi : Int) : Except AsmErr (Nat × Option LitRel) := do match ← sc.value e with
    | .abs v => if between lo hi v then return (low32 v, none) else .error .range
    | v => return (0, some (← litRel 6 v))
  match fltOf ts, k with
  | some f, .f32 => (f.bits formF32).map fun b => (b, none)
  | some f, .half bf => (f.bits (if bf then formBF16 else formF16)).map fun b => (b * 65537, none)
  | _, _ => do
    let e ← wholeExp ts
    match k with
    | .int32 => int e (-2 ^ 31) (2 ^ 32 - 1)
    | .s64 => int e (-2 ^ 31) (2 ^ 31 - 1)
    | .n64 => int e 0 (2 ^ 32 - 1)
    | .narrow n => match ← sc.value e with
      | .abs v => if between (-2 ^ (n - 1)) (2 ^ n - 1) v then return (low32 v, none) else .error .range
      | _ => .error .relocatable
    | _ => if e.isPlain then .error .range else int e (-2 ^ 31) (2 ^ 32 - 1)

/-- The fields of a line that has been read so far; `pairs` lists the roles that were written as pairs. -/
structure Draft where
  fx : Nat
  fy : Nat
  fz : Nat
  /-- each literal operand, by its role (R58) -/
  lits : List (Nat × Option LitRel)
  lit : Nat
  rel : Option LitRel
  pairs : List Slot
  deriving DecidableEq, Repr, Inhabited

/-- Nothing read: every operand field z. -/
def Draft.start : Draft := { fx := 0x3FE, fy := 0x3FE, fz := 0x3FE, lits := [], lit := 0, rel := none, pairs := [] }

/-- An operand of a role of the word: a register, or the literal. -/
def putArg (sc : Scope) (m : Maj) (mn : Nat) (t : Typ) (slot : Slot) (ts : List Tok) (d : Draft) : Except AsmErr Draft := do
  let put (code : Nat) (d : Draft) : Draft := match slot with
    | .x => { d with fx := code } | .y => { d with fy := code } | .c => { d with lit := d.lit + code } | _ => { d with fz := code }
  match ← regArg sc ts with
  | some (o, pair) => return put o.code (if pair then { d with pairs := slot :: d.pairs } else d)
  | none =>
    -- a literal: T format sources only (R42)
    if m.fmt == .t && slot != .x then do
      let l ← literal sc (if slot = .y then litY m mn t else litZ m mn t) ts
      return put 0x3FF { d with lits := d.lits ++ [l] }
    else if (fltOf ts).isSome then return put 0x3FF d
    else do
      let _ ← wholeExp ts
      return put 0x3FF d

/-- The tokens up to a sign outside every parenthesis, and the rest from that sign on. -/
def splitSign : Nat → List Tok → List Tok × List Tok
  | _, [] => ([], [])
  | n, t :: r =>
    if n = 0 ∧ (t = .op "+" ∨ t = .op "-") then ([], t :: r)
    else
      let n := if t = .op "(" then n + 1 else if t = .op ")" then n - 1 else n
      let (a, b) := splitSign n r
      (t :: a, b)

/-- A memory operand (R59): base and index registers, and an offset. A minus before an offset is that of 0 less what stands behind it,
ungrouped, and the range is that of the result. (log 58, DESIGN CHOICE) -/
def memArg (sc : Scope) (ts : List Tok) (d : Draft) : Except AsmErr Draft :=
  let reg (slot : Slot) (ts : List Tok) (d : Draft) : Except AsmErr (Option Draft) := do match ← regArg sc ts with
    | some (o, pair) =>
      let d := if pair then { d with pairs := slot :: d.pairs } else d
      return some (if slot = .y then { d with fy := o.code } else { d with fz := o.code })
    | none => return none
  let off (ts : List Tok) (d : Draft) : Except AsmErr Draft := match ts with
    | [] => .ok d
    | _ => do
      let e ← wholeExp ts
      match ← sc.value e with
      | .abs v => if between (-2 ^ 31) (2 ^ 31 - 1) v then return { d with lit := low32 v } else .error .range
      | v => return { d with rel := some (← litRel 9 v) }
  -- an offset after a register: joined by + or -
  let joined (ts : List Tok) (d : Draft) : Except AsmErr Draft := match ts with
    | [] => .ok d
    | .op "+" :: r => if r.isEmpty then .error .operands else off r d
    | r => off (.int 0 true :: r) d
  match ts with
  | .op "[" :: r =>
    match r.reverse with
    | .op "]" :: q => do
      let inner := q.reverse
      if inner.isEmpty then .error .operands
      else
        let (a, rest) := splitSign 0 inner
        match ← reg .y a d with
        | none => off inner d
        | some d => match rest with
          | .op "+" :: r =>
            let (b, rest) := splitSign 0 r
            match ← reg .z b d with
            | some d => joined rest d
            | none => if r.isEmpty then .error .operands else off r d
          | _ => joined rest d
    | _ => .error .operands
  | _ => .error .operands

/-- The target of a direct transfer or a restart label (R60): `at_` is the section and the offset of the word. -/
def targetArg (sc : Scope) (at_ : Nat × Nat) (ts : List Tok) (d : Draft) : Except AsmErr Draft := do
  match ← sc.value (← wholeExp ts) with
  | .rel (.sec i) .whole a =>
    let off : Int := a - (at_.2 + 12)
    if !sc.code i then .error .target
    else if i ≠ at_.1 then return { d with rel := some ⟨10, .rel (.sec i) .whole a⟩ }
    else if off % 4 ≠ 0 ∨ !between (-2 ^ 31) (2 ^ 31 - 1) off then .error .target
    else return { d with lit := low32 off }
  | .rel (.ext n) .whole a => return { d with rel := some ⟨10, .rel (.ext n) .whole a⟩ }
  | _ => .error .target

/-- A value that fills bits of LIT: from 0 to the largest that they hold. A relocatable one fills all 32, or none. (log 58, DESIGN CHOICE) -/
def subField (sc : Scope) (lo width : Nat) (ts : List Tok) (d : Draft) : Except AsmErr Draft := do
  match ← sc.value (← wholeExp ts) with
  | .abs v => if between 0 (2 ^ width - 1) v then return { d with lit := d.lit + v.toNat * 2 ^ lo } else .error .range
  | v => if width = 32 then return { d with rel := some (← litRel 6 v) } else .error .relocatable

/-- Read the operands of a line by its form. (log 43, DEDUCED) -/
def readArgs (sc : Scope) (m : Maj) (mn : Nat) (t : Typ) (at_ : Nat × Nat) : List Slot → List (List Tok) → Draft → Except AsmErr Draft
  | [], [], d => .ok d
  | [], _ :: _, _ => .error .operands
  | slot :: slots, [], d => match slot with
    | .zOpt => readArgs sc m mn t at_ slots [] d
    | .key _ _ _ false => readArgs sc m mn t at_ slots [] d
    | _ => .error .operands
  | slot :: slots, a :: as, d =>
    let keyed := match a with
      | .word _ :: .op "=" :: _ => true
      | _ => false
    match slot with
    | .key n lo w need => match a with
      | .word k :: .op "=" :: v =>
        if upper k == n then do readArgs sc m mn t at_ slots as (← subField sc lo w v d)
        else if need then .error .operands else readArgs sc m mn t at_ slots (a :: as) d
      | _ => .error .operands
    | .zOpt => if keyed then readArgs sc m mn t at_ slots (a :: as) d else do readArgs sc m mn t at_ slots as (← putArg sc m mn t .z a d)
    | .mem => do readArgs sc m mn t at_ slots as (← memArg sc a d)
    | .target => do readArgs sc m mn t at_ slots as (← targetArg sc at_ a d)
    | .csr => match a with
      | [.word n] => match csrOf (upper n) with
        | some c => readArgs sc m mn t at_ slots as { d with lit := c }
        | none => .error .operands
      | _ => .error .operands
    | .imm lo w => do readArgs sc m mn t at_ slots as (← subField sc lo w a d)
    | slot => do readArgs sc m mn t at_ slots as (← putArg sc m mn t slot a d)

/-! ### Hints and guards (R61) -/

/-- The hints of a line. -/
structure Hints where
  w : Bool
  hy : Bool
  hz : Bool
  ch : Option Nat
  bp : Option Nat
  deriving DecidableEq, Repr, Inhabited

/-- No hints. -/
def Hints.start : Hints := { w := false, hy := false, hz := false, ch := none, bp := none }

/-- The number of a `bpN` hint's word. -/
def bpWord (s : List Char) : Option Nat := match s.map Char.toLower with
  | 'b' :: 'p' :: d :: ds => if (d :: ds).all Char.isDigit then some (decNat (d :: ds)) else none
  | _ => none
/-- Is a word the name of a hint? -/
def isHint (s : List Char) : Bool := (nameIn ["W", "HY", "HZ", "EF", "EL", "NA"] (upper s)).isSome || (bpWord s).isSome

/-- Add a hint; one given twice, and a second CH hint, is an error. -/
def Hints.add (h : Hints) (s : List Char) : Except AsmErr Hints :=
  match nameIn ["W", "HY", "HZ", "EF", "EL", "NA"] (upper s) with
  | some 0 => if h.w then .error .hint else .ok { h with w := true }
  | some 1 => if h.hy then .error .hint else .ok { h with hy := true }
  | some 2 => if h.hz then .error .hint else .ok { h with hz := true }
  | some n => if h.ch.isSome then .error .hint else .ok { h with ch := some (n - 2) }
  | none => match bpWord s with
    | some n => if h.bp.isSome ∨ 63 < n then .error .hint else .ok { h with bp := some n }
    | none => .error .hint

/-- May an operand end with a token? -/
def endsOperand : Tok → Bool
  | .op s => s == "]" || s == ")" || s == "$"
  | _ => true

/-- The hints at the end of a line's tokens, taken from the last one backwards: the tokens are given in reverse. (log 43, DEDUCED) -/
def takeHints : List Tok → Except AsmErr (List Tok × Hints)
  | .word h :: .op "~" :: r =>
    if isHint h && (match r with | [] => true | t :: _ => endsOperand t) then do
      let (left, hs) ← takeHints r
      return (left, ← hs.add h)
    else .ok (.word h :: .op "~" :: r, Hints.start)
  | ts => .ok (ts, Hints.start)

/-- The eleven bits of HNT. -/
def Hints.bits (h : Hints) (prio : Nat) : Nat :=
  bitNat' h.w * 1024 + bitNat' h.hy * 512 + bitNat' h.hz * 256 + h.ch.getD 0 * 64 + h.bp.getD prio
where
  bitNat' (b : Bool) : Nat := if b then 1 else 0

/-! ### A line's word (R54, R55) -/

/-- The check of R48 that a word fails, of orders 5 to 9, for a kernel with REGS `regs`. -/
def failingCheck (regs : Nat) (w : BitVec 96) : Option Nat :=
  let f := fieldsOf w
  match Maj.ofCode f.maj.toNat with
  | none => some 5
  | some m =>
    if !minTypOk m f.min.toNat (Typ.ofCode f.typ.toNat) then some 6
    else if !fixedValuesOk m f then some 7
    else match Opnd.ofCode f.fx.toNat, Opnd.ofCode f.fy.toNat, Opnd.ofCode f.fz.toNat with
      | some x, some y, some z =>
        if m.fmt == .q && f.third.isNone then some 8
        else if operandsOk m f regs x y z then none else some 9
      | _, _, _ => some 8

/-- Does a role take 64 bits (R31)? -/
def isPairRole (r : List Kind) : Bool := r.any fun k => k == .g 2 2 || k == .k 2

/-- The word of an instruction line and the relocation of its LIT. `guard` is the guard that is written, `prio` the BP of the kernel,
`regs` the REGS of the kernel, `at_` the section and offset of the word. -/
def lineWord (sc : Scope) (guard : Option (Bool × Nat)) (prio regs : Nat) (at_ : Nat × Nat) (head : List Char) (rest : List Tok) :
    Except AsmErr (BitVec 96 × Option LitRel) :=
  if upper head == "ILLEGAL" then
    if rest.isEmpty && guard.isNone then .ok (BitVec.ofNat 96 (0xFF * 2 ^ 88), none) else .error .operands
  else do
    let (m, mn, t) ← mnemonic head
    if !minTypOk m mn t then .error (.check 6)
    else if guard.isSome && m.unguarded then .error (.check 7)
    else
      let (left, hs) ← takeHints rest.reverse
      let d ← readArgs sc m mn t at_ (formOfMaj m mn) (commas left.reverse) Draft.start
      let (lit, rel) ← (match d.lits with
        | [] => .ok (d.lit, d.rel)
        | [a] => .ok a
        | a :: b :: _ => if a = b then .ok a else .error .literals : Except AsmErr (Nat × Option LitRel))
      let grd := match guard with | some (neg, n) => (if neg then 16 else 0) + n | none => 0
      let f : Fields :=
        { maj := BitVec.ofNat 8 m.code, min := BitVec.ofNat 6 mn, typ := BitVec.ofNat 4 t.code, fx := BitVec.ofNat 10 d.fx,
          fy := BitVec.ofNat 10 d.fy, fz := BitVec.ofNat 10 d.fz, lit := BitVec.ofNat 32 lit, grd := BitVec.ofNat 5 grd,
          hnt := BitVec.ofNat 11 (hs.bits prio) }
      let r := rolesOf m f
      let wide (s : Slot) : Bool := isPairRole (match s with | .x => r.fx | .y => r.fy | .c => r.third | _ => r.fz)
      if !d.pairs.all wide then .error .operands
      else match failingCheck regs (packFields f) with
        | some n => .error (.check n)
        | none => .ok (packFields f, rel)

end Sys2Proof.Machine
end

