-- ==== Sys2Proof/Machine/Assemble.lean ====
section
/-! DEFINITION. Machine/Assemble.lean: the assembler (R51, R54, R63 to R72): it reads lines of source text, once to place what stands in
them and once to encode it, and makes an object (R74 to R84). What the manual names by the directive that defines one is called a
template here. -/

namespace Sys2Proof.Machine

open Sys2Proof

/-! ### What the first reading keeps -/

/-- An expression, with the value of `$` where it stands. -/
structure Later where
  exp : Exp
  here : Option Val
  deriving DecidableEq, Repr, Inhabited

/-- What a symbol stands for (R64). -/
inductive SymDef where
  | label (sec off : Nat)
  | kernel (sec off idx : Nat)
  | equ (e : Later)
  | ext
  deriving DecidableEq, Repr, Inhabited

/-- A section being filled (R66, R68). -/
structure SecDraft where
  name : String
  kind : Nat
  page : Option (Typ × Option Later)
  home : Option Later
  align : Nat
  size : Nat
  deriving DecidableEq, Repr, Inhabited

/-- An engine resource of a kernel (R70). -/
inductive ResDraft where
  | ditch (name : List Char) (port entries size : Later)
  | weir (off : Nat) (expected : Later)
  deriving DecidableEq, Repr, Inhabited

/-- A kernel (R69): its directives of one number, and its resources. -/
structure KernelDraft where
  name : String
  sec : Nat
  off : Nat
  nums : List (String × Later)
  res : List ResDraft
  deriving DecidableEq, Repr, Inhabited

/-- What stands at a place of a section. -/
inductive SrcItem where
  | word (kernel : Option Nat) (prio : Later) (guard : Option (Bool × Nat)) (head : List Char) (rest : List Tok)
  | raw (bs : List Byte)
  | nums (width : Nat) (es : List Later)
  | fill (count width : Nat) (e : Later)
  | ds8 (es : List Later)
  deriving DecidableEq, Repr, Inhabited

/-- A template (R72). -/
structure Template where
  name : String
  params : List (List Char)
  body : List (List Char)
  deriving DecidableEq, Repr, Inhabited

/-- A conditional (R72): are its lines kept, and has `.else` been read? -/
structure Kept where
  on : Bool
  els : Bool
  deriving DecidableEq, Repr, Inhabited

/-- The first reading. Sections are numbered from 1; `cur` is 0 before the first. -/
structure Asm where
  secs : List SecDraft
  cur : Nat
  defs : List (String × SymDef)
  globals : List String
  locals : List String
  kernels : List KernelDraft
  inKernel : Bool
  prio : Later
  templates : List Template
  reading : Option Template
  conds : List Kept
  seq : Nat
  items : List (Nat × Nat × SrcItem)
  binds : List (Later × Later × Later)
  deriving DecidableEq, Repr, Inhabited

/-- BP 0. -/
def prioZero : Later := ⟨.int 0 true, none⟩

/-- Nothing read. -/
def Asm.start : Asm :=
  { secs := [], cur := 0, defs := [], globals := [], locals := [], kernels := [], inKernel := false, prio := prioZero, templates := [],
    reading := none, conds := [], seq := 0, items := [], binds := [] }

/-- What a name stands for. -/
def defOf (defs : List (String × SymDef)) (n : List Char) : Option SymDef := (defs.find? fun d => d.1 == String.ofList n).map (·.2)

/-- The value of an expression (R62, R63); `fuel` bounds a chain of `.equ` symbols. -/
def valueOf (defs : List (String × SymDef)) : Nat → Later → Except AsmErr Val
  | 0, _ => .error .undefined
  | fuel + 1, x => x.exp.eval
      (fun n => match defOf defs n with
        | some (.label s o) => .ok (.rel (.sec s) .whole o)
        | some (.kernel s o _) => .ok (.rel (.sec s) .whole o)
        | some (.equ y) => valueOf defs fuel y
        | some .ext => .ok (.rel (.ext (String.ofList n)) .whole 0)
        | none => .error .undefined)
      (fun n => match defOf defs n with
        | some (.kernel _ _ _) => .ok (.kidx (String.ofList n) 0)
        | some .ext => .ok (.kidx (String.ofList n) 0)
        | some _ => .error .expression
        | none => .error .undefined)
      x.here

/-- The value of an expression with the symbols that are defined. -/
def Asm.value (a : Asm) (x : Later) : Except AsmErr Val := valueOf a.defs (a.defs.length + 2) x
/-- An absolute value. -/
def Asm.abs (a : Asm) (x : Later) : Except AsmErr Int := do match ← a.value x with
  | .abs v => return v
  | _ => .error .relocatable
/-- An absolute value between two bounds. -/
def Asm.number (a : Asm) (lo hi : Int) (x : Later) : Except AsmErr Nat := do
  let v ← a.abs x
  if between lo hi v then return v.toNat else .error .argument

/-- The section that is open. -/
def Asm.sec (a : Asm) : Option SecDraft := if a.cur = 0 then none else a.secs[a.cur - 1]?
/-- Its kind. -/
def Asm.kind (a : Asm) : Option Nat := a.sec.map (·.kind)
/-- The offset of the current statement. -/
def Asm.off (a : Asm) : Nat := match a.sec with | some x => x.size | none => 0
/-- `$` (R62). -/
def Asm.here (a : Asm) : Option Val := a.sec.map fun x => .rel (.sec a.cur) .whole x.size
/-- The expression that tokens are, where it stands. -/
def Asm.later (a : Asm) (ts : List Tok) : Except AsmErr Later := (wholeExp ts).map fun e => ⟨e, a.here⟩
/-- The number that tokens are, with what is defined so far (R63). -/
def Asm.now (a : Asm) (lo hi : Int) (ts : List Tok) : Except AsmErr Nat := do a.number lo hi (← a.later ts)

/-- Change the open section. -/
def Asm.onSec (a : Asm) (f : SecDraft → SecDraft) : Asm := { a with secs := a.secs.modify (a.cur - 1) f }
/-- Put `n` bytes of an item where the open section ends. -/
def Asm.emit (a : Asm) (n : Nat) (it : SrcItem) : Asm :=
  { a with items := a.items ++ [(a.cur, a.off, it)] }.onSec fun x => { x with size := x.size + n }
/-- Define a symbol (R64). -/
def Asm.define (a : Asm) (n : String) (d : SymDef) : Except AsmErr Asm :=
  if a.defs.any (·.1 == n) then .error .redefined else .ok { a with defs := a.defs ++ [(n, d)] }
/-- The open kernel. -/
def Asm.kernel (a : Asm) : Option KernelDraft := if a.inKernel then a.kernels.getLast? else none
/-- Change the open kernel. -/
def Asm.onKernel (a : Asm) (f : KernelDraft → KernelDraft) : Asm := { a with kernels := a.kernels.modify (a.kernels.length - 1) f }
/-- Are lines kept? -/
def Asm.live (a : Asm) : Bool := a.conds.all (·.on)

/-! ### Directives (R65 to R71) -/

/-- One word. -/
def oneWord : List Tok → Except AsmErr (List Char)
  | [.word w] => .ok w
  | _ => .error .form

/-- The kinds of sections, by code (R76). -/
def secKind (n : String) : Option Nat := nameIn ["CODE", "DATA", "CONST", "ZERO"] n

/-- `.section`. -/
def dirSection (a : Asm) (args : List (List Tok)) : Except AsmErr Asm :=
  match args with
  | [n, k] => do
    let name ← symName (← oneWord n)
    match secKind (upper (← oneWord k)) with
    | none => .error .argument
    | some kind => match a.secs.zipIdx.find? fun x => x.1.name == name with
      | some (x, i) => if x.kind = kind then return { a with cur := i + 1 } else .error .redefined
      | none => return { a with
          secs := a.secs ++ [{ name := name, kind := kind, page := none, home := none, align := if kind = 0 then 64 else 128, size := 0 }],
          cur := a.secs.length + 1 }
  | _ => .error .form

/-- The bytes of an ILLEGAL word (R54). -/
def illegalBytes : List Byte := List.replicate 11 0 ++ [0xFF]

/-- `.align`. -/
def dirAlign (a : Asm) (args : List (List Tok)) : Except AsmErr Asm :=
  match a.sec, args with
  | none, _ => .error .place
  | some x, [e] => do
    let n ← a.now 4 65536 e
    if !pow2In 4 65536 n then .error .argument
    else
      let unit := if x.kind = 0 then Nat.lcm 12 n else n
      let gap := (unit - x.size % unit) % unit
      let a := a.onSec fun x => { x with align := max x.align n }
      if gap = 0 then return a
      else if x.kind = 3 then return a.onSec fun x => { x with size := x.size + gap }
      else if x.kind = 0 then return a.emit gap (.raw (List.replicate (gap / 12) illegalBytes).flatten)
      else return a.emit gap (.raw (List.replicate gap 0))
  | _, _ => .error .form

/-- The bits of a `.f32`, `.f16`, `.bf16` or `.e4m3` argument. (log 44, DEDUCED) -/
def floatArg (f : FForm) (width : Nat) (ts : List Tok) : Except AsmErr Nat :=
  match fltOf ts, ts with
  | some x, _ => x.bits f
  | none, [.int v false] => if v < 2 ^ (8 * width) then .ok v else .error .range
  | none, _ => .error .argument

/-- The E2M1 code of a `.mx4` argument. (log 44, DEDUCED) -/
def mx4Arg (ts : List Tok) : Except AsmErr Nat :=
  -- twice the magnitude, from digits and a power of ten
  let mag (m : Nat) (e : Int) : Except AsmErr Nat :=
    let n := 2 * m * 10 ^ e.toNat
    let d := 10 ^ (-e).toNat
    if n % d ≠ 0 then .error .argument
    else match [0, 1, 2, 3, 4, 6, 8, 12].zipIdx.find? fun x => x.1 == n / d with
      | some x => .ok x.2
      | none => .error .argument
  match ts with
  | [.int v _] => mag v 0
  | [.flt m e] => mag m e
  | [.op "-", .int v _] => (mag v 0).map fun c => if c = 0 then 0 else c + 8
  | [.op "-", .flt m e] => (mag m e).map (· + 8)
  | _ => .error .argument

/-- Codes two to a byte, the first in the low half. -/
def nibbles : List Nat → List Byte
  | [] => []
  | [a] => [BitVec.ofNat 8 a]
  | a :: b :: r => BitVec.ofNat 8 (a + 16 * b) :: nibbles r

/-- A data directive; none for another name. -/
def dirData (a : Asm) (d : String) (args : List (List Tok)) : Option (Except AsmErr Asm) :=
  let ok := a.kind = some 1 ∨ a.kind = some 2
  let nums (w : Nat) : Except AsmErr Asm := do
    let es ← args.mapM a.later
    return a.emit (w * es.length) (.nums w es)
  let floats (f : FForm) (w : Nat) : Except AsmErr Asm := do
    let vs ← args.mapM (floatArg f w)
    return a.emit (w * vs.length) (.raw (vs.flatMap (bytesLE w)))
  let placed (x : Except AsmErr Asm) : Option (Except AsmErr Asm) :=
    some (if ok then (if args.isEmpty then .error .form else x) else .error .place)
  if d == "BYTE" then placed (nums 1) else if d == "HALF" then placed (nums 2) else if d == "WORD" then placed (nums 4)
  else if d == "DWORD" then placed (nums 8)
  else if d == "F32" then placed (floats formF32 4) else if d == "F16" then placed (floats formF16 2)
  else if d == "BF16" then placed (floats formBF16 2) else if d == "E4M3" then placed (floats formE4M3 1)
  else if d == "DS8" then placed (do
    let es ← args.mapM a.later
    return a.emit es.length (.ds8 es))
  else if d == "MX4" then placed (do
    let bs := nibbles (← args.mapM mx4Arg)
    return a.emit bs.length (.raw bs))
  else if d == "FILL" then placed (match args with
    | [c, w, e] => do
      let c ← a.now 0 (2 ^ 63) c
      let w ← a.now 1 8 w
      if w = 1 ∨ w = 2 ∨ w = 4 ∨ w = 8 then return a.emit (c * w) (.fill c w (← a.later e)) else .error .argument
    | _ => .error .form)
  else if d == "ZERO" then some (match args with
    | [c] => do
      let c ← a.now 0 (2 ^ 63) c
      if a.kind = some 3 then return a.onSec fun x => { x with size := x.size + c }
      else if ok then return a.emit c (.raw (List.replicate c 0)) else .error .place
    | _ => .error .form)
  else none

/-- `.page` and `.home` (R68). (log 44, DEDUCED) -/
def dirPage (a : Asm) (args : List (List Tok)) : Except AsmErr Asm :=
  match a.sec with
  | none => .error .place
  | some x =>
    if x.kind = 0 then .error .place else if x.page.isSome then .error .once
    else match args with
      | t :: more => do
        match typOfName (upper (← oneWord t)) with
        | none => .error .argument
        | some t => match more with
          | [] => if t.scaled then .error .argument else return a.onSec fun x => { x with page := some (t, none) }
          | [.word k :: .op "=" :: e] =>
            if upper k == "SOFF" && t.scaled then do
              let e ← a.later e
              return a.onSec fun x => { x with page := some (t, some e) }
            else .error .argument
          | _ => .error .form
      | [] => .error .form
/-- The same. (log 44, DEDUCED) -/
def dirHome (a : Asm) (args : List (List Tok)) : Except AsmErr Asm :=
  match a.sec, args with
  | none, _ => .error .place
  | some x, [e] => if x.kind = 0 then .error .place else if x.home.isSome then .error .once else do
      let e ← a.later e
      return a.onSec fun x => { x with home := some e }
  | _, _ => .error .form

/-- The kernel directives of R69 and R70; none for another name. (log 44, DEDUCED) -/
def dirKernel (a : Asm) (d : String) (args : List (List Tok)) : Option (Except AsmErr Asm) :=
  let inside (k : KernelDraft → Except AsmErr Asm) : Option (Except AsmErr Asm) :=
    some (match a.kernel with | some x => k x | none => .error .place)
  if d == "KERNEL" then some (match args with
    | [n] => do
      let name ← symName (← oneWord n)
      if a.inKernel || a.kind ≠ some 0 then .error .place
      else do
        let a' ← a.define name (.kernel a.cur a.off a.kernels.length)
        return { a' with kernels := a.kernels ++ [{ name := name, sec := a.cur, off := a.off, nums := [], res := [] }], inKernel := true,
                         prio := prioZero }
    | _ => .error .form)
  else if d == "ENDK" then inside fun k => if !args.isEmpty then .error .form else if !k.nums.any (·.1 == "LANES") then .error .once
    else .ok { a with inKernel := false, prio := prioZero }
  else if d == "PRIO" then inside fun _ => match args with
    | [e] => do
      let e ← a.later e
      return { a.onKernel (fun k => { k with nums := k.nums ++ [(d, e)] }) with prio := e }
    | _ => .error .form
  else if d == "LANES" || d == "GANG" || d == "REGS" || d == "TILES" || d == "SCRATCH" || d == "UNDO" then inside fun k => match args with
    | [e] => do
      if k.nums.any (·.1 == d) then .error .once
      else
        let e ← a.later e
        -- these place storage, so they do not refer forward (R63)
        let _ ← (if d == "SCRATCH" || d == "UNDO" then a.abs e else .ok 0)
        return a.onKernel fun k => { k with nums := k.nums ++ [(d, e)] }
    | _ => .error .form
  else if d == "DITCH" then inside fun k => match args with
    | [n, p, c, w] => do
      let n ← oneWord n
      let _ ← symName n
      if k.res.any (fun r => match r with | .ditch m _ _ _ => m == n | _ => false) then .error .once
      else
        let p ← a.later p
        let c ← a.later c
        let w ← a.later w
        return a.onKernel fun k => { k with res := k.res ++ [.ditch n p c w] }
    | _ => .error .form
  else if d == "WEIR" then inside fun k => match args with
    | [n, o, c] => do
      let name ← symName (← oneWord n)
      let o ← a.now 0 (2 ^ 32 - 1) o
      let c ← a.later c
      if o % 16 ≠ 0 then .error .argument
      else if k.res.any (fun r => match r with | .weir p _ => p == o | _ => false) then .error .once
      else do
        let a ← a.define name (.equ ⟨.int o true, none⟩)
        return a.onKernel fun k => { k with res := k.res ++ [.weir o c] }
    | _ => .error .form
  else none

/-- A directive that is no conditional, inclusion or template. -/
def directive (a : Asm) (d : String) (args : List (List Tok)) : Except AsmErr Asm :=
  let names : Except AsmErr (List String) := if args.isEmpty then .error .form else args.mapM fun t => do symName (← oneWord t)
  match dirData a d args with
  | some r => r
  | none => match dirKernel a d args with
    | some r => r
    | none =>
      if d == "SECTION" then dirSection a args
      else if d == "ALIGN" then dirAlign a args
      else if d == "PAGE" then dirPage a args
      else if d == "HOME" then dirHome a args
      else if d == "BIND" then match args with
        | [s, r, n] => do
          let s ← a.later s
          let r ← a.later r
          let n ← a.later n
          return { a with binds := a.binds ++ [(s, r, n)] }
        | _ => .error .form
      else if d == "EQU" then match args with
        | [n, e] => do
          let n ← symName (← oneWord n)
          a.define n (.equ (← a.later e))
        | _ => .error .form
      else if d == "GLOBAL" then do
        let ns ← names
        return { a with globals := a.globals ++ ns }
      else if d == "LOCAL" then do
        let ns ← names
        return { a with locals := a.locals ++ ns }
      else if d == "EXT" ++ "ERN" then do
        (← names).foldlM (fun a n => if (defOf a.defs n.toList) = some .ext then .ok a else a.define n .ext) a
      else .error .form

/-! ### Lines (R51, R72) -/

/-- The text of a body's line with arguments in place of the names behind a backslash; `w` is such a name, read so far in reverse. (log 44, DEDUCED) -/
def substitute (ps : List (List Char × List Char)) : Option (List Char) → List Char → Except AsmErr (List Char)
  | none, [] => .ok []
  | some w, [] => arg w
  | none, c :: r => if c = '\\' then substitute ps (some []) r else (substitute ps none r).map (c :: ·)
  | some w, c :: r =>
    if isWordChar c then substitute ps (some (c :: w)) r
    else do
      let x ← arg w
      if c = '\\' then return x ++ (← substitute ps (some []) r) else return x ++ c :: (← substitute ps none r)
where
  /-- the argument of a name -/
  arg (w : List Char) : Except AsmErr (List Char) := match ps.find? fun p => p.1 == w.reverse with
    | some p => .ok p.2
    | none => .error .form

/-- What source text reads its included files from: from the including file's name and a path, the file's name and text. (log 44, DEDUCED) -/
abbrev Files := String → String → Option (String × List Char)

/-- The lines of a text. -/
def textLines (s : List Char) : List (List Char) := splitOn '\n' s

/-- An instruction, after its guard. -/
def instrLine (a : Asm) (guard : Option (Bool × Nat)) (s : List Char) : Except AsmErr Asm := do
  if a.kind ≠ some 0 then .error .place
  else
    let headChar (c : Char) : Bool := isWordChar c || c == '.'
    let rest ← lex (s.dropWhile headChar)
    return a.emit 12 (.word (if a.inKernel then some (a.kernels.length - 1) else none) a.prio guard (s.takeWhile headChar) rest)

/-- An instruction with the guard that may stand before it (R61); none where the text begins with a word and a colon that are no
guard. -/
def guardedLine (a : Asm) (s : List Char) : Option (Except AsmErr Asm) :=
  let (neg, t) := match s with | '!' :: r => (true, trim r) | r => (false, r)
  let w := t.takeWhile isWordChar
  match t.dropWhile isWordChar with
  | ':' :: rest => match regWord w with
    | some (c, n) =>
      some (if c == 'p' && decide (n < 16) && !(trim rest).isEmpty then instrLine a (some (neg, n)) (trim rest) else .error .form)
    | none => if neg then some (.error .form) else none
  | _ => some (if neg then .error .form else instrLine a none s)

/-- A directive with the text of its arguments. `sub` runs the lines of an included file. (log 44, DEDUCED) -/
def dirLine (files : Files) (sub : String → List (List Char) → Asm → Except AsmErr Asm) (file : String) (d : String) (args : List Char)
    (a : Asm) : Except AsmErr Asm :=
  if d == "IF" then
    if 32 ≤ a.conds.length then .error .nesting
    else if !a.live then .ok { a with conds := ⟨false, false⟩ :: a.conds }
    else do
      let v ← a.abs (← a.later (← lex args))
      return { a with conds := ⟨v != 0, false⟩ :: a.conds }
  else if d == "ELSE" then match a.conds with
    | c :: cs => if c.els then .error .nesting else .ok { a with conds := ⟨!c.on, true⟩ :: cs }
    | [] => .error .nesting
  else if d == "ENDIF" then match a.conds with
    | _ :: cs => .ok { a with conds := cs }
    | [] => .error .nesting
  else if !a.live then .ok a
  else if d == "MAC" ++ "RO" then do
    match commas (← lex args) with
    | n :: ps =>
      let name ← symName (← oneWord n)
      let ps ← ps.mapM oneWord
      if a.templates.any (·.name == name) then .error .redefined
      else return { a with reading := some { name := name, params := ps, body := [] } }
    | [] => .error .form
  else if d == "INCLUDE" then do
    match ← lex args with
    | [.text p] => match files file (String.ofList p) with
      | some (name, text) => sub name (textLines text) a
      | none => .error .argument
    | _ => .error .form
  else do directive a d (commas (← lex args))

/-- The template a name calls. -/
def Asm.template (a : Asm) (n : List Char) : Option Template := a.templates.find? fun t => t.name == String.ofList n

/-- A call of a template: its body's lines, with arguments by position. (log 44, DEDUCED) -/
def callTemplate (sub : String → List (List Char) → Asm → Except AsmErr Asm) (file : String) (t : Template) (args : List Char) (a : Asm) :
    Except AsmErr Asm := do
  let given := if args.isEmpty then [] else (splitOn ',' args).map trim
  if t.params.length < given.length then .error .operands
  else
    let ps := t.params.zip (given ++ List.replicate t.params.length [])
    let body ← t.body.mapM (substitute (ps ++ [("seq".toList, (toString a.seq).toList)]) none)
    sub file body { a with seq := a.seq + 1 }

/-- The directive's name and the text behind it, where a text begins with a point. -/
def dirOf : List Char → Option (String × List Char)
  | '.' :: r => some (upper (r.takeWhile isWordChar), trim (r.dropWhile isWordChar))
  | _ => none

/-- A line. (log 44, DEDUCED) -/
def runLine (files : Files) (sub : String → List (List Char) → Asm → Except AsmErr Asm) (file : String) (line : List Char) (a : Asm) :
    Except AsmErr Asm :=
  let s := trim (dropComment false line)
  if 4096 < line.length then .error .tooLong
  else match a.reading with
  | some t => match dirOf s with
    | some (d, r) =>
      if d == "ENDM" then (if r.isEmpty then .ok { a with reading := none, templates := a.templates ++ [t] } else .error .form)
      else if d == "MAC" ++ "RO" then .error .nesting
      else .ok { a with reading := some { t with body := t.body ++ [s] } }
    | none => .ok { a with reading := some { t with body := t.body ++ [s] } }
  | none => match dirOf s with
    | some (d, r) => dirLine files sub file d r a
    | none =>
      if s.isEmpty then .ok a
      else if !a.live then
        -- a conditional may stand behind a label
        match s.dropWhile isWordChar with
        | ':' :: rest => match dirOf (trim rest) with
          | some (d, r) => dirLine files sub file d r a
          | none => .ok a
        | _ => .ok a
      else
        let w := s.takeWhile isWordChar
        match a.template w, guardedLine a s, s.dropWhile isWordChar with
        -- a label
        | _, none, rest => do
          let n ← symName w
          let a ← if a.cur = 0 then .error .place else a.define n (.label a.cur a.off)
          let rest := trim (rest.drop 1)
          if rest.isEmpty then return a
          else match dirOf rest, guardedLine a rest with
            | some (d, r), _ => dirLine files sub file d r a
            | none, some x => x
            | none, none => .error .form
        | _, some x, '.' :: _ => x
        | _, some x, ':' :: _ => x
        | some t, some _, rest => callTemplate sub file t (trim rest) a
        | none, some x, _ => x

/-- Lines, in order. -/
def runLines (files : Files) (sub : String → List (List Char) → Asm → Except AsmErr Asm) (file : String) :
    List (List Char) → Asm → Except AsmErr Asm
  | [], a => .ok a
  | l :: ls, a => do runLines files sub file ls (← runLine files sub file l a)

/-- Lines at a depth of expansions and inclusions (R72). -/
def runDepth (files : Files) : Nat → String → List (List Char) → Asm → Except AsmErr Asm
  | 0, _, _, _ => .error .nesting
  | depth + 1, file, lines, a => runLines files (runDepth files depth) file lines a

/-! ### The second reading -/

/-- A kernel with its numbers: the descriptor, without its name and first resource, and what its lines use. -/
structure KernelDone where
  kd : OKd
  ditch : List (List Char × Nat)
  regs : Nat
  res : List ORes
  deriving DecidableEq, Repr, Inhabited

/-- The numbers of a kernel (R69, R70). (log 44, DEDUCED) -/
def kernelDone (a : Asm) (k : KernelDraft) : Except AsmErr KernelDone := do
  let num (n : String) (lo hi step dflt : Nat) : Except AsmErr Nat := match k.nums.find? fun x => x.1 == n with
    | some x => do
      let v ← a.number lo hi x.2
      if v % step = 0 then return v else .error .argument
    | none => .ok dflt
  let lanes ← num "LANES" 1 1024 1 0
  let gang ← num "GANG" 1 4 1 1
  let regs ← num "REGS" 32 256 8 256
  let scratch ← num "SCRATCH" 0 3145728 128 0
  let undo ← num "UNDO" 0 65536 16 0
  let tiles ← num "TILES" 0 16 1 0
  let _ ← (k.nums.filter fun x => x.1 == "PRIO").mapM fun x => a.number 0 63 x.2
  let res ← k.res.mapM fun r => (match r with
    | .ditch _ p c w => do
      let p ← a.number 0 31 p
      let c ← a.number 16 65536 c
      let w ← a.number 4 64 w
      if pow2In 16 65536 c && pow2In 4 64 w then return { kind := 1, port := p, a := c, b := w } else .error .argument
    | .weir o c => do
      let c ← a.number 1 65535 c
      if scratch < o + 16 then .error .argument else return { kind := 2, port := 0, a := o, b := c } : Except AsmErr ORes)
  let names := k.res.filterMap fun r => match r with | .ditch n _ _ _ => some n | _ => none
  let ports := (res.filter fun r => r.kind == 1).map (·.port)
  let done : KernelDone :=
    { kd := { entry := k.off, lanes := lanes, gang := gang, regs := regs / 8, scratch := scratch, undo := undo, esect := k.sec, tiles := tiles,
              stack := 0, name := 0, resx := 0, resn := res.length },
      ditch := names.zip ports, regs := regs / 8, res := res }
  if ports.eraseDups.length ≠ ports.length then .error .once
  else if names.any (fun n => (defOf a.defs n).isSome || (a.template n).isSome) then .error .redefined
  else return done

/-- A relocation before its symbol has a number. -/
structure RelDraft where
  sec : Nat
  off : Nat
  type : Nat
  val : Val
  deriving DecidableEq, Repr, Inhabited

/-- A number of a data directive: it fits as signed or unsigned, or leaves a relocation (R66). (log 58, DESIGN CHOICE) -/
def dataNum (a : Asm) (sec off width : Nat) (e : Later) : Except AsmErr (List Byte × List RelDraft) := do
  let rel (t : Nat) (v : Val) : Except AsmErr (List Byte × List RelDraft) := .ok (List.replicate width 0, [⟨sec, off, t, v⟩])
  match ← a.value e with
  | .abs v =>
    if between (-2 ^ (8 * width - 1)) (2 ^ (8 * width) - 1) v then return (bytesLE width (v % 2 ^ (8 * width)).toNat, [])
    else .error .range
  | v => match v with
    | .rel _ .whole _ => if width = 8 then rel 1 v else if width = 4 then rel 2 v else .error .relocatable
    | .rel _ .lo _ => if width = 4 then rel 3 v else .error .relocatable
    | .rel _ .hi _ => if width = 4 then rel 4 v else .error .relocatable
    | _ => if width = 4 then rel 12 v else .error .relocatable

/-- The bytes of an item, and its relocations. -/
def itemBytes (a : Asm) (ks : List KernelDone) (sec off : Nat) : SrcItem → Except AsmErr (List Byte × List RelDraft)
  | .raw bs => .ok (bs, [])
  | .nums w es => do
    let xs ← es.zipIdx.mapM fun e => dataNum a sec (off + w * e.2) w e.1
    return (xs.flatMap (·.1), xs.flatMap (·.2))
  | .fill c w e => do
    let v ← a.abs e
    if between (-2 ^ (8 * w - 1)) (2 ^ (8 * w) - 1) v then return ((List.replicate c (bytesLE w (v % 2 ^ (8 * w)).toNat)).flatten, [])
    else .error .range
  | .ds8 es => do
    let bs ← es.mapM fun e => do
      let v ← a.abs e
      if ds8Weight (ds8Byte v) = v then return BitVec.ofNat 8 (ds8Byte v) else .error .range
    return (bs, [])
  | .word k prio guard head rest => do
    let here : Option Val := some (.rel (.sec sec) .whole off)
    let k := k.bind fun k => ks[k]?
    let sc : Scope :=
      { value := fun e => a.value ⟨e, here⟩,
        ditch := fun n => match k with | some k => (k.ditch.find? fun x => x.1 == n).map (·.2) | none => none,
        code := fun i => match a.secs[i - 1]? with | some x => x.kind == 0 | none => false }
    let p ← a.number 0 63 prio
    let (w, rel) ← lineWord sc guard p (match k with | some k => k.regs | none => 32) (sec, off) head rest
    return (bytesLE 12 w.toNat, match rel with | some r => [⟨sec, off, r.type, r.of_⟩] | none => [])

/-- Names once each, in their order. (log 45, DESIGN CHOICE) -/
def distinct (ns : List String) : List String := ns.foldl (fun l n => if l.contains n then l else l ++ [n]) []
/-- Names with their offsets in the string table (R78). (log 45, DESIGN CHOICE) -/
def strOffsets : Nat → List String → List (String × Nat)
  | _, [] => []
  | o, n :: r => (n, o) :: strOffsets (o + n.length + 1) r

/-- A symbol with its name: none for a local one that has no entry of R77. (log 45, DESIGN CHOICE) -/
def symEntry (a : Asm) (n : String) (d : SymDef) : Except AsmErr (Option (String × OSym)) := do
  let bind := if a.globals.contains n then 1 else 0
  let mk (sect bind kind value kdx : Nat) : Option (String × OSym) :=
    some (n, { name := 0, sect := sect, bind := bind, kind := kind, value := value, kdx := kdx })
  match d with
  | .label s o => return mk s bind 0 o 0xFFFF
  | .kernel s o i => return mk s bind 2 o i
  | .ext => return mk 0 2 0 0 0xFFFF
  | .equ e => match ← a.value e with
    | .abs v => return mk 0xFFFF bind 1 (v % 2 ^ 64).toNat 0xFFFF
    | .rel (.sec i) .whole v => return mk i bind 1 (v % 2 ^ 64).toNat 0xFFFF
    | _ => if bind = 1 then .error .relocatable else return none

/-- The number of a symbol that a value is relative to, and the addend. (log 45, DESIGN CHOICE) -/
def symAddend (nsec : Nat) (syms : List (String × OSym)) (v : Val) : Except AsmErr (Nat × Nat) :=
  let num (n : String) : Except AsmErr Nat := match syms.zipIdx.find? fun x => x.1.1 == n with
    | some x => .ok (1 + nsec + x.2)
    | none => .error .undefined
  match v with
  | .abs v => .ok (0xFFFFFFFF, (v % 2 ^ 64).toNat)
  | .rel (.sec i) _ x => .ok (i, (x % 2 ^ 64).toNat)
  | .rel (.ext n) _ x => do return (← num n, (x % 2 ^ 64).toNat)
  | .kidx n x => do return (← num n, (x % 2 ^ 64).toNat)

/-- One address of a binding: is it a multiple of `n` (R68), as far as is known before the load? -/
def bindArg (a : Asm) (syms : List (String × OSym)) (n : Nat) (e : Later) : Except AsmErr (Nat × Nat) := do
  let v ← a.value e
  let known : Option Int := match v with
    | .abs v => some v
    | .rel (.sec i) .whole x => if n ≤ ((a.secs[i - 1]?).map (·.align)).getD 0 then some x else none
    | _ => none
  match v, known with
  | .rel _ .lo _, _ => .error .relocatable
  | .rel _ .hi _, _ => .error .relocatable
  | .kidx _ _, _ => .error .relocatable
  | _, some x => if x % n = 0 then symAddend a.secs.length syms v else .error .argument
  | _, none => symAddend a.secs.length syms v

/-- The second reading: the object that a source makes. (log 44, DEDUCED; log 45, DESIGN CHOICE) -/
def Asm.finish (a : Asm) : Except AsmErr Obj := do
  let ks ← a.kernels.mapM (kernelDone a)
  let parts ← a.items.mapM fun x => (itemBytes a ks x.1 x.2.1 x.2.2).map fun y => (x.1, y)
  let syms := (← a.defs.mapM fun d => symEntry a d.1 d.2).filterMap id
  let names := distinct (a.secs.map (·.name) ++ syms.map (·.1))
  let offs := strOffsets 1 names
  let nameOff (n : String) : Nat := ((offs.find? fun x => x.1 == n).map (·.2)).getD 0
  let secs ← a.secs.zipIdx.mapM fun x => do
    let home ← (match x.1.home with | some e => a.number 0 5 e | none => .ok 0)
    let soff ← (match x.1.page with
      | some (_, some e) => do
        let v ← a.abs e
        if between (-32768) 32767 v then return (v % 65536).toNat else .error .argument
      | _ => .ok 0)
    return ({ name := nameOff x.1.name, kind := x.1.kind, typ := (match x.1.page with | some (t, _) => t.code | none => 0),
              pset := x.1.page.isSome, home := home, hset := x.1.home.isSome, align := Nat.log2 x.1.align, soff := soff, size := x.1.size,
              addr := 0, data := (parts.filter fun p => p.1 == x.2 + 1).flatMap (·.2.1) } : OSec)
  let rels ← (parts.flatMap (·.2.2)).mapM fun r => do
    let (n, add) ← symAddend secs.length syms r.val
    return ({ offset := r.off, sect := r.sec, type := r.type, sym := n, addend := add } : ORel)
  let binds ← a.binds.mapM fun b => do
    let (s, sa) ← bindArg a syms 16 b.1
    let (r, ra) ← bindArg a syms 128 b.2.1
    let n ← a.number 1 (2 ^ 32 - 1) b.2.2
    if n % 128 ≠ 0 then .error .argument
    else return ({ slsym := s, rgsym := r, sladd := sa, rgadd := ra, len := n } : OBind)
  let res := ks.flatMap (·.res)
  let first (i : Nat) : Nat := ((ks.take i).map fun k => k.res.length).foldl (· + ·) 0
  let kds := (ks.zip a.kernels).zipIdx.map fun x =>
    { x.1.1.kd with name := nameOff x.1.2.name, resx := if x.1.1.res.isEmpty then 0 else first x.2 }
  let obj : Obj :=
    { linked := false, secs := secs,
      syms := { name := 0, sect := 0, bind := 0, kind := 0, value := 0, kdx := 0 } ::
        (secs.zipIdx.map (fun x => { name := x.1.name, sect := x.2 + 1, bind := 0, kind := 3, value := 0, kdx := 0xFFFF }) ++
          syms.map fun y => { y.2 with name := nameOff y.1 }),
      strs := 0 :: names.flatMap (fun n => n.toList.map (fun c => BitVec.ofNat 8 c.toNat) ++ [0]),
      kds := kds, rels := rels, binds := binds, res := res, sig := none }
  if a.reading.isSome ∨ !a.conds.isEmpty ∨ a.inKernel then .error .nesting
  else if a.globals.any (fun n => match defOf a.defs n.toList with | none => true | some .ext => true | _ => false) then .error .undefined
  else if a.globals.any (fun n => a.locals.contains n) then .error .argument
  else if secs.isEmpty ∨ 65534 < secs.length ∨ 65535 < kds.length ∨ 4096 < binds.length then .error .argument
  else return obj

/-- The object that a source text makes. -/
def assemble (files : Files) (file : String) (text : List Char) : Except AsmErr Obj := do
  (← runDepth files 17 file (textLines text) Asm.start).finish

end Sys2Proof.Machine
end

