-- ==== Sys2Proof/Safety.lean ====
section
/-! DEFINITION. Safety.lean: what a safe step is, and the conditions on states in which claims are stated. -/

namespace Sys2Proof

/-- The invariant of the part: memory keeps its canonical form, and every component has at most one entry for a key. -/
structure Inv (s : Machine.State) : Prop where
  mem : Machine.Memory.wf s.mem
  lanes : (Map.keys s.lanes).Nodup
  crews : (Map.keys s.crews).Nodup
  wgs : (Map.keys s.wgs).Nodup
  gangs : (Map.keys s.gangs).Nodup
  launches : (Map.keys s.launches).Nodup
  pelotons : (Map.keys s.pelotons).Nodup
  ports : (Map.keys s.ports).Nodup
  cores_ : (Map.keys s.cores).Nodup
  clusters : (Map.keys s.clusters).Nodup
  slices : (Map.keys s.slices).Nodup
  ctxs : (Map.keys s.ctxs).Nodup
  queues : (Map.keys s.queues).Nodup
  seqs : (Map.keys s.seqs).Nodup
  links : (Map.keys s.links).Nodup
  routes : (Map.keys s.routes).Nodup

/-- A step is safe when the part goes on: it never stops with a fault or a refusal. -/
def Safe (s : Machine.State) : Prop := ∃ s', Machine.step s = .next s'

namespace Machine

/-- Nothing waits for what a step may bring about: no wait is over, no arrival is under way, no empty latch has yet to ask for its word,
no queue, tile command, engine command, parking, exit or reply can go on. Then nothing follows from a step at once. -/
structure Quiet (s : State) : Prop where
  waits : ∀ k l, s.lanes.get? k = some l → ∀ w ∈ l.parks.wait, s.waitOver k l w = false
  lanes : ∀ e ∈ s.lanes, e.2.exiting = false ∧ e.2.arriving = [] ∧ e.2.arrived = [] ∧ e.2.parks.weir = none ∧ e.2.parks.queue = none
  words : ∀ e ∈ s.lanes, s.fetches e.1 = true → ∃ t, e.2.asked = some (t, e.2.pc)
  sluices : ∀ r ∈ s.slreqs, r.waiting = false
  bits_ : s.dev.wq = []
  cores_ : ∀ e ∈ s.cores, (s.core e.1).passing = none ∧ (s.core e.1).requests = [] ∧ (s.core e.1).mq = [] ∧ (s.core e.1).swap = none ∧
    ((s.core e.1).saddle = none → (s.core e.1).requeue = false) ∧ ∀ c, (s.core e.1).saddle = some c → s.crewLive c ≠ []
  clusters : ∀ e ∈ s.clusters, (s.cluster e.1).cmds = [] ∧ (s.cluster e.1).parts = []
  wgs : ∀ e ∈ s.wgs, ∀ w, s.wgs.get? e.1 = some w → w.parking = false ∧ (w.exited = true ∧ w.freed = true ∨ w.exited = false ∧ s.liveLanes e.1 ≠ [])
  wgsParking : ∀ e ∈ s.wgs, e.2.parking = false
  gangs : ∀ e ∈ s.gangs, ∀ g, s.gangs.get? e.1 = some g → g.ended = false ∧ ∃ w ∈ g.wgs, ∃ v, s.wgs.get? w = some v ∧ v.exited = false
  ctxs : ∀ e ∈ s.ctxs, s.parkStage e.1 = false
  conds : ∀ e ∈ s.launches, ∀ c ∈ e.2.conds, c.seen = true
  replies : ∀ r ∈ s.reqs, r.st ≠ .replying

/-- Nothing of a context is resident: no workgroup, gang or launch, no record in a cistern or on its way to a sequencer. -/
structure Vacant (s : State) (c : Nat) : Prop where
  wgs : ∀ e ∈ s.wgs, e.2.ctx ≠ c
  gangs : ∀ e ∈ s.gangs, e.2.ctx ≠ c
  launches : ∀ e ∈ s.launches, e.2.ctx ≠ c
  clusters : ∀ e ∈ s.clusters, (∀ r ∈ (s.cluster e.1).cistern, r.ctx ≠ c) ∧ (s.cluster e.1).parts.get? c = none
  seqs : ∀ e ∈ s.seqs, ∀ x ∈ (s.seqr e.1).given, x.1 ≠ c

/-- Lane `k` of a port is the only lane that presents in the peloton that the port picks, in a cycle in which the port may still take its
census (R12, R169): it has no park, its word is latched, no lane of the peloton is overdue, its gang has started, and no lane has stopped in this cycle (R390). -/
structure LoneLane (s : State) (port slot : Nat) (k : LaneId) (l : Lane) (x : Latch) : Prop where
  port_ : port < 2304
  fresh : (s.port port).lastAt ≠ some s.now
  turn : s.portPassed port = false
  picked : s.pickSlot port = some slot
  alone : s.wanting (port / 4) slot = [(k, l)]
  here : s.lanes.get? k = some l
  noPark : l.parks = Parks.none
  latched : l.latch = some x
  noParity : parityHit l x.op = none
  noSpawn : ∀ e ∈ s.lanes, e.2.spawned = none ∧ e.2.parks.yield = none
  notOverdue : (s.peloton (port / 4) slot).overdue = []
  started : ∃ g, s.gangs.get? (s.gangOf k) = some g ∧ g.started = true
  calm : s.noneStopped

/-- Memory once a fault record has been written to its ring (R388): 64 detail slots of 16 bytes behind the ring, each with its address and
cause, and the head, with the FID in its bits [191:160], in the ring's slot. -/
def State.recordMem (s : State) (v : Ctx) (f : FaultRec) : List Host.Cell :=
  let i := v.fqpi.toNat % 2 ^ v.fqs.toNat
  let slot (n : Nat) : List Byte := match (f.detailNow s).find? fun d => d.1 == n with
    | some d => bytesLE 16 (d.2.1.toNat + d.2.2 * 2 ^ 64)
    | none => bytesLE 16 0
  ((s.after (storeBytes (v.fqb.toNat + 2 ^ v.fqs.toNat * 64 + i * 1024) ((List.range 64).flatMap slot))).after
    (storeBytes (v.fqb.toNat + i * 64) (bytesLE 64 (f.headNow s + v.fqpi.toNat * 2 ^ 160)))).mem

end Machine
end Sys2Proof
end

