-- ==== Sys2Proof/WellFormed.lean ====
section
/-! DEFINITION. WellFormed.lean: what an instruction word and a step must be to have a meaning of their own. -/

namespace Sys2Proof

/-! ### Instruction words: the checks of R48 on the syntax -/

/-- Order 6: MIN and TYP are listed for the major. -/
def Op.minTypOk (o : Op) : Bool := Sys2Proof.minTypOk o.maj o.min.toNat o.typ
/-- Order 7: fixed values, LIT sub-fields, and the guard rule of R35. -/
def Op.fixedOk (o : Op) : Bool := fixedValuesOk o.maj o.fields
/-- Orders 8 and 9: the operands are of the kinds that the entry takes, inside the allocation of `regs` (R124). -/
def Op.operandsOk (regs : Nat) (o : Op) : Bool := Sys2Proof.operandsOk o.maj o.fields regs o.fx o.fy o.fz

/-- A well-formed instruction of a kernel whose descriptor field REGS is `regs`. -/
def Op.wf (regs : Nat) (o : Op) : Bool := o.minTypOk && o.fixedOk && o.operandsOk regs

/-! ### Steps: the numbers of the part's units (R8 to R11, R253, R259, R431) -/

/-- Number of issue ports: 576 cores of four. -/
def portCount : Nat := 2304
/-- Cores of the device. -/
def coreCount : Nat := 576
/-- Clusters of the device. -/
def clusterCount : Nat := 144
/-- L2 slices of the device. -/
def sliceCount : Nat := 96
/-- HBM pseudo-channels of a compute die: four stacks of 96 (R268). -/
def channelCount : Nat := 384
/-- Links (R431). -/
def linkCount : Nat := 18
/-- Contexts (R366). -/
def ctxCount : Nat := 4096
/-- Hardware work queues (R333). -/
def queueCount : Nat := 2048

/-- Is a step's unit one that the part has, and are the bytes that it carries of a size that the step takes? -/
def Instr.wf : Instr → Bool
  | .census p => decide (p < portCount)
  | .l2FillArrival s _ _ => decide (s < sliceCount)
  | .softRepairStart d c r => decide (d < 6) && decide (c < channelCount) && decide (r < 2 ^ 20)
  | .softRepairEnd d c => decide (d < 6) && decide (c < channelCount)
  | .bankDrainDone c b => decide (c < clusterCount) && decide (b < 32)
  | .weirRetire _ off => decide (off % 16 = 0)
  | .matrixCommandAccept c => decide (c < coreCount)
  | .tileCommandReached c t => decide (c < coreCount) && decide (t < 16)
  | .matrixKStep c t => decide (c < coreCount) && decide (t < 16)
  | .moutRow c t => decide (c < coreCount) && decide (t < 16)
  | .ditchControllerOp c _ => decide (c < clusterCount)
  | .engineCommandFire c _ => decide (c < clusterCount)
  | .engineRow c _ _ => decide (c < clusterCount)
  | .engineCommandComplete c _ => decide (c < clusterCount)
  | .headgateWrite q off bs => decide (q < queueCount) && decide (off < 4096) && decide (0 < bs.length)
  | .launchAccept d _ => decide (d < 6)
  | .gangPlace _ c _ _ _ => decide (c < clusterCount)
  | .quantumTick c _ => decide (c < coreCount)
  | .contextOpen c => decide (c < ctxCount)
  | .contextClose c => decide (c < ctxCount)
  | .contextFree c => decide (c < ctxCount)
  | .ringRecordWrite c _ => decide (c < ctxCount)
  | .contextCiWrite c _ _ => decide (c < ctxCount)
  | .quantumWrite c _ => decide (c < coreCount)
  | .cisthwWrite c _ => decide (c < clusterCount)
  | .workQueueConfigWrite q _ => decide (q < queueCount)
  | .routeWrite d _ => decide (d < 256)
  | .flitCrcFailure l => decide (l < linkCount)
  | .linkTrainingAttempt l _ => decide (l < linkCount)
  | .linkUp l => decide (l < linkCount)
  | .fetchLatchFill _ _ _ | .longLatencyResultWrite _ _ | .collectiveExecute _ | .rendezvousMismatch _ | .sleepExpiry _
  | .l2RequestAccept _ | .backInvalidationComplete _ | .hostMemAccess _ | .migrationPieceStart _ _
  | .migrationPieceEnd _ _ | .patrolScrub _ _ | .fenceComplete _ | .sluiceRequestArrive _ | .sluiceReleasePerform _
  | .rollback _ _ | .gangKill _ | .launchConditionCheck _ | .launchComplete _ | .workgroupActivate _ _
  | .faultAnswerRetry _ _ _ | .faultAnswerTrap _ _ _ | .faultAnswerKill _ _ _ | .faultAnswerResumeat _ _ _ _
  | .translationInvalidation _ _ _ | .invalidationComplete _ | .preemptStart _ _ _ | .preemptResume _
  | .preemptT1Expiry _ | .preemptT2Expiry _ | .attestationNonceWrite _ | .attestationReportReady
  | .controlSpaceWrite _ _ | .remoteAccessTimeout _ | .powerPeriod _ _ _ | .deviceReset _ _ | .parityError _
  | .eccError _ | .barrierUnreachable _ _ => true

end Sys2Proof
end

