-- ==== Sys2Proof/Certificates/Slice0/Obligations.lean ====
section
/-! DEFINITION. Certificates/Slice0/Obligations.lean: what is claimed of the model, for the provers. A step's meaning answers `.next t.settled`:
`t` is the state that the step's own effect leaves, written out with everything that it leaves unchanged, and `settled` adds what waits for
it (`Obligations.QuietStatesSettle` says when nothing does). -/

open Sys2Proof Sys2Proof.Machine

/-! ### The machine -/

/-- A step takes the first entry of the agenda, after the cycles that the entry gives, and runs that instruction's meaning on the state in
which the cycles have passed and the entry is gone; with an empty agenda it takes the free step of the tick (notes/assumptions/1). Cycles
that pass change the cycle count, THROT of the clusters of which the arbiter removes cycles (R373), and the note of which lanes are ready
as the new cycle begins (R169), and nothing else. -/
def Obligations.StepRunsTheNextInstruction : Prop :=
  (∀ (s : State) (d : Nat) (i : Instr) (rest : List (Nat × Instr)), s.agenda = (d, i) :: rest →
    step s = exec i (State.elapse { s with tick := s.tick + 1, agenda := rest } d)) ∧
  (∀ s : State, s.agenda = [] →
    step s = exec (Config.freeStep s.tick).2 (State.elapse { s with tick := s.tick + 1 } (Config.freeStep s.tick).1)) ∧
  (∀ s : State, s.elapse 0 = s) ∧
  ∀ (s : State) (n : Nat), 0 < n →
    let t : State := { s with now := s.now + n, clusters := (s.elapse n).clusters }
    s.elapse n = { t with ready := t.readyNow } ∧
    ∀ c, (s.elapse n).cluster c = { s.cluster c with throt := (s.cluster c).throt +
      if (s.cluster c).cut = 0 then 0 else BitVec.ofNat 32 ((List.range n).filter fun i => cycleCut (s.cluster c).cut c (s.now + i)).length }

/-- The part never stops: every step of every state answers a next state, since every fault of the manual is a record that the part writes
while it goes on (R180, R388, R390). That a step whose conditions do not hold changes nothing, so that it answers a next state too, is the model's
choice (log 3). -/
def Obligations.EveryStepGoesOn : Prop := ∀ s : State, Safe s

/-- Every step keeps the invariant. -/
def Obligations.StepKeepsInv : Prop := ∀ s s' : State, Inv s → step s = .next s' → Inv s'

/-- The state after reset has the invariant. -/
def Obligations.ResetHasInv : Prop := Inv State.reset

/-- No instruction's meaning moves the cycle count, the step number or the agenda: only the step around it does. -/
def Obligations.MeaningsKeepTime : Prop :=
  ∀ (i : Instr) (s s' : State), exec i s = .next s' → s'.now = s.now ∧ s'.tick = s.tick ∧ s'.agenda = s.agenda

/-- In a quiet state nothing follows at once. -/
def Obligations.QuietStatesSettle : Prop := ∀ s : State, Quiet s → s.settled = s

/-! ### Instruction words -/

/-- Decoding and encoding agree: a word decodes to an instruction exactly when that instruction is well-formed and is encoded by that word. -/
def Obligations.DecodeIffEncode : Prop :=
  ∀ (regs : Nat) (w : BitVec 96) (o : Op), decode regs w = .ok o ↔ o.wf regs = true ∧ encode o = w

/-- Words written out from the encodings of the spec decode to the instructions they stand for. -/
def Obligations.KnownWordsDecode : Prop :=
  decode 32 (wordOfParcels 0x00648803 0x0FFF0000 0x00004070) =
    .ok { maj := .iadd, min := 0, typ := .s32, fx := .g 7, fy := .g 3, fz := .lit, lit := 100, grd := 17, hnt := 3 } ∧
  decode 32 (wordOfParcels 0x00000000 0x0BFE0000 0x50944050) =
    .ok { maj := .cvt, min := 0x25, typ := .s32, fx := .g 5, fy := .g 2, fz := .z, lit := 0, grd := 0, hnt := 0 } ∧
  decode 32 (wordOfParcels 0x00540000 0x7BFE0000 0xC0003FE0) =
    .ok { maj := .rbegin, min := 0, typ := .b32, fx := .z, fy := .g 30, fz := .z, lit := 0x54, grd := 0, hnt := 0 }

/-- R46: a word with MAJ 0xFF is no instruction, whatever its other fields hold. -/
def Obligations.MajorFFIsIllegal : Prop :=
  ∀ (regs : Nat) (w : BitVec 96), w.extractLsb' 88 8 = 0xFF#8 → decode regs w = .error causeIllegalInstruction

/-- R44: the census class key is bits [95:78] of the word, as an unsigned number, MAJ·1,024 + MIN·16 + TYP. -/
def Obligations.ClassKeyIsTopBits : Prop :=
  ∀ (regs : Nat) (w : BitVec 96) (o : Op), decode regs w = .ok o →
    o.key = (w.extractLsb' 78 18).toNat ∧
    o.key = (w.extractLsb' 88 8).toNat * 1024 + (w.extractLsb' 82 6).toNat * 16 + (w.extractLsb' 78 4).toNat

/-! ### Registers and arithmetic -/

/-- p0 reads as true whatever is written, a write of p0 changes nothing, and a write of another predicate changes that one alone. A register
write changes that register, and clears its parity mark, and nothing else of the lane. Special registers (R117, R118): what each reads as; MOV
to %flags or %farm writes the low seven bits to the lane's crew alone, and of several lanes of a crew one lane's value remains, which one is a free
value (R116, log 5). CSRs (R120, R121, R145): what CSRR reads, a result that is outstanding; a CSRW of TPC writes the crew's, one of AGELIM the
peloton's, held to 1 to 15. -/
def Obligations.RegistersReadBack : Prop :=
  ((∀ l : Lane, l.pred 0 = true) ∧ (∀ (l : Lane) (v : Bool), l.setPred 0 v = l) ∧
    ∀ (l : Lane) (n m : Nat) (v : Bool), 0 < n → n < 16 → m < 16 →
      (l.setPred n v).pred m = (if m = n then v else l.pred m) ∧ { l.setPred n v with p := l.p } = l) ∧
  (∀ (l : Lane) (n m : Nat) (v : Word),
      (l.setReg n v).reg m = (if m = n then v else l.reg m) ∧ n ∉ (l.setReg n v).parity ∧
      (m ≠ n → (m ∈ (l.setReg n v).parity ↔ m ∈ l.parity)) ∧ { l.setReg n v with g := l.g, parity := l.parity } = l) ∧
  (∀ (e : Env) (w : Wg) (g : Gang) (l : Launch) (cr : Crew), e.s.wgs.get? e.k.wg = some w → e.s.gangs.get? w.gang = some g →
      e.s.launches.get? g.launch = some l → e.s.crews.get? (e.s.crewOf e.k) = some cr →
      e.special .lane = e.k.idx ∧ e.special .slot = e.s.slot e.k ∧ e.special .crew = (e.s.crewOf e.k).crew ∧ e.special .peloton = e.s.pslot e.k ∧
      e.special .core = w.core ∧ e.special .cluster = w.core / 4 ∧ e.special .die = w.core / 96 ∧ e.special .wg = w.idx ∧ e.special .gang = g.idx ∧
      e.special .launch = l.lnum.toNat ∧ e.special .relaunch = g.relaunch ∧ e.special .kdi = w.kdi ∧ e.special .nlane = w.desc.lanes ∧
      e.special .rdepth = e.l.regions.length ∧ e.special .flags = cr.flags.toNat ∧ e.special .farm = cr.farm.toNat ∧ e.special .ctx = w.ctx ∧
      e.special .cycle = e.s.now - e.s.dev.resetAt ∧ (e.l.regions = [] → e.special .rtry = 0) ∧
      (∀ r rs, e.l.regions = r :: rs → e.special .rtry = r.rtry.toNat) ∧
      ((cr.lanes.map fun i => e.s.slot ⟨(e.s.crewOf e.k).wg, i⟩).Nodup → ∀ i, (e.special .cmask).testBit i = true ↔
        ∃ j ∈ cr.lanes, e.s.slot ⟨(e.s.crewOf e.k).wg, j⟩ = i)) ∧
  (∀ (s : State) (e : Env) (cr : Crew) (r : SReg), e.s = s → s.lanes.get? e.k = some e.l → s.crews.get? (s.crewOf e.k) = some cr →
      e.op.maj = .mov → e.op.fx = .sr r → (r = .flags ∨ r = .farm) → let v : BitVec 7 := (e.src e.op.fy).setWidth 7
      s.after (issueMaj e.op.maj [e]) = { s with
        crews := s.crews.set (s.crewOf e.k) (if r = .flags then { cr with flags := v } else { cr with farm := v }),
        lanes := s.lanes.set e.k (({ e.l with shortUntil := s.now + 4 } : Lane).issued (e.l.pc + 12) e.op.w) }) ∧
  (∀ (s : State) (ks : List LaneId) (c : CrewId) (cr : Crew), s.crews.get? c = some cr → (∃ k ∈ ks, s.crewOf k = c) →
      (∀ v r, ∃ k ∈ ks, s.crewOf k = c ∧ (s.after (movShared ks v r)).crews.get? c =
        some (if r = .flags then { cr with flags := (v k).setWidth 7 } else { cr with farm := (v k).setWidth 7 })) ∧
      ∀ v, ∃ k ∈ ks, s.crewOf k = c ∧ (s.after (csrwShared ks 0x2000 v)).crews.get? c = some { cr with tpc := v k }) ∧
  (∀ (s : State) (ks : List LaneId) (v : LaneId → Word) (w : LaneId → DWord) (r : SReg),
      s.after (movShared ks v r) = { s with crews := (s.after (movShared ks v r)).crews } ∧
      s.after (csrwShared ks 0x2000 w) = { s with crews := (s.after (csrwShared ks 0x2000 w)).crews } ∧
      ∀ c, (∀ k ∈ ks, s.crewOf k ≠ c) → (s.after (movShared ks v r)).crews.get? c = s.crews.get? c ∧
        (s.after (csrwShared ks 0x2000 w)).crews.get? c = s.crews.get? c) ∧
  (∀ (s : State) (e : Env) (cr : Crew), e.s = s → s.lanes.get? e.k = some e.l → s.crews.get? (s.crewOf e.k) = some cr → e.op.maj = .csrw →
      let p := (s.coreOf e.k, s.pslot e.k)
      (e.op.l 15 0 = 0x2000 → s.after (issueMaj e.op.maj [e]) = { s with
        crews := s.crews.set (s.crewOf e.k) { cr with tpc := e.src64 .n64 e.op.fy },
        lanes := s.lanes.set e.k (e.l.issued (e.l.pc + 12) e.op.w) }) ∧
      (e.op.l 15 0 = 0x3000 → s.after (issueMaj e.op.maj [e]) = { s with
        pelotons := s.pelotons.set p { s.peloton p.1 p.2 with agelim := BitVec.ofNat 4 (max ((e.src e.op.fy).toNat % 16) 1) },
        lanes := s.lanes.set e.k (e.l.issued (e.l.pc + 12) e.op.w) })) ∧
  (∀ (s : State) (e : Env), e.s = s → s.lanes.get? e.k = some e.l → e.op.maj = .csrr → (∀ n, e.op.fx ≠ .p n) →
      let v := csrValue s e.k e.l (e.op.l 15 0)
      let ws : List Word := if e.op.l 15 0 = 0x1000 ∨ e.op.l 15 0 = 0x2000 then [BitVec.ofNat 32 v, BitVec.ofNat 32 (v / 2 ^ 32)] else [BitVec.ofNat 32 v]
      s.after (issueMaj e.op.maj [e]) = { s with
        fresh := s.fresh + 1,
        lanes := s.lanes.set e.k (({ e.l with results := e.l.results ++ [
          { id := s.fresh, vals := some (dest e.op.fx ws), flags := 0, err := none, readyAt := s.now + 1,
            req := none, silent := decide (e.op.fx = .z) }] } : Lane).issued (e.l.pc + 12) e.op.w) }) ∧
  ∀ (s : State) (k : LaneId) (l : Lane) (w : Wg) (cr : Crew) (c : Ctx), s.wgs.get? k.wg = some w → s.crews.get? (s.crewOf k) = some cr →
      s.ctxs.get? w.ctx = some c →
      csrValue s k l 0x1000 = l.stkBase.toNat ∧ csrValue s k l 0x1001 = w.desc.undo ∧ csrValue s k l 0x2000 = cr.tpc.toNat ∧
      csrValue s k l 0x2001 = cr.tcause.toNat ∧ csrValue s k l 0x3000 = (s.peloton w.core (s.pslot k)).agelim.toNat ∧
      csrValue s k l 0x4000 = (s.core w.core).quantum.toNat ∧ csrValue s k l 0x5000 = (s.cluster (w.core / 4)).cisthw.toNat ∧
      csrValue s k l 0x6000 = c.bndmask.toNat ∧ csrValue s k l 0x6001 = c.preempt.toNat

/-- A census that finds one lane to present issues its word (R168): what the word's major does to that lane, when its guard is true and the word
neither faults nor traps as it issues, with the lane's wait counter cleared (R171), the peloton's and the port's datapath taken for one cycle (R12)
and the port's counters advanced (R373); nothing else changes. A lane whose guard is false retires its word as a no-operation (R34): it moves past
the word, parks when W is set, and counts as issuing; no register, predicate, flag or memory byte changes. (What counts as issuing is the model's
reading, log 21; `sentAt` is a note of the model's own, log 5.) -/
def Obligations.CensusIssuesLoneLane : Prop :=
  (∀ (s : State) (port slot : Nat) (k : LaneId) (l : Lane) (x : Latch) (l' : Lane), LoneLane s port slot k l x → guardOf l x.op = true →
      let u := s.after (issueMaj x.op.maj [{ s := s, k := k, l := l, op := x.op }])
      u.lanes.get? k = some l' → l'.parks.fault = false → l'.parks.trap = false →
      exec (.census port) s = .next (State.settled { u with
        lanes := u.lanes.set k { l' with wait := 0 },
        pelotons := u.pelotons.set (port / 4, slot) { u.peloton (port / 4) slot with overdue := [], busyUntil := u.now + 1 },
        ports := u.ports.set port { u.port port with
          last := slot % 4, lastAt := some u.now, busyUntil := u.now + 1, pcens := (u.port port).pcens + 1, pissue := (u.port port).pissue + 1,
          sentAt := if Env.inOrder { s := s, k := k, l := l, op := x.op } then some u.now else (u.port port).sentAt } })) ∧
  (∀ (s : State) (port slot : Nat) (k : LaneId) (l : Lane) (x : Latch), LoneLane s port slot k l x → guardOf l x.op = false →
      exec (.census port) s = .next (State.settled { s with
        lanes := s.lanes.set k { l with
          pc := l.pc + 12, latch := none, wait := 0,
          parks := if x.op.w then { l.parks with wait := [.results] } else l.parks },
        pelotons := s.pelotons.set (port / 4, slot) { s.peloton (port / 4) slot with overdue := [], busyUntil := s.now + 1 },
        ports := s.ports.set port { s.port port with
          last := slot % 4, lastAt := some s.now, busyUntil := s.now + 1, pcens := (s.port port).pcens + 1, pissue := (s.port port).pissue + 1,
          sentAt := if Env.inOrder { s := s, k := k, l := l, op := x.op } then some s.now else (s.port port).sentAt } }))

/-- With no lane overdue the census issues the class that most lanes present; of equal classes the one with the smallest block priority
among its lanes; of those the one with the smallest key (R170). -/
def Obligations.CensusVote : Prop :=
  let count (rs : List (LaneId × Lane)) (c : Nat) : Nat := (rs.filter fun r => r.2.keyOf == c).length
  let low (rs : List (LaneId × Lane)) (c : Nat) : Nat := ((rs.filter fun r => r.2.keyOf == c).map fun r => r.2.bpOf).foldl Nat.min 64
  (∀ (rs : List (LaneId × Lane)) (a : Nat), winner rs [] = some a →
    (∃ r ∈ rs, r.2.keyOf = a) ∧ ∀ r ∈ rs, let b := r.2.keyOf
      count rs b < count rs a ∨ count rs b = count rs a ∧ (low rs a < low rs b ∨ low rs a = low rs b ∧ a ≤ b)) ∧
  (∀ rs : List (LaneId × Lane), winner rs [] = none ↔ rs = []) ∧
  ∀ (rs : List (LaneId × Lane)) (od : List LaneId) (k : LaneId) (l : Lane), (k, l) ∈ rs → (rs.map (·.1)).Nodup →
    winner rs (k :: od) = some l.keyOf

/-- R151: FABS clears bit [31] of its source and FNEG inverts it, copying every other bit; the lane moves on, and nothing else changes. -/
def Obligations.FabsFnegBits : Prop :=
  ∀ (s : State) (e : Env) (b : Bool), e.s = s → s.lanes.get? e.k = some e.l → e.op.maj = (if b then .fneg else .fabs) →
    let v : Word := if b then e.src e.op.fy ^^^ 0x80000000#32 else e.src e.op.fy &&& 0x7FFFFFFF#32
    s.after (issueMaj e.op.maj [e]) = { s with
      lanes := s.lanes.set e.k (({ e.l.writes (dest e.op.fx [v]) with shortUntil := s.now + 4 } : Lane).issued (e.l.pc + 12) e.op.w) }

/-- R139: ISEL, with MIN 0 and TYP B32 or N64, writes a when its condition is set or nonzero, else b; with N64 all three are pairs. -/
def Obligations.IselChooses : Prop :=
  (∀ mn t, minTypOk .isel mn t = true ↔ mn = 0 ∧ (t = .b32 ∨ t = .n64)) ∧
  ∀ (s : State) (e : Env), e.s = s → s.lanes.get? e.k = some e.l → e.op.maj = .isel → (e.op.typ = .b32 ∨ e.op.typ = .n64) →
    let c : Bool := e.src e.op.third != 0
    let ws : List Word :=
      if e.op.typ = .n64 then
        let v := if c then e.src64 .n64 e.op.fy else e.src64 .n64 e.op.fz
        [v.setWidth 32, (v >>> 32).setWidth 32]
      else [if c then e.src e.op.fy else e.src e.op.fz]
    s.after (issueMaj e.op.maj [e]) = { s with
      lanes := s.lanes.set e.k (({ e.l.writes (dest e.op.fx ws) with shortUntil := s.now + 4 } : Lane).issued (e.l.pc + 12) e.op.w) }

/-- R153: FSEL reads its condition as ISEL does and copies the chosen bits unchanged; no flag is set. -/
def Obligations.FselChooses : Prop :=
  ∀ (s : State) (e : Env), e.s = s → s.lanes.get? e.k = some e.l → e.op.maj = .fsel →
    s.after (issueMaj e.op.maj [e]) = { s with
      lanes := s.lanes.set e.k (({ e.l.writes (dest e.op.fx [if e.src e.op.third != 0 then e.src e.op.fy else e.src e.op.fz]) with
        shortUntil := s.now + 4 } : Lane).issued (e.l.pc + 12) e.op.w) }

/-- LEA (R131): d:d+1 := (base + (index << MIN) + sext(c)) mod 2^64, the index extended by its type; no flag is set. -/
def Obligations.LeaAddress : Prop :=
  ∀ (s : State) (e : Env), e.s = s → s.lanes.get? e.k = some e.l → e.op.maj = .lea → (e.op.typ = .s32 ∨ e.op.typ = .n32) →
    let i : DWord := if e.op.typ = .s32 then (e.src e.op.fz).signExtend 64 else (e.src e.op.fz).setWidth 64
    let v := e.src64 .n64 e.op.fy + (i <<< e.op.min.toNat) + (e.src e.op.third).signExtend 64
    s.after (issueMaj e.op.maj [e]) = { s with
      lanes := s.lanes.set e.k (({ e.l.writes (dest e.op.fx [v.setWidth 32, (v >>> 32).setWidth 32]) with
        shortUntil := s.now + 4 } : Lane).issued (e.l.pc + 12) e.op.w) }

/-- 32-bit IADD and ISUB (R130): the wrapping forms write the sum or difference modulo 2^32 and set no flag; the saturating forms write
the nearest end of the type's range when the exact value lies outside it, and then set SAT of the lane's crew, else the value. -/
def Obligations.AddSubWrapSat : Prop :=
  ∀ (s : State) (e : Env) (cr : Crew) (sub : Bool), e.s = s → s.lanes.get? e.k = some e.l → e.l.exited = false →
    s.crews.get? (s.crewOf e.k) = some cr → e.k.idx ∈ cr.lanes →
    e.op.maj = (if sub then .isub else .iadd) → (e.op.typ = .s32 ∨ e.op.typ = .n32) → e.op.min.toNat ≤ 1 →
    let x (v : Word) : Int := if e.op.typ = .s32 then v.toInt else v.toNat
    let a := e.src e.op.fy
    let b := e.src e.op.fz
    let exact : Int := if sub then x a - x b else x a + x b
    let lo : Int := if e.op.typ = .s32 then -2147483648 else 0
    let hi : Int := if e.op.typ = .s32 then 2147483647 else 4294967295
    let sat := e.op.min.toNat == 1 && (decide (exact < lo) || decide (hi < exact))
    let v : Word := if sat then (if exact < lo then BitVec.ofInt 32 lo else BitVec.ofInt 32 hi) else if sub then a - b else a + b
    s.after (issueMaj e.op.maj [e]) = { s with
      lanes := s.lanes.set e.k (({ e.l.writes (dest e.op.fx [v]) with shortUntil := s.now + 4 } : Lane).issued (e.l.pc + 12) e.op.w),
      crews := if sat then s.crews.set (s.crewOf e.k) { cr with flags := cr.flags ||| 1#7 } else s.crews }

/-- Shifts of 32 bits by their whole 32-bit count (R135): CLAMP gives 0, or copies of the sign, from a count of 32 on, and MOD shifts by
the count modulo 32. -/
def Obligations.ShiftCounts : Prop :=
  ∀ (s : State) (e : Env), e.s = s → s.lanes.get? e.k = some e.l → (e.op.maj = .shl ∨ e.op.maj = .shr ∨ e.op.maj = .sar) →
    minTypOk e.op.maj e.op.min.toNat e.op.typ = true → e.op.typ.is64 = false →
    let n := (e.src e.op.fz).toNat
    let k := if e.op.min.toNat = 1 then n % 32 else n
    let a := e.src e.op.fy
    let v : Word := if e.op.maj = .shl then a <<< k else if e.op.maj = .shr then a >>> k else a.sshiftRight k
    s.after (issueMaj e.op.maj [e]) = { s with
      lanes := s.lanes.set e.k (({ e.l.writes (dest e.op.fx [v]) with shortUntil := s.now + 4 } : Lane).issued (e.l.pc + 12) e.op.w) }

/-- R133: IDIV and IREM are T-format majors of latency class L with one MIN, 0, and TYP in W; the quotient is truncated toward zero and the
remainder has the sign of a; division by zero and the overflowing division give the table's values and flags. The result is outstanding
until a later step writes it, with its flags. -/
def Obligations.DivideCorners : Prop :=
  (Maj.idiv.fmt = .t ∧ Maj.irem.fmt = .t ∧ Maj.idiv.lat = .l ∧ Maj.irem.lat = .l ∧
    ∀ mn t, (minTypOk .idiv mn t = true ↔ mn = 0 ∧ t.isW = true) ∧ (minTypOk .irem mn t = true ↔ mn = 0 ∧ t.isW = true)) ∧
  ∀ (s : State) (e : Env) (rem : Bool), e.s = s → s.lanes.get? e.k = some e.l → e.op.maj = (if rem then .irem else .idiv) →
    e.op.typ.isW = true →
    let t := e.op.typ
    let n := t.width
    let a := e.val t e.op.fy
    let b := e.val t e.op.fz
    let ovf : Bool := t.isSigned && a == -(2 ^ (n - 1) : Nat) && b == -1
    let q : Int :=
      if b = 0 then (if t.isSigned then (if a < 0 then -(2 ^ (n - 1) : Nat) else (2 ^ (n - 1) : Nat) - 1) else (2 ^ n : Nat) - 1)
      else if ovf then (2 ^ (n - 1) : Nat) - 1 else a.tdiv b
    let r : Int := if b = 0 then a else if ovf then 0 else a - a.tdiv b * b
    let f : BitVec 7 := if b = 0 then 8#7 else if ovf && !rem then 1#7 else 0
    s.after (issueMaj e.op.maj [e]) = { s with
      fresh := s.fresh + 1,
      lanes := s.lanes.set e.k (({ e.l with results := e.l.results ++ [
        { id := s.fresh, vals := some (dest e.op.fx (t.words (if rem then r else q))), flags := f, err := none, readyAt := s.now + 1,
          req := none, silent := decide (e.op.fx = .z) }] } : Lane).issued (e.l.pc + 12) e.op.w) }

/-- R234: the effective address is base + sext(index) + sext(LIT) modulo 2^64, with 0 for a base or an index of z, and an address with
bits [63:56] nonzero is caught by the probe of any access that is aligned to its size. -/
def Obligations.EffectiveAddress : Prop :=
  (∀ (e : Env) (base index : DWord),
    (e.op.fy = .z ∧ base = 0 ∨ (∃ n, e.op.fy = .g n ∧ base = e.l.reg (n.val + 1) ++ e.l.reg n.val) ∨
      (∃ n, e.op.fy = .k n ∧ base = e.kreg (n.val + 1) ++ e.kreg n.val)) →
    (e.op.fz = .z ∧ index = 0 ∨ (∃ n, e.op.fz = .g n ∧ index = (e.l.reg n.val).signExtend 64) ∨
      (∃ n, e.op.fz = .k n ∧ index = (e.kreg n.val).signExtend 64)) →
    e.ea = base + index + e.op.lit.signExtend 64) ∧
  ∀ (s : State) (ctx gang n : Nat) (va : DWord) (need : Need), 0 < n → va.toNat % n = 0 → va.extractLsb' 56 8 ≠ 0#8 →
    s.probeAligned ctx gang va n need = some (0x02, va)

/-! ### The control space and the commands of system software -/

/-- Settings (R427, R431, R437): while firmware runs, a write of QUANTUM, of CISTHW, of a route or of the nonce sets that register, held to
its range, and nothing else; a nonce also clears the attestation status. While firmware does not run nothing is written (R436).
WORK_QUEUE_CONFIG_WRITE (R429): a disabled, empty queue takes its whole configuration, with LGDEPTH held to 6 to 15 and SEQDIE to 5 and
reserved bits 0; a write with EN 0 disables an enabled queue; every other write is discarded. (That the write with EN 0 changes nothing else, and
that an out-of-range field takes the nearest end, are the model's readings, log 36; that an LGDEPTH of 0 stays 0, for a depth of 65,536, is its
choice, log 56.) -/
def Obligations.SettingsAreWritten : Prop :=
  (∀ s : State,
      (s.dev.up = true →
        (∀ c v, c < 576 → exec (.quantumWrite c v) s = .next (State.settled { s with
          cores := s.cores.set c { s.core c with quantumSet := if v = 0 then 1 else v } })) ∧
        (∀ cl v, cl < 144 → exec (.cisthwWrite cl v) s = .next (State.settled { s with
          clusters := s.clusters.set cl { s.cluster cl with cisthwSet := if v = 0 then 1 else if 4095#16 < v then 4095 else v } })) ∧
        (∀ d v, d < 256 → exec (.routeWrite d v) s = .next (State.settled { s with routes := s.routes.set d (v &&& 0x3FFFF#32) })) ∧
        (∀ n, exec (.attestationNonceWrite n) s = .next (State.settled { s with dev := { s.dev with nonce := n, attStatus := 0 } }))) ∧
      (s.dev.up = false → ∀ c v cl w d x n,
        exec (.quantumWrite c v) s = .next s.settled ∧ exec (.cisthwWrite cl w) s = .next s.settled ∧
        exec (.routeWrite d x) s = .next s.settled ∧ exec (.attestationNonceWrite n) s = .next s.settled)) ∧
  (∀ (s : State) (q : Nat) (v : BitVec 128), s.dev.up = true → q < 2048 →
      let w := s.wq q
      let depth : BitVec 4 := if v.extractLsb' 20 4 = 0#4 then 0 else if v.extractLsb' 20 4 < 6#4 then 6 else v.extractLsb' 20 4
      let die : BitVec 3 := if 5#3 < v.extractLsb' 28 3 then 5 else v.extractLsb' 28 3
      let cfg : BitVec 128 := 0#96 ++ v.extractLsb' 31 1 ++ die ++ v.extractLsb' 24 4 ++ depth ++ v.extractLsb' 19 1 ++ 0#7 ++ v.extractLsb' 0 12
      exec (.workQueueConfigWrite q v) s = .next (State.settled (
        if w.en = true then
          if v.getLsbD 31 = false then { s with queues := s.queues.set q { w with cfg := w.cfg &&& ~~~0x80000000#128 } } else s
        else if w.recs = [] then { s with queues := s.queues.set q { w with cfg := cfg } } else s)))

/-- Writes to the control space (R427, R430): a write of a whole register does what the step named for that register does: a fault answer (R391),
a pre-emption command (R399), an invalidation, STATE and the CI indices of a context (R366), a queue's configuration (R429), a route (R431), QUANTUM,
CISTHW and the nonce; a write of all the power settings (R435) or of the log ring (R433) sets them, each held to its range. A write of what is read
only, and one that is not of a whole register, or not aligned to its size, is discarded. (Which accesses are of whole registers is the model's
reading, log 36.) -/
def Obligations.ControlWritesAreTheNamedSteps : Prop :=
  ∀ s : State,
    (∀ c v, c < 576 → exec (.controlSpaceWrite (0x1000 + 2 * c) (bytesLE 2 v.toNat)) s = exec (.quantumWrite c v) s) ∧
    (∀ c v, c < 144 → exec (.controlSpaceWrite (0x2000 + 2 * c) (bytesLE 2 v.toNat)) s = exec (.cisthwWrite c v) s) ∧
    (∀ v, exec (.controlSpaceWrite 0x5000 (bytesLE 32 v.toNat)) s = exec (.attestationNonceWrite v) s) ∧
    (∀ q v, q < 2048 → exec (.controlSpaceWrite (0x10000 + 16 * q) (bytesLE 16 v.toNat)) s = exec (.workQueueConfigWrite q v) s) ∧
    (∀ d v, d < 256 → exec (.controlSpaceWrite (0x2000000000 + 4 * d) (bytesLE 4 v.toNat)) s = exec (.routeWrite d v) s) ∧
    (∀ c (st len : DWord), c < 4096 → exec (.controlSpaceWrite (0x1000040 + 4096 * c) (bytesLE 8 st.toNat ++ bytesLE 8 len.toNat)) s =
      exec (.translationInvalidation c st len) s) ∧
    (∀ c (fid : Word) (am rpc : DWord), c < 4096 →
      let page (a : Nat) (p : DWord) : Host.Outcome State Fault Refusal :=
        exec (.controlSpaceWrite (0x1000000 + 4096 * c) (bytesLE 32 (fid.toNat + a * 2 ^ 32 + am.toNat * 2 ^ 128 + p.toNat * 2 ^ 192))) s
      page 0 0 = exec (.faultAnswerRetry c fid am) s ∧ page 1 0 = exec (.faultAnswerTrap c fid am) s ∧
      page 2 0 = exec (.faultAnswerKill c fid am) s ∧ page 3 rpc = exec (.faultAnswerResumeat c fid am rpc) s) ∧
    (∀ c (t1 t2 : Half), c < 4096 →
      exec (.controlSpaceWrite (0x1000080 + 4096 * c) (bytesLE 8 (t1.toNat * 2 ^ 16 + t2.toNat * 2 ^ 32))) s = exec (.preemptStart c t1 t2) s ∧
      exec (.controlSpaceWrite (0x1000080 + 4096 * c) (bytesLE 8 1)) s = exec (.preemptResume c) s) ∧
    (∀ c, c < 4096 →
      (s.ctxs.get? c = none → exec (.controlSpaceWrite (0x100000 + 256 * c + 124) (bytesLE 4 1)) s = exec (.contextOpen c) s) ∧
      ∀ v, s.ctxs.get? c = some v → (v.state = 1 → exec (.controlSpaceWrite (0x100000 + 256 * c + 124) (bytesLE 4 2)) s = exec (.contextClose c) s) ∧
        (v.state ≠ 0 → ∀ ci : Word,
          exec (.controlSpaceWrite (0x100000 + 256 * c + 60) (bytesLE 4 ci.toNat)) s = exec (.contextCiWrite c .fault ci) s ∧
          exec (.controlSpaceWrite (0x100000 + 256 * c + 68) (bytesLE 4 ci.toNat)) s = exec (.contextCiWrite c .error ci) s ∧
          exec (.controlSpaceWrite (0x100000 + 256 * c + 76) (bytesLE 4 ci.toNat)) s = exec (.contextCiWrite c .completion ci) s)) ∧
    (s.dev.up = true → ∀ v : BitVec 256,
      exec (.controlSpaceWrite 0x3000 (bytesLE 32 v.toNat)) s = .next (State.settled { s with dev := { s.dev with
        pcap := BitVec.ofNat 12 (max 1200 (min 3600 (v.extractLsb' 0 12).toNat)), floor := BitVec.ofNat 8 (max 4 (min 20 (v.extractLsb' 32 8).toNat)),
        tlim := BitVec.ofNat 8 (max 20 (min 60 (v.extractLsb' 40 8).toNat)) } }) ∧
      exec (.controlSpaceWrite 0x4000 (bytesLE 32 v.toNat)) s = .next (State.settled { s with dev := { s.dev with
        relBase := v.extractLsb' 0 64, relSize := BitVec.ofNat 64 (max 6 (min 16 (v.extractLsb' 64 8).toNat)), relCi := v.extractLsb' 160 32 } })) ∧
    (∀ off bs x o, regAt off bs.length = some (x, o) →
      (x = .identity ∨ x = .status ∨ x = .report ∨ (∃ c, x = .invdone c) ∨ ∃ c i, x = .binding c i) →
      exec (.controlSpaceWrite off bs) s = .next s.settled) ∧
    ∀ off bs, regAt off bs.length = none → exec (.controlSpaceWrite off bs) s = .next s.settled

/-- The report over a new nonce (R437): it is 4,096 bytes, the identity block and the nonce first, and its status becomes 1. -/
def Obligations.ReportHoldsIdentityAndNonce : Prop :=
  ∀ s : State, s.dev.up = true → s.dev.attStatus = 0 → ∃ rep : List Byte,
    exec .attestationReportReady s = .next (State.settled { s with dev := { s.dev with attStatus := 1, report := rep } }) ∧
    rep.length = 4096 ∧ rep.take 64 = bytesLE 64 s.identity ∧ (rep.drop 64).take 32 = bytesLE 32 s.dev.nonce.toNat

/-- The context table (R298, R366): opening makes a free context open; a CI write moves that ring's consumer index alone; closing an open
context on which nothing is resident makes it resetting, ends its pre-emption command and reports ECODE 0x30 with a count of 0; freeing a
resetting context on which nothing is resident makes it free and not pre-empted, with an empty binding table. Pre-emption (R399): PREEMPT_START and PREEMPT_RESUME of an
open context set its stage and its times, with a T2 below T1 taken as T1; T1's expiry begins the park stage, which is over when no workgroup
of the context is active; T2's expiry in that stage, while a workgroup is not parked yet, resets the context as closing an open context does (R366,
R401): its lanes end, its records leave the cisterns, what its fault records held is held no longer, and ECODE 0x30 reports its gangs that have not
ended. -/
def Obligations.ContextsOpenAndClose : Prop :=
  ((∀ (s : State) (c : Nat), s.dev.up = true → c < 4096 →
      ((s.ctx c).state = 0 → exec (.contextOpen c) s = .next (State.settled { s with ctxs := s.ctxs.set c { s.ctx c with state := 1 } })) ∧
      ∀ r ci, exec (.contextCiWrite c r ci) s = .next (State.settled { s with ctxs := s.ctxs.set c (match r with
        | .fault => { s.ctx c with fqci := ci }
        | .error => { s.ctx c with eqci := ci }
        | .completion => { s.ctx c with cqci := ci }) })) ∧
    ∀ (s : State) (c : Nat) (v : Ctx), s.ctxs.get? c = some v → Vacant s c →
      (v.state = 1 → v.faults = [] → s.dev.up = true → exec (.contextClose c) s = .next (State.settled (
        ({ s with ctxs := s.ctxs.set c { v with state := 2, pre := none, preempt := if v.preempt = 0 then 0 else 2 } } : State).after
          (writeError { ecode := 0x30, ctx := c, cnt := 0 })))) ∧
      (v.state = 2 → exec (.contextFree c) s = .next (State.settled { s with ctxs := s.ctxs.set c { v with state := 0, preempt := 0, binds := [] } }))) ∧
  (∀ (s : State) (c : Nat) (v : Ctx), s.ctxs.get? c = some v → v.state = 1 →
      (∀ t1 t2, s.dev.up = true → v.preempt = 0 → exec (.preemptStart c t1 t2) s = .next (State.settled { s with
        ctxs := s.ctxs.set c { v with preempt := 1, pre := some (s.now, t1.toNat, if t2 < t1 then t1.toNat else t2.toNat) } })) ∧
      (s.dev.up = true → v.preempt ≠ 0 → exec (.preemptResume c) s = .next (State.settled { s with
        ctxs := s.ctxs.set c { v with preempt := 0, pre := none } })) ∧
      (∀ t0 t1 t2, v.pre = some (t0, t1, t2) → v.preempt = 1 → t0 + 1200 * t1 ≤ s.now →
        (∀ w ∈ s.wgs, ∀ x, s.wgs.get? w.1 = some x → x.ctx = c → x.active = false ∧ x.parking = false) → (Map.keys s.wgs).Nodup →
        exec (.preemptT1Expiry c) s = .next (State.settled { s with ctxs := s.ctxs.set c { v with preempt := 2, pre := none } })) ∧
      let u := s.after (resetContext c)
      (s.dev.up = true → exec (.contextClose c) s = .next u.settled) ∧
      (∀ t0 t1 t2, v.pre = some (t0, t1, t2) → v.preempt = 2 → t0 + 1200 * t2 ≤ s.now → exec (.preemptT2Expiry c) s = .next u.settled) ∧
      (∃ x, u.ctxs.get? c = some x ∧ x.state = 2 ∧ x.pre = none ∧ x.preempt = (if v.preempt = 0 then 0 else 2) ∧
        ∀ f ∈ x.faults, f.fid = none ∧ f.held = [] ∧ f.cmd = none) ∧
      (∃ y : State, u = y.after (writeError { ecode := 0x30, ctx := c, cnt := (s.gangs.filter fun g => g.2.ctx == c && !g.2.ended).length })) ∧
      (∀ w ∈ s.wgs, w.2.ctx = c → ∀ k ∈ s.wgLanes w.1, ∀ l, u.lanes.get? k = some l → l.exited = true) ∧
      ∀ e ∈ s.clusters, ∀ r ∈ (u.cluster e.1).cistern, r.ctx ≠ c)

/-- Records (R297, R298): a record goes to its ring's next slot and the producer index moves on, with the vector sent when it is enabled; an
error record that finds no room is counted in LOSTERR, and a completion record that finds none waits behind those that wait.
RING_RECORD_WRITE (R298, R388): with room in its ring the oldest waiting completion record is written; the oldest waiting fault record is
written to the ring, its head with the FID, and its detail block behind the ring, and gets the next FID (as of when it is written: the record of a
command whose issuer has exited by then says so, with MASK 0); a record that holds no lane and no command closes; an error record never waits. No
other byte of memory changes. -/
def Obligations.RecordsAreWritten : Prop :=
  (∀ (s : State) (c : Nat) (v : Ctx), s.ctxs.get? c = some v →
      (∀ (e : ErrRec), e.ctx = c →
        s.after (writeError e) = if v.room .error then
          { s with mem := (s.after (storeBytes (v.eqb.toNat + v.eqpi.toNat % 2 ^ v.eqs.toNat * 64) (bytesLE 64 (e.word v.losterr.toNat)))).mem,
                   ctxs := s.ctxs.set c (v.bump .error) }
        else { s with ctxs := s.ctxs.set c { v with losterr := v.losterr + 1 } }) ∧
      (∀ n, s.after (writeCompletion c n) = if v.room .completion && v.cwait.isEmpty then
          { s with mem := (s.after (storeBytes (v.cqb.toNat + v.cqpi.toNat % 2 ^ v.cqs.toNat * 64) (bytesLE 64 n))).mem,
                   ctxs := s.ctxs.set c (v.bump .completion) }
        else { s with ctxs := s.ctxs.set c { v with cwait := v.cwait ++ [BitVec.ofNat 512 n] } }) ∧
      (∀ r, (v.bump r).irqs = (if (v.ring r).2.2.2.2.getLsbD 15 then (v.ring r).2.2.2.2.extractLsb' 0 11 :: v.irqs else v.irqs) ∧
        ((v.bump r).ring r).2.2.1 = (v.ring r).2.2.1 + 1)) ∧
  (∀ (s : State) (c : Nat) (v : Ctx), s.ctxs.get? c = some v →
      (∀ x rest, v.cwait = x :: rest → v.room .completion = true → exec (.ringRecordWrite c .completion) s = .next (State.settled { s with
        mem := (s.after (storeBytes (v.cqb.toNat + v.cqpi.toNat % 2 ^ v.cqs.toNat * 64) (bytesLE 64 x.toNat))).mem,
        ctxs := s.ctxs.set c (Ctx.bump { v with cwait := rest } .completion) })) ∧
      (∀ f, v.faults.find? (fun f => f.fid.isNone) = some f → v.room .fault = true → exec (.ringRecordWrite c .fault) s =
        .next (State.settled { s with mem := s.recordMem v f, ctxs := s.ctxs.set c { v.bump .fault with
          faults := (v.faults.map fun g => if g.num = f.num then { g with fid := some v.fqpi } else g).filter fun g =>
            g.num != f.num || g.cmd.isSome || !g.held.isEmpty } }) ∧
        (Memory.wf s.mem → s.dev.moved = [] →
          let head := v.fqb.toNat + v.fqpi.toNat % 2 ^ v.fqs.toNat * 64
          let detail := v.fqb.toNat + 2 ^ v.fqs.toNat * 64 + v.fqpi.toNat % 2 ^ v.fqs.toNat * 1024
          let t : State := { s with mem := s.recordMem v f }
          t.bytes head 64 = bytesLE 64 (f.headNow s + v.fqpi.toNat * 2 ^ 160) ∧
          (∀ d ∈ f.detailNow s, d.1 < 64 → ((f.detailNow s).map (·.1)).Nodup → t.bytes (detail + 16 * d.1) 16 = bytesLE 16 (d.2.1.toNat + d.2.2 * 2 ^ 64)) ∧
          ∀ a, (a < head ∨ head + 64 ≤ a) → (a < detail ∨ detail + 1024 ≤ a) → Memory.read t.mem a = Memory.read s.mem a)) ∧
      (∀ f : FaultRec, f.issuer.any s.gone = false → f.headNow s = f.head.toNat ∧ f.detailNow s = f.detail) ∧
      (∀ f : FaultRec, f.issuer.any s.gone = true → f.headNow s / 2 ^ 320 % 2 ^ 64 = 0 ∧ (f.headNow s).testBit 15 = true ∧ f.detailNow s = []) ∧
      exec (.ringRecordWrite c .error) s = .next s.settled)

/-- Answers to fault records (R391). RETRY and RESUMEAT: of the lanes that a record holds, those in AMASK leave it and the fault park with an empty
latch and present their instructions afresh, at the PC given for RESUMEAT, and a record that holds no lane any more closes; every other lane and
every other context stays as it is. RESUMEAT of a trap lane of a KIND 8 record also ends its trap (R395); at a misaligned PC RESUMEAT moves no
lane: one that the record holds leaves it and fault-parks anew where it stands, with the PC in its record (R27; the reading is log 32). KILL
(R410): the answered lanes leave the record, stay parked, and the gang's kill is decided, for the PC of the record. TRAP (R392): a lane that a
record of a KIND below 7 holds takes the trap of class 3, with the lane's cause in TCAUSE, at its handler; of a KIND from 7 on it is ignored.
Of a KIND 4 to 6 record, RETRY lets the stopped loop, readout or command go on and closes the record, KILL closes it and decides the gang's
kill, TRAP and RESUMEAT are ignored. An answer to a closed FID is ignored, and one to lanes of a parked workgroup waits for its activation. -/
def Obligations.AnswersActOnLanes : Prop :=
  let free (v : Ctx) (p : LaneId → Bool) : Ctx := { v with
    faults := (v.faults.map fun g => { g with held := g.held.filter fun h => !p h.1 }).filter fun g => g.fid.isNone || g.cmd.isSome || !g.held.isEmpty }
  (∀ (s : State) (c : Nat) (v : Ctx) (f : FaultRec) (fid : Word) (amask : DWord) (w : Wg), s.dev.up = true → s.ctxs.get? c = some v →
      v.faults.find? (fun f => f.fid == some fid) = some f → f.cmd = none → s.wgs.get? f.wg = some w → w.active = true →
      (∀ h ∈ f.held, s.ctxOf h.1 = c) →
      let held (k : LaneId) : Bool := f.held.any fun h => decide (h.1 = k) && amask.getLsbD h.2.1
      let cs := if f.answered amask = [] then s.ctxs else s.ctxs.set c (free v held)
      (∃ t : State, exec (.faultAnswerRetry c fid amask) s = .next t.settled ∧ t = { s with ctxs := cs, lanes := t.lanes } ∧
        ∀ k, t.lanes.get? k = (s.lanes.get? k).map fun l => if held k then { l with
          latch := none, heldBy := none, parks := { l.parks with fault := false, trap := if l.trapLane then false else l.parks.trap } } else l) ∧
      (∀ rpc, f.kind ≠ 8 → rpc.toNat % 4 = 0 → ∃ t : State, exec (.faultAnswerResumeat c fid amask rpc) s = .next t.settled ∧
        t = { s with ctxs := cs, lanes := t.lanes } ∧
        ∀ k, t.lanes.get? k = (s.lanes.get? k).map fun l => if held k then { l with
          pc := rpc, latch := none, heldBy := none, parks := { l.parks with fault := false } } else l) ∧
      (∀ rpc k cause l, f.kind = 8 → rpc.toNat % 4 = 0 → f.answered amask = [(k, cause)] → s.lanes.get? k = some l → l.trapLane = true →
        exec (.faultAnswerResumeat c fid amask rpc) s = .next (State.settled (({ s with
          ctxs := cs,
          lanes := s.lanes.set k { l with
            pc := rpc, latch := none, heldBy := none, trapLane := false, parks := { l.parks with fault := false, trap := false } } } : State).after
              (closeTrap (s.crewOf k))))) ∧
      (∀ rpc k cause, rpc.toNat % 4 ≠ 0 → f.answered amask = [(k, cause)] → exec (.faultAnswerResumeat c fid amask rpc) s =
        .next (State.settled ((s.after (leaveRecord k)).after (faultRecord 2 0 [⟨k, 0x07, rpc⟩])))) ∧
      (f.answered amask = [] → exec (.faultAnswerKill c fid amask) s = .next s.settled) ∧
      (∀ g, f.answered amask ≠ [] → s.gangs.get? f.gang = some g → g.ended = false → g.kill = none → ∃ t : State,
        exec (.faultAnswerKill c fid amask) s = .next t.settled ∧
        t = { s with ctxs := cs, lanes := t.lanes, gangs := s.gangs.set f.gang { g with kill := some f.pc } } ∧
        ∀ k, t.lanes.get? k = (s.lanes.get? k).map fun l => if held k then { l with heldBy := none } else l) ∧
      (7 ≤ f.kind → exec (.faultAnswerTrap c fid amask) s = .next s.settled) ∧
      ∀ k cause l cr, f.kind < 7 → f.answered amask = [(k, cause)] → s.lanes.get? k = some l → s.crews.get? (s.crewOf k) = some cr →
        s.trapOpen (s.crewOf k) = false → s.handler c 3 ≠ 0 → s.handler c 3 % 4 = 0 →
        exec (.faultAnswerTrap c fid amask) s = .next (State.settled { s with
          ctxs := cs,
          lanes := s.lanes.set k { l with latch := none, heldBy := none, parks := { l.parks with fault := false },
                                          pc := BitVec.ofNat 64 (s.handler c 3), trapLane := true },
          crews := s.crews.set (s.crewOf k) { cr with tpc := l.pc, tcause := BitVec.ofNat 32 (cause % 256 * 256 + 3) } })) ∧
  (∀ (s : State) (c : Nat) (v : Ctx) (f : FaultRec) (fid : Word) (amask rpc : DWord) (unit id : Nat), s.dev.up = true → s.ctxs.get? c = some v →
      v.faults.find? (fun f => f.fid == some fid) = some f → f.cmd = some (unit, id) →
      exec (.faultAnswerRetry c fid amask) s = .next (State.settled ((s.after (if f.kind = 6 then updCmd unit id fun m => { m with stopped := none }
        else updCore unit fun q => { q with mq := q.mq.map fun m => if m.id = id then { m with stopped := none } else m })).after
          (closeRecord c f.num))) ∧
      (∀ g, s.gangs.get? f.gang = some g → g.ended = false → g.kill = none → exec (.faultAnswerKill c fid amask) s = .next (State.settled
        { s.after (closeRecord c f.num) with gangs := s.gangs.set f.gang { g with kill := some f.pc } })) ∧
      exec (.faultAnswerTrap c fid amask) s = .next s.settled ∧ exec (.faultAnswerResumeat c fid amask rpc) s = .next s.settled) ∧
  (∀ (s : State) (c : Nat) (v : Ctx) (num : Nat), s.ctxs.get? c = some v → (∀ g ∈ v.faults, g.num = num → g.fid ≠ none) →
      s.after (closeRecord c num) = { s with ctxs := s.ctxs.set c { v with faults := v.faults.filter fun g => g.num != num } }) ∧
  (∀ (s : State) (c : Nat) (fid : Word) (amask rpc : DWord), (∀ v, s.ctxs.get? c = some v → ∀ f ∈ v.faults, f.fid ≠ some fid) →
      exec (.faultAnswerRetry c fid amask) s = .next s.settled ∧ exec (.faultAnswerTrap c fid amask) s = .next s.settled ∧
      exec (.faultAnswerKill c fid amask) s = .next s.settled ∧ exec (.faultAnswerResumeat c fid amask rpc) s = .next s.settled) ∧
  ∀ (s : State) (c : Nat) (v : Ctx) (f : FaultRec) (fid : Word) (amask rpc : DWord) (w : Wg), s.dev.up = true → s.ctxs.get? c = some v →
      v.faults.find? (fun f => f.fid == some fid) = some f → f.cmd = none → s.wgs.get? f.wg = some w → w.active = false →
      let waits (a : Nat) (p : DWord) : Host.Outcome State Fault Refusal :=
        .next (State.settled { s with wgs := s.wgs.set f.wg { w with answers := w.answers ++ [(f.num, amask, a, p)] } })
      exec (.faultAnswerRetry c fid amask) s = waits 0 0 ∧ exec (.faultAnswerTrap c fid amask) s = waits 1 0 ∧
      exec (.faultAnswerKill c fid amask) s = waits 2 0 ∧ exec (.faultAnswerResumeat c fid amask rpc) s = waits 3 rpc

/-- TRANSLATION_INVALIDATION and its completion (R361, R430): an aligned range joins the invalidations of its context, whatever the context's state.
When the oldest begins to act, the dirty lines of the L1s go home, no leaf entry whose page meets its range is cached any more, and it waits for
what older entries led to and has not been performed: write-backs, requests of the context that reach into the range, sluice requests and
releases; it completes with INVDONE one more when there is nothing to wait for; one that waits completes likewise once that is over, and until
then it stays as it is. After each the pieces that nothing names any more are retired (R271, R362; the moment is the model's reading, log 20). -/
def Obligations.InvalidationWaitsForAccesses : Prop :=
  (∀ (s : State) (c : Nat) (start len : DWord), s.dev.up = true → c < 4096 → start.toNat % 65536 = 0 → len.toNat % 65536 = 0 →
      exec (.translationInvalidation c start len) s = .next (State.settled { s with
        ctxs := s.ctxs.set c { s.ctx c with invals := (s.ctx c).invals ++ [{ start := start, len := len, after := none }] } })) ∧
  ∀ (s : State) (c : Nat) (v : Ctx) (i : Inval) (rest : List Inval), s.ctxs.get? c = some v → v.invals = i :: rest →
    (i.after = none → let u := s.after writeBackAll
      let ids := u.underWay c i
      let tlb := v.tlb.filter fun e => !i.meets e
      exec (.invalidationComplete c) s = .next (State.settled (({ u with ctxs := s.ctxs.set c { v with
        tlb := tlb, invals := if u.over_ ids then rest else { i with after := some ids } :: rest,
        invdone := if u.over_ ids then v.invdone + 1 else v.invdone } } : State).after retireMoved)) ∧
      (∀ r ∈ u.reqs, r.done = false → ((∃ a ∈ r.acc, a.op.isWback = true) ∨ r.ctx = c ∧ ∃ a ∈ r.acc, i.len = 0 ∨
        i.start.toNat < a.va.toNat + a.size ∧ a.va.toNat < i.start.toNat + i.len.toNat) → r.id ∈ ids) ∧
      (∀ r ∈ u.slreqs, u.ctxOf r.lane = c → (i.len = 0 ∨ i.start.toNat < r.va.toNat + 16 ∧ r.va.toNat < i.start.toNat + i.len.toNat) → r.id ∈ ids) ∧
      (∀ r ∈ u.slrels, u.ctxOf r.lane = c → r.id ∈ ids) ∧
      ∀ t, t ∈ tlb ↔ t ∈ v.tlb ∧ i.len ≠ 0 ∧ let n := 2 ^ pageBits (t.2.extractLsb' 2 2).toNat
        (t.1 * 65536 / n * n + n ≤ i.start.toNat ∨ i.start.toNat + i.len.toNat ≤ t.1 * 65536 / n * n)) ∧
    ∀ ids, i.after = some ids → exec (.invalidationComplete c) s = .next (State.settled (({ s with
      ctxs := if s.over_ ids then s.ctxs.set c { v with invals := rest, invdone := v.invdone + 1 } else s.ctxs } : State).after retireMoved))

/-- HEADGATE_WRITE (R334): a whole aligned record to an enabled queue of an open context with room joins it; without room, or not a
whole record, or to a disabled queue, it counts in DROPS, and the context is told when it is open (R366; that a bad write for a context that is not
open leaves no record is the model's reading, log 29). -/
def Obligations.HeadgateTakesWholeRecords : Prop :=
  ∀ (s : State) (q off : Nat) (bs : List Byte), s.dev.up = true → q < 2048 → off < 4096 →
    let w := s.wq q
    let lost : State := { s with queues := s.queues.set q { w with drops := w.drops + 1 } }
    exec (.headgateWrite q off bs) s = .next (State.settled (
      if bs.length ≠ 64 ∨ off % 64 ≠ 0 ∨ w.en = false then
        (if s.isOpen w.ctx then lost.after (writeError { ecode := 0x29, ctx := w.ctx, cnt := q }) else lost)
      else if s.isOpen w.ctx = false then lost
      else if w.recs.length < w.depth then { s with queues := s.queues.set q { w with recs := w.recs ++ [(BitVec.ofNat 512 (natLE bs), [])] } }
      else lost.after (writeError { ecode := 0x28, ctx := w.ctx, cnt := q })))

/-- DEVICE_RESET (R436): the first acceptable image of primary and secondary runs, one whose container is linked and verifies under the root
keys, and whose version, the word at the start of its first section, is at least the fused one; memory outside the device, the device number, the least
version, the retired frames and the repaired rows stay, and everything else returns to its reset value. Repaired rows that were recorded for
hard repair are no longer soft-repaired; the SHA-256 of the accepted image is kept for the report (R437). (What a reset keeps is the model's
reading, log 28; that the order count, a number of the model's own, stays is its choice.) -/
def Obligations.ResetReturnsAll : Prop :=
  (∀ (x : FwImage) (least v : Word), fwVersion x least = some v ↔ ∃ o, readObj x.file = .ok o ∧ o.linked = true ∧
    o.trusted x.file [Config.rootKeys.1] [Config.rootKeys.2] = true ∧ (∃ y rest, o.secs = y :: rest ∧ 4 ≤ y.data.length ∧
      v = BitVec.ofNat 32 (numAt y.data 0 4)) ∧ least.toNat ≤ v.toNat) ∧
  ∀ (s : State) (primary secondary : Option FwImage),
    let version (x : Option FwImage) : Option Word := x.bind fun x => fwVersion x s.dev.fwmin
    let img : Option Word := if (version primary).isSome then version primary else version secondary
    let taken : Option FwImage := if (version primary).isSome then primary else if (version secondary).isSome then secondary else none
    exec (.deviceReset primary secondary) s = .next (State.settled { State.reset with
      tick := s.tick, now := s.now, agenda := s.agenda, fresh := s.fresh,
      mem := s.mem.filter fun c => decide (2 ^ 52 ≤ c.1 ∧ c.1 < 2 ^ 54) || decide (c.1 < 2 ^ 52 ∧ c.1 / 2 ^ 44 ≠ s.dev.devno.toNat),
      dev := { Dev.reset with
        devno := s.dev.devno, fwmin := s.dev.fwmin, up := img.isSome, fwver := img.getD 0, resetAt := s.now,
        measured := taken.toList.map fun x => BitVec.ofNat 256 (natLE (sha256 x.file)),
        retired := s.dev.retired, softRepaired := s.dev.softRepaired.filter fun r => !s.dev.hardRepairs.contains r, order := s.dev.order } })

/-! ### Links and power -/

/-- Links (R431): a link that is up goes down at the 17th failure in a row of one flit, recorded as event 0x06, and what fails before that
is only counted (whether a failure is of the flit that failed before is a free value); training of a link that is down is tried once every 1
ms, and a link that has been trained comes up after 100 µs without a failure, recorded as event 0x07. REMOTE_ACCESS_TIMEOUT (R432): a held
request whose device cannot be reached for 10 ms ends: its loads and returning atomics consume poison, its stores and no-return atomics are
reported (R432); that its prefetches end in silence, and that what RPRESM, a matrix unit or an engine was to read is reported and arrives as
zeros, is the model's reading (log 19). -/
def Obligations.LinksGoDownAndUp : Prop :=
  (∀ (s : State) (n : Nat), s.dev.up = true → n < 18 →
      let l := s.link n
      (l.up = true → ∃ r, (r = 1 ∨ r = l.resends + 1) ∧ exec (.flitCrcFailure n) s = .next (State.settled (
        if r < 17 then { s with links := s.links.set n { l with resends := r } }
        else ({ s with links := s.links.set n { l with up := false, resends := 0, cleanSince := none, triedAt := s.now } } : State).after
          (writeLog 0x06 n)))) ∧
      (∀ ok, l.up = false → l.cleanSince = none → l.triedAt + 1200000 ≤ s.now → exec (.linkTrainingAttempt n ok) s =
        .next (State.settled { s with links := s.links.set n { l with triedAt := s.now, cleanSince := if ok then some s.now else none } })) ∧
      (∀ t, l.up = false → l.cleanSince = some t → t + 120000 ≤ s.now → exec (.linkUp n) s = .next (State.settled (
        ({ s with links := s.links.set n { l with up := true, resends := 0, cleanSince := none } } : State).after (writeLog 0x07 n))))) ∧
  (∀ (s : State) (r : Req) (d : Nat), s.reqs.find? (fun q => q.id == r.id) = some r → r.home = .remote d → r.st = .held →
      s.reach (.remote d) = false → r.acceptedAt + 12000000 ≤ s.now →
      exec (.remoteAccessTimeout r.id) s = .next (State.settled (({ s with reqs := s.reqs.filter fun q => q.id != r.id } : State).after
        (Act.each r.acc fun a => match a.op with
          | .load _ _ _ | .rmw _ _ _ _ (some _) => consumePoison a (s.now + 1) none
          | .prefetch => Act.skip
          | .snap dst n => Act.all [writeError (s.errOf a.lane 0x01 a.pc.toNat a.va.toNat), storeBytes dst (List.replicate n 0)]
          | .unitRead u => Act.all [writeError (s.errOf a.lane 0x01 a.pc.toNat a.va.toNat),
              let zeros : List Byte × Nat := (List.replicate 128 0, s.now + 1)
              match u with
              | .matrix core cmd => updCore core fun c => { c with mq := c.mq.map fun m =>
                  if m.id = cmd then { m with got := m.got.set r.line zeros } else m }
              | .engine cl cmd slot => updCluster cl fun c => { c with cmds := c.cmds.map fun m =>
                  if m.id = cmd then { m with got := m.got.set slot ((m.got.getD slot []).set r.line zeros) } else m }
              | _ => Act.skip]
          | _ => writePoison a))))

/-- POWER_PERIOD (R435): where the clusters together ask for no more than the budget has left above the floors, none loses a cycle; else a
cluster that asks for d above the floor loses the least number of every 64 cycles that pays its part; nothing else of a cluster changes.
Before 10 µs have passed since the last division nothing happens. (How the part is shared is the model's choice, log 24.) -/
def Obligations.PowerIsDivided : Prop :=
  (∀ (s : State) (inlet fixed : Nat) (demand : List Nat) (t : Nat), s.dev.powerAt = some t → s.now < t + 12000 →
    exec (.powerPeriod inlet fixed demand) s = .next s.settled) ∧
  ∀ (s : State) (inlet fixed : Nat) (demand : List Nat), s.dev.up = true → (∀ t, s.dev.powerAt = some t → t + 12000 ≤ s.now) →
    let floor := s.dev.floor.toNat
    let left := s.dev.pcap.toNat - 100 * (inlet - s.dev.tlim.toNat) - fixed - 144 * floor
    let d (cl : Nat) : Nat := (demand[cl]?).getD 0
    let sum := ((List.range 144).map fun cl => d cl - floor).foldl (· + ·) 0
    ∃ t : State, exec (.powerPeriod inlet fixed demand) s = .next t.settled ∧
      t = { s with clusters := t.clusters, dev := { s.dev with modpwr := t.dev.modpwr, powerAt := some s.now } } ∧
      ∀ cl, t.cluster cl = if cl < 144 then { s.cluster cl with
        cut := if sum ≤ left ∨ d cl ≤ floor then 0 else (64 * ((d cl - floor) * (sum - left)) + sum * d cl - 1) / (sum * d cl) }
        else s.cluster cl

/-! ### Faults and traps -/

/-- A fault record of one lane (R388, R391): the lane fault-parks, held by a new record with the lane's cause, address and PC; with room in the ring
and none waiting before it the record is written at once, its head and its detail block, and open under the next FID; with room and an earlier one
waiting, that one is written and the new one waits; without room it waits without an FID, and memory stays. (`cycle` is a note of the model's own,
log 60.) -/
def Obligations.FaultRecordParksLane : Prop :=
  ∀ (s : State) (k : LaneId) (l : Lane) (c : Nat) (v : Ctx) (kind aux cause : Nat) (addr : DWord), s.lanes.get? k = some l →
    s.ctxOf k = c → s.ctxs.get? c = some v → (∀ f ∈ v.faults, f.num < s.fresh) → cause < 256 →
    let f : FaultRec := {
      num := s.fresh, fid := none, kind := kind, gang := s.gangOf k, wg := k.wg, held := [(k, s.slot k, addr, cause)], pc := l.pc, cmd := none,
      head := faultHead s k.wg (s.pslot k) kind cause aux addr (2 ^ s.slot k) l.pc false, detail := [(s.slot k, addr, cause)],
      issuer := none, cycle := s.now }
    let t (m : List Host.Cell) (x : Ctx) : State := { s with
      fresh := s.fresh + 1, mem := m, ctxs := s.ctxs.set c x,
      lanes := s.lanes.set k { l with parks := { l.parks with fault := true }, heldBy := some s.fresh } }
    (v.room .fault = true → (∀ g ∈ v.faults, g.fid ≠ none) → s.after (faultRecord kind aux [⟨k, cause, addr⟩]) =
      t (s.recordMem v f) { v.bump .fault with faults := v.faults ++ [{ f with fid := some v.fqpi }] }) ∧
    (∀ g, v.room .fault = true → v.faults.find? (fun g => g.fid.isNone) = some g → s.after (faultRecord kind aux [⟨k, cause, addr⟩]) =
      t (s.recordMem v g) { v.bump .fault with
        faults := ((v.faults.map fun h => if h.num = g.num then { h with fid := some v.fqpi } else h).filter fun h =>
          h.num != g.num || h.cmd.isSome || !h.held.isEmpty) ++ [f] }) ∧
    (v.room .fault = false → s.after (faultRecord kind aux [⟨k, cause, addr⟩]) = t s.mem { v with faults := v.faults ++ [f] })

/-- Traps (R180, R392 to R394): with no trap open, a lane that raises one goes on at the handler of its class as a trap lane, TPC and TCAUSE of
its crew are written, and nothing else changes; without a handler it fault-parks in a KIND 7 record, at a misaligned one in a KIND 2 record;
while a trap of its crew is open a lane that raises one parks trap-pending, and a trap lane fault-parks with it in a KIND 8 record (R395). -/
def Obligations.TrapIsTaken : Prop :=
  ∀ (s : State) (r : Raise) (l : Lane) (cr : Crew), s.lanes.get? r.lane = some l → s.crews.get? (s.crewOf r.lane) = some cr →
    let h := s.handler (s.ctxOf r.lane) r.cls
    (s.trapOpen (s.crewOf r.lane) = false → h ≠ 0 → h % 4 = 0 → s.after (raiseTraps [r]) = { s with
      crews := s.crews.set (s.crewOf r.lane) { cr with
        tpc := r.resume, tcause := BitVec.ofNat 32 (r.info % 65536 * 65536 + r.cause % 256 * 256 + r.cls % 256) },
      lanes := s.lanes.set r.lane { l with pc := BitVec.ofNat 64 h, latch := none, trapLane := true } }) ∧
    (s.trapOpen (s.crewOf r.lane) = false → h = 0 → s.after (raiseTraps [r]) = s.after (faultRecord 7 r.cls [⟨r.lane, 0x40, l.pc⟩])) ∧
    (s.trapOpen (s.crewOf r.lane) = false → h % 4 ≠ 0 →
      s.after (raiseTraps [r]) = s.after (faultRecord 2 0 [⟨r.lane, 0x07, BitVec.ofNat 64 h⟩])) ∧
    (s.trapOpen (s.crewOf r.lane) = true →
      let u : State := { s with lanes := s.lanes.set r.lane { l with parks := { l.parks with trap := true } } }
      (l.trapLane = false → s.after (raiseTraps [r]) = u) ∧
      (l.trapLane = true → s.after (raiseTraps [r]) = u.after (faultRecord 8 0 [⟨r.lane, 0x41, l.pc⟩])))

/-- TRET (R181) without W: a trap lane goes on at its crew's TPC and is one no longer, and when no trap lane of the crew is left its lanes in the
trap park leave it; at a misaligned TPC, and in a lane that is no trap lane, it fault-parks and nothing else changes. The transfers (R175, R176)
BRA, BRX, CALL, CALLX and RET: the lane goes on at the target, CALL and CALLX first writing the link, and nothing else changes; at a target that is
no multiple of 4 (R27) it fault-parks at the transfer and no link is written. EXIT (R177), of a lane that holds no sluice, waits for none, has no
region open, is no trap lane and has no detected error outstanding: the lane has exited, in no park, its results discarded, and leaves the overdue
order; with W it parks first and is to exit. -/
def Obligations.TrapReturns : Prop :=
  (∀ (s : State) (e : Env), e.s = s → s.lanes.get? e.k = some e.l → e.op.maj ∈ [Maj.bra, Maj.brx, Maj.call, Maj.callx, Maj.ret] →
    let target : DWord := if e.op.maj = .bra ∨ e.op.maj = .call then e.l.pc + 12 + e.op.lit.signExtend 64 else e.src64 .n64 e.op.fy
    (target.toNat % 4 ≠ 0 → s.after (issueMaj e.op.maj [e]) = s.after (faultRecord 2 0 [⟨e.k, 0x07, target⟩])) ∧
    (target.toNat % 4 = 0 → e.op.fx = .z → s.after (issueMaj e.op.maj [e]) = { s with lanes := s.lanes.set e.k (e.l.issued target e.op.w) }) ∧
    ∀ n, target.toNat % 4 = 0 → e.op.fx = .g n → s.after (issueMaj e.op.maj [e]) = { s with
      lanes := s.lanes.set e.k (({ e.l.writes (dest e.op.fx [(e.l.pc + 12).setWidth 32, ((e.l.pc + 12) >>> 32).setWidth 32]) with
        shortUntil := s.now + 4 } : Lane).issued target e.op.w) }) ∧
  (∀ (s : State) (e : Env), e.s = s → s.lanes.get? e.k = some e.l → e.op.maj = .exit → e.l.exited = false →
    (e.op.w = true → s.after (issueMaj e.op.maj [e]) = { s with lanes := s.lanes.set e.k { e.l.issued (e.l.pc + 12) true with exiting := true } }) ∧
    (e.op.w = false → e.l.holds = [] → e.l.regions = [] → e.l.trapLane = false → (∀ x ∈ e.l.results, x.err = none) → (∀ r ∈ s.slreqs, r.lane ≠ e.k) →
      let p := (s.coreOf e.k, s.pslot e.k)
      s.after (issueMaj e.op.maj [e]) = { s with
        pelotons := s.pelotons.set p { s.peloton p.1 p.2 with overdue := (s.peloton p.1 p.2).overdue.filter (· != e.k) },
        lanes := s.lanes.set e.k { e.l with
          exited := true, exiting := false, latch := none, parks := Parks.none, results := [], arrived := [], err := none, undoUse := 0, heldBy := none,
          arriving := e.l.arriving.filter fun a => match a with | .barrier _ _ _ => false | .weir .. => true } })) ∧
  ∀ (s : State) (e : Env) (l : Lane) (cr : Crew), e.s = s → s.lanes.get? e.k = some l → s.crews.get? (s.crewOf e.k) = some cr → e.op.w = false →
    (l.trapLane = true → cr.tpc.toNat % 4 = 0 → s.after (issueMaj .tret [e]) =
      ({ s with lanes := s.lanes.set e.k { l with pc := cr.tpc, latch := none, trapLane := false } } : State).after (closeTrap (s.crewOf e.k))) ∧
    (l.trapLane = true → cr.tpc.toNat % 4 ≠ 0 → s.after (issueMaj .tret [e]) = s.after (faultRecord 2 0 [⟨e.k, 0x07, cr.tpc⟩])) ∧
    (l.trapLane = false → s.after (issueMaj .tret [e]) = s.after (faultRecord 2 0 [⟨e.k, 0x0B, l.pc⟩]))

/-! ### Lanes: fetch, results, waits, collectives -/

/-- FETCH_LATCH_FILL (R28, R167), every parcel read from memory and none prefetched, at a port that has fetched fewer than four words in this
cycle: each lane that waits for the same word at the same port gets the instruction that the word encodes in its latch, to be presented
from the next cycle on; no other lane changes. A lane that alone waits for a word whose PC fails checks 1 to 4 of R48 fault-parks, where no lane
has stopped in the cycle before it (R390). -/
def Obligations.FetchFillsLatches : Prop :=
  (∀ (s : State) (k : LaneId) (key : Nat → Nat) (op : Op), s.fetches k = true → (∀ e ∈ s.ctxs, ∀ f ∈ e.2.faults, f.num < s.fresh) → s.pcBad (s.ctxOf k) (s.gangOf k) (s.pcOf k) = none →
    ((s.port (s.portOf k)).front.1 = s.now → (s.port (s.portOf k)).front.2 < 4) →
    (∀ i < 3, (s.locate (s.ctxOf k) (s.gangOf k) (s.pcOf k + BitVec.ofNat 64 (4 * i))).map (·.key) = some (key i)) →
    let shares (j : LaneId) : Bool := s.fetches j && s.pcOf j == s.pcOf k && s.ctxOf j == s.ctxOf k && s.portOf j == s.portOf k
    let parcel (i : Nat) : Word := BitVec.ofNat 32 (s.num (key i) 4)
    (∀ j, shares j = true → ∃ w, s.wgs.get? j.wg = some w ∧ decode (w.desc.regs / 8) (wordOfParcels (parcel 0) (parcel 1) (parcel 2)) = .ok op) →
    ∃ t : State, exec (.fetchLatchFill k [2, 2, 2] 0) s = .next t.settled ∧
      t = { s with ports := t.ports, clusters := t.clusters, lanes := t.lanes } ∧
      ∀ j, t.lanes.get? j = (s.lanes.get? j).map fun l => if shares j then { l with
        latch := some { raw := wordOfParcels (parcel 0) (parcel 1) (parcel 2), op := op, since := s.now + 1 }, asked := none } else l) ∧
  ∀ (s : State) (k : LaneId) (l : Lane) (kind cause : Nat), s.fetches k = true → s.lanes.get? k = some l → s.noneStopped →
    s.pcBad (s.ctxOf k) (s.gangOf k) (s.pcOf k) = some (kind, cause) → (Map.keys s.lanes).Nodup → ((s.port (s.portOf k)).front.1 = s.now → (s.port (s.portOf k)).front.2 < 4) →
    (∀ j, s.fetches j = true → s.pcOf j = s.pcOf k → s.ctxOf j = s.ctxOf k → s.portOf j = s.portOf k → j = k) →
    ∃ q : Port, exec (.fetchLatchFill k [2, 2, 2] 0) s = .next (State.settled (({ s with
      ports := s.ports.set (s.portOf k) q, lanes := s.lanes.set k { l with asked := none } } : State).after
        (faultRecord kind 0 [⟨k, cause, s.pcOf k⟩]))) ∧ { q with front := (s.port (s.portOf k)).front } = s.port (s.portOf k)

/-- LONG_LATENCY_RESULT_WRITE (R37, R113): a known result whose time has come, and whose registers no other write has reached, is written, it is
outstanding no longer, and its flags go to the crew; then the reply that brought it may leave its slice, and its error is taken. -/
def Obligations.ResultIsWritten : Prop :=
  ∀ (s : State) (k : LaneId) (l : Lane) (cr : Crew) (x : Result) (vs : List (Nat × Word)), s.lanes.get? k = some l → l.exited = false →
    s.crews.get? (s.crewOf k) = some cr → k.idx ∈ cr.lanes → l.results.find? (fun y => y.id == x.id) = some x → x.vals = some vs →
    x.late = [] → x.readyAt ≤ s.now →
    exec (.longLatencyResultWrite k x.id) s = .next (State.settled
      (((({ s with
        lanes := s.lanes.set k ({ l with results := l.results.filter fun y => y.id != x.id }.writes vs),
        crews := if x.flags = 0 then s.crews else s.crews.set (s.crewOf k) { cr with flags := cr.flags ||| x.flags } } : State).after
          (Act.opt x.req replyLeaves)).after
          (Act.opt x.err fun e => Act.read fun t => takeError k e.source e.code (t.unitPc k e.pc)))))

/-- SLEEP_EXPIRY (R178) ends a sleep whose cycles are over, and spends a yield of an earlier cycle when the peloton's datapath is free and no
other lane of it is ready; FENCE_COMPLETE (R285) lets a lane go on whose requests are performed, and from DEV scope on its cluster's L1
keeps no clean byte from before the fence; the code that the lane's CCTLs named since its last such fence leaves the instruction caches
within the scope (R28, R246; that it leaves when the FENCE ends, and how far each scope reaches, is the model's reading, log 51). -/
def Obligations.WaitsEnd : Prop :=
  ∀ (s : State) (k : LaneId) (l : Lane), s.lanes.get? k = some l →
    (∀ t, l.parks.sleep = some t → l.parks.yield = none → exec (.sleepExpiry k) s = .next (State.settled (
      if t ≤ s.now then { s with lanes := s.lanes.set k { l with parks := { l.parks with sleep := none } } } else s))) ∧
    (∀ t, l.parks.sleep = none → l.parks.yield = some t → t < s.now → (s.peloton (s.coreOf k) (s.pslot k)).busyUntil ≤ s.now →
      (∀ w ∈ s.wanting (s.coreOf k) (s.pslot k), w.1 = k) → exec (.sleepExpiry k) s = .next (State.settled { s with
        lanes := s.lanes.set k { l with parks := { l.parks with yield := none } } })) ∧
    ∀ scope after issued, l.parks.wait = [.fence scope after issued] → s.allPerformed after = true →
      let u : State := { s with
        clusters := if 4 ≤ scope then s.clusters.set (s.clusterOf k)
          ((s.cluster (s.clusterOf k)).dropClean fun _ b => decide (b.since ≤ issued)) else s.clusters }
      let code : Act := Act.each l.cctl fun c =>
        if 4 ≤ scope then dropCode (codeOf c)
        else if 1 ≤ scope then dropCodeOf (fun n => n == s.clusterOf k) (fun p => p / 16 == s.clusterOf k) (codeOf c)
        else dropCodeOf (fun n => n == s.clusterOf k) (fun p => p == s.portOf k) (codeOf c)
      exec (.fenceComplete k) s = .next (State.settled { u.after code with
        lanes := s.lanes.set k { l with
          parks := { l.parks with wait := [] }, cctl := if 4 ≤ scope then [] else l.cctl, cctlReqs := [] } })

/-- COLLECTIVE_EXECUTE (R184, R188): when every lane of a crew that could take part is parked at one collective, and the accesses that an
LRDV waits for are performed, each participant leaves the park and its result becomes known, to be written from the next cycle on; the flags
of the operations that form it go to its crew; nothing else changes. What each gets (R186, R187): LVOTE ALL, ANY and UNI, the LBALL mask of
ranks, the LRDV count, and LRED's sum of words modulo 2^32. -/
def Obligations.CollectiveGivesValues : Prop :=
  (∀ (s : State) (c : CrewId) (cr : Crew), s.crews.get? c = some cr → cr.lanes.Nodup → s.meets c = true →
      (∀ p ∈ s.parts c, s.allPerformed p.c.after = true) →
      let lit := ((s.parts c).head?.map fun p => p.c.op.lit.toNat).getD 0
      ∃ t : State, exec (.collectiveExecute c) s = .next t.settled ∧ t = { s with
          lanes := t.lanes,
          crews := (s.after (Act.each (s.parts c) fun p => setFlags p.lane (collValue (s.parts c) cr.lanes.length lit p).2)).crews } ∧
        (∀ p ∈ s.parts c, ∀ l, s.lanes.get? p.lane = some l → t.lanes.get? p.lane = some { l with
          parks := { l.parks with coll := none },
          results := l.results.map fun x => if some x.id = p.c.res then
            { x with vals := some (dest p.c.op.fx (collValue (s.parts c) cr.lanes.length lit p).1), readyAt := s.now + 1 } else x }) ∧
        ∀ k, (∀ p ∈ s.parts c, p.lane ≠ k) → t.lanes.get? k = s.lanes.get? k) ∧
  (∀ (ps : List Part) (n lit : Nat) (me : Part),
      (me.c.op.maj = .lvote → me.c.op.min = 0 → collValue ps n lit me = ([if ps.all fun p => p.c.a != 0 then 1 else 0], 0)) ∧
      (me.c.op.maj = .lvote → me.c.op.min = 1 → collValue ps n lit me = ([if ps.any fun p => p.c.a != 0 then 1 else 0], 0)) ∧
      (me.c.op.maj = .lvote → me.c.op.min = 2 → ∀ p0 rest, ps = p0 :: rest →
        collValue ps n lit me = ([if ps.all fun p => p.c.a == p0.c.a then 1 else 0], 0)) ∧
      (me.c.op.maj = .lball → (ps.map (·.rank)).Nodup → (∀ p ∈ ps, p.rank < 64) → ∃ lo hi : Word, collValue ps n lit me = ([lo, hi], 0) ∧
        ∀ i < 64, (if i < 32 then lo.getLsbD i else hi.getLsbD (i - 32)) = ps.any fun p => p.rank == i && p.c.a != 0) ∧
      (me.c.op.maj = .lrdv → collValue ps n lit me = ([BitVec.ofNat 32 ps.length], 0)) ∧
      (me.c.op.maj = .lred → me.c.op.min = 0 → me.c.op.typ = .n32 → ps ≠ [] → (∀ p ∈ ps, p.c.a.toNat < 2 ^ 32) →
        collValue ps n lit me = ([BitVec.ofNat 32 ((ps.map fun p => p.c.a.toNat).foldl (· + ·) 0)], 0)))

/-- RENDEZVOUS_MISMATCH (R185): when every lane of a crew that could take part is parked at a collective and the signatures differ, each is
put back to its collective, with its sources, its result and its wait for results discarded, and then all of them fault-park in one fault
record of KIND 3, AUX 0, each with cause 0x0A and the collective's address; no other lane changes, and but for the lanes and that record
nothing changes (where no lane has stopped in the cycle before it, R390). -/
def Obligations.MismatchParksCrew : Prop :=
  ∀ (s : State) (c : CrewId) (cr : Crew), s.crews.get? c = some cr → cr.lanes.Nodup → s.parts c ≠ [] → s.meets c = false → s.noneStopped →
    ∃ u : State, u = { s with lanes := u.lanes } ∧
      (∀ p ∈ s.parts c, ∀ l, s.lanes.get? p.lane = some l → u.lanes.get? p.lane = some { l with
        pc := l.pc - 12, latch := none,
        parks := { l.parks with coll := none, wait := l.parks.wait.filter fun w => decide (w ≠ .results) },
        results := l.results.filter fun x => some x.id ≠ p.c.res }) ∧
      (∀ k, (∀ p ∈ s.parts c, p.lane ≠ k) → u.lanes.get? k = s.lanes.get? k) ∧
      let t := u.after (faultRecord 3 0 ((s.parts c).map fun p => ⟨p.lane, 0x0A, u.pcOf p.lane⟩))
      exec (.rendezvousMismatch c) s = .next t.settled ∧
      t = { s with lanes := t.lanes, ctxs := t.ctxs, mem := t.mem, fresh := s.fresh + 1 } ∧
      (∀ p ∈ s.parts c, ∀ l, u.lanes.get? p.lane = some l → u.pcOf p.lane = l.pc ∧
        t.lanes.get? p.lane = some { l with parks := { l.parks with fault := true }, heldBy := some s.fresh }) ∧
      ∀ k, (∀ p ∈ s.parts c, p.lane ≠ k) → t.lanes.get? k = s.lanes.get? k

/-! ### Memory -/

/-- Bytes stored read back, and every byte outside them reads as before, where nothing has been migrated. -/
def Obligations.StoredBytesReadBack : Prop :=
  ∀ (s : State) (key : Nat) (bs : List Byte), Memory.wf s.mem → s.dev.moved = [] →
    (s.after (storeBytes key bs)).bytes key bs.length = bs ∧
    ∀ a, a < key ∨ key + bs.length ≤ a → (s.after (storeBytes key bs)).byte a = s.byte a

/-- The issue of LD, ST, LDE, STE, ATOM, ACAS and AFADD (R234 to R236, R240 to R244, R247): a lane whose probe fails fault-parks at its
instruction in a KIND 1 record with the probe's cause and address, and has no other effect. A lane whose probe passes sends its access to the home
agent (here: a load whose line the cluster's L1 does not hold; a store that is CG, or an STE to a page that is not cached; a page without scale
bytes), its result is outstanding where it has one, the clean bytes of the line that it writes go from the L1, the leaf entry is kept (R361), and
it goes on.
A lane's accesses at the home agent (R238, R248, R349), of memory outside the control space and not poisoned: a store writes its
bytes, a returning atomic other than FADD writes the new value and its result becomes the old one, a load that fills no L1 has its result
from the bytes, and a join counter goes one up or down modulo 2^64; launches and lanes that wait for the written bytes are looked at, and
the clean copy of a written line in the cluster's L1 goes. Nothing else changes. -/
def Obligations.AccessesArePerformed : Prop :=
  (∀ (s : State) (e : Env), e.s = s → s.lanes.get? e.k = some e.l → e.op.maj ∈ [Maj.ld, .st, .lde, .ste, .atom, .acas, .afadd] → steBound e.op = none →
    let c := s.ctxOf e.k
    let g := s.gangOf e.k
    let hi := e.op.min.toNat % 2 == 1
    let probe : Option (Nat × DWord) := match e.op.maj with
      | .ld => s.probeAligned c g e.ea (ldSize e.op) { rd := true, wr := false }
      | .st => s.probeAligned c g e.ea (ldSize e.op) { rd := false, wr := true }
      | .lde => s.probeElem c g e.ea false hi
      | .ste => s.probeElem c g e.ea true hi
      | _ => s.probeAligned c g e.ea (atomSize e.op) atomNeed
    (∀ cause addr, probe = some (cause, addr) → s.after (issueMaj e.op.maj [e]) = s.after (faultRecord 1 0 [⟨e.k, cause, addr⟩])) ∧
    ∀ at_, probe = none → s.locate c g e.ea = some at_ → (s.cluster e.cl).line? (lineOf at_.key) = none →
      (∀ r ∈ s.reqs, ∀ a ∈ r.acc, ∀ p v t l kn d h, a.op ≠ .ste p v t l kn d h) →
      let acc (n : Nat) (op : AccOp) : Access :=
        { lane := e.k, slot := s.slot e.k, pc := e.l.pc, seq := e.l.seq, va := e.ea, key := at_.key, size := n, ch := e.op.ch, op := op }
      let req (id : Nat) (a : Access) (reply : Bool) : Req := {
        id := id, ctx := c, cluster := e.cl, line := lineOf at_.key, home := at_.home, st := .flying, acc := [a], reply := reply, cache := at_.cache, also := [], after := [], acceptedAt := 0, order := 0 }
      let res : Result := { id := s.fresh, vals := none, flags := 0, err := none, readyAt := s.now + 1, req := none }
      let sent (n : Nat) (r : Req) (rs : List Result) : State := { s with
        fresh := s.fresh + n, ctxs := (s.after (keepLeaves [e])).ctxs, reqs := s.reqs ++ [r],
        lanes := s.lanes.set e.k (({ e.l with results := e.l.results ++ rs, seq := e.l.seq + 1 } : Lane).issued (e.l.pc + 12) e.op.w) }
      let drop : Map Nat Cluster := s.clusters.set e.cl ((s.cluster e.cl).dropClean fun l _ => l.line == lineOf at_.key)
      let fills := at_.cache && (s.cluster e.cl).hasL1
      (e.op.maj = .ld → 0 < ldSize e.op → s.after (issueMaj e.op.maj [e]) = sent 2 (req (s.fresh + 1)
        { acc (ldSize e.op) (.load (e.loadAs at_.typ none) [] s.fresh) with fill := !hi && fills } true) [res]) ∧
      (e.op.maj = .lde → at_.typ.scaled = false → 0 < elemSize at_.typ → s.after (issueMaj e.op.maj [e]) = sent 2 (req (s.fresh + 1)
        { acc (elemSize at_.typ) (.load (e.loadAs at_.typ none) [] s.fresh) with fill := fills } true) [res]) ∧
      (e.op.maj = .st → hi = true → s.after (issueMaj e.op.maj [e]) = { sent 1 (req s.fresh (acc e.stBytes.length (.store e.stBytes)) false) [] with
        clusters := drop }) ∧
      (e.op.maj = .ste → at_.typ.scaled = false → at_.typ ≠ .mx4 → at_.cache = false →
        let x := encodeElem at_.typ (e.src e.op.fx) e.op.typ 0
        let bs := bytesLE (elemSize at_.typ) x.1
        s.after (issueMaj e.op.maj [e]) = { sent 1 (req s.fresh (acc bs.length (.store bs)) false) [] with
          clusters := drop, crews := (s.after (setFlags e.k x.2)).crews }) ∧
      (e.op.maj ∈ [Maj.atom, .acas, .afadd] →
        let back := decide (e.op.min.toNat < 32)
        let x : Rmw × DWord × DWord := match e.op.maj with
          | .atom => (atomOp e.op.min.toNat, if e.op.typ.is64 then e.src64 e.op.typ e.op.fx else (e.src e.op.fx).setWidth 64, 0)
          | .acas => match e.group e.op.fx 4 with
            | [a, b, c, d] => if e.op.typ.is64 then (.cas, b ++ a, d ++ c) else (.cas, a.setWidth 64, b.setWidth 64)
            | _ => (.cas, 0, 0)
          | _ => (.fadd, (e.src e.op.fx).setWidth 64, 0)
        s.after (issueMaj e.op.maj [e]) = { sent 2 (req (s.fresh + 1) (acc (atomSize e.op)
          (.rmw x.1 e.op.typ x.2.1 x.2.2 (if back then some (s.fresh, fxReg e.op) else none))) back) (if back then [res] else []) with clusters := drop })) ∧
  ∀ (s : State) (r : Req) (now : Nat) (a : Access) (l : Lane), s.controlOff a.key = none → s.poisoned a.key = false →
    s.lanes.get? a.lane = some l → a.lane ≠ outsider →
    let wrote (bs : List Byte) : State :=
      (((s.after (storeBytes a.key bs)).after watchCounters).after serveJoins).after (dropCleanLine r.cluster (lineOf a.key))
    (∀ bs, a.op = .store bs → r.parent = none → s.after (performAccess r now a) = wrote bs) ∧
    (a.op = .joinInc → s.after (performAccess r now a) = wrote (bytesLE 8 ((s.num a.key 8 + 1) % 2 ^ 64))) ∧
    (a.op = .joinDec → s.after (performAccess r now a) = wrote (bytesLE 8 ((s.num a.key 8 + (2 ^ 64 - 1)) % 2 ^ 64))) ∧
    (∀ op t x y res reg, op ≠ .fadd → a.op = .rmw op t x y (some (res, reg)) → s.launches = [] →
      (∀ e ∈ s.lanes, e.2.parks.queue = none) → s.after (performAccess r now a) =
      (({ s.after (storeBytes a.key (bytesLE a.size (rmwNew op t (s.num a.key a.size) (x.toNat % 2 ^ (8 * a.size)) (y.toNat % 2 ^ (8 * a.size))).1))
          with lanes := s.lanes.set a.lane { l with results := l.results.map fun z => if z.id = res then { z with
            vals := some ((List.range (a.size / 4)).map fun i => (reg + i, BitVec.ofNat 32 (s.num a.key a.size / 2 ^ (32 * i)))),
            flags := 0, err := none, readyAt := now, req := some r.id } else z } } : State).after (dropCleanLine r.cluster (lineOf a.key)))) ∧
    (∀ t reg res, a.op = .load (.raw t reg) [] res → a.fill = false →
      (∀ i < a.size, s.poisoned (a.key + i) = false ∧ s.keyReach (a.key + i) = true) →
      s.after (performAccess r now a) = { s with
        lanes := s.lanes.set a.lane { l with results := l.results.map fun z => if z.id = res then { z with
          vals := some ((t.words (t.value (s.num a.key a.size))).zipIdx.map fun w => (reg + w.2, w.1)),
          flags := 0, err := none, readyAt := now, req := some r.id } else z } })

/-- The new value of an atomic (R248, R249): sums wrap, MIN and MAX compare by the type, INCW and DECW wrap at a, CAS replaces what equals a. -/
def Obligations.AtomicValues : Prop :=
  ∀ (t : Typ) (old a b : Nat), old < 2 ^ (if t.is64 then 64 else 32) → a < 2 ^ (if t.is64 then 64 else 32) →
    let n := if t.is64 then 64 else 32
    rmwNew .add t old a b = ((old + a) % 2 ^ n, 0) ∧
    (∃ m, rmwNew .min t old a b = (m, 0) ∧ (m = old ∨ m = a) ∧ t.value m ≤ t.value old ∧ t.value m ≤ t.value a) ∧
    (∃ m, rmwNew .max t old a b = (m, 0) ∧ (m = old ∨ m = a) ∧ t.value old ≤ t.value m ∧ t.value a ≤ t.value m) ∧
    rmwNew .and t old a b = (old &&& a, 0) ∧ rmwNew .or t old a b = (old ||| a, 0) ∧ rmwNew .xor t old a b = (old ^^^ a, 0) ∧
    rmwNew .xchg t old a b = (a, 0) ∧
    rmwNew .incw t old a b = (if old ≥ a then 0 else old + 1, 0) ∧
    rmwNew .decw t old a b = (if old = 0 ∨ old > a then a else old - 1, 0) ∧
    rmwNew .cas t old a b = (if old = a then b else old, 0)

/-- Home agents (R261, R264 to R266, R270, R425): a request reaches a bank and is performed; a slice with a full queue takes nothing; a
request that misses in a slice with nothing under way takes an entry, a miss register and a controller slot and counts in L2REQ and L2MISS;
a fill that has a slot writes its line, in place of the line that gives way, frees register and slot and serves the attached requests in
order, one behind which a host has got a copy that it conflicts with waiting again (R425); a line that is placed where its set has room takes
nobody's place; a write-back to DRAM that is done frees its slot; a completed recall lets the requests that it held go on. (That a filled line is
kept when a cached request asked for it, and its mark, are the model's reading, log 15; that the step names the line that gives way, and which
request takes a slot, is its choice, log 52; the recall is log 14.) -/
def Obligations.HomeAgentsServe : Prop :=
  (∀ (s : State) (r : Req) (b : Nat), s.reqs.find? (fun q => q.id == r.id) = some r → r.st = .flying → s.allPerformed r.after = true →
    s.behind r = false → r.home = .bank b → exec (.l2RequestAccept r.id) s = .next (s.after (performReq r)).settled) ∧
  (∀ (s : State) (r : Req) (n : Nat), s.reqs.find? (fun q => q.id == r.id) = some r → r.home = .slice n → s.controlOff (r.line * 128) = none →
    32 ≤ (s.slice n).queue.length → exec (.l2RequestAccept r.id) s = .next s.settled) ∧
  (∀ (s : State) (r : Req) (n : Nat), s.reqs = [r] → r.st = .flying → s.allPerformed r.after = true → s.behind r = false →
    r.home = .slice n → s.controlOff (r.line * 128) = none → (s.slice n).queue = [] → (s.slice n).waiting = [] → (s.slice n).miss = [] →
    (s.slice n).held = [] → (s.slice n).lines.get? r.line = none → s.pieceMoves r.line = false → s.repairing r.line = false →
    s.dev.hostCopies = [] → (∀ x ∈ s.slices, x.2.dram = []) → (∀ x ∈ s.slreqs, x.held = none) → (∀ x ∈ s.slrels, x.held = none) →
    exec (.l2RequestAccept r.id) s = .next (State.settled { s with
      slices := s.slices.set n { s.slice n with
        queue := [r.id], miss := [{ line := r.line, reqs := [r.id] }], l2req := (s.slice n).l2req + 1, l2miss := (s.slice n).l2miss + 1,
        l2qpeak := max (s.slice n).l2qpeak 1, dram := [{ line := r.line, fill := true, slot := true }] },
      reqs := [{ r with st := .attached, order := s.dev.order, acceptedAt := s.now }],
      dev := { s.dev with order := s.dev.order + 1 } })) ∧
  (∀ (s : State) (n line : Nat) (d : Dram), (s.slice n).dram.find? (fun d => d.line == line) = some d → d.slot = true → d.fill = false →
    s.repairing line = false → ∀ v, exec (.l2FillArrival n line v) s = .next (s.after (dropDram n line false)).settled) ∧
  (∀ (s : State) (n line : Nat) (mark : Mark), (s.slice n).victim line = none → s.after (placeLine n line mark) = { s with
    slices := s.slices.set n { s.slice n with lines := (s.slice n).lines.del line ++ [(line, mark)] } }) ∧
  (∀ (s : State) (n line : Nat) (d : Dram) (m : Miss), (s.slice n).dram.find? (fun d => d.line == line) = some d → d.slot = true → d.fill = true →
    (s.slice n).miss.find? (fun m => m.line == line) = some m → s.repairing line = false →
    let rs := m.reqs.filterMap fun id => s.reqs.find? fun r => r.id == id
    let keep := rs.any (·.cache)
    let mark := ((rs.flatMap (·.acc)).foldl (fun m a => markAfter m a.ch true) none).getD .n
    exec (.l2FillArrival n line (if keep then (s.slice n).victim line else none)) s = .next (State.settled ((((({ s with
      slices := s.slices.set n { s.slice n with miss := (s.slice n).miss.filter fun x => x.line != line } } : State).after
        (Act.when keep (placeLine n line mark))).after (Act.each rs (performAttached n))).after (dropDram n line true)).after (serveWaiting n)))) ∧
  (∀ (s : State) (n : Nat) (r : Req), s.conflicts r = false → (∀ q ∈ s.reqs, q.home = r.home → q.line = r.line → q.order < r.order → q.st ≠ .waiting) →
    s.after (performAttached n r) = s.after (performReq r)) ∧
  ∀ (s : State) (line : Nat), line ∈ s.dev.hostCopies → exec (.backInvalidationComplete line) s = .next (State.settled (
    ({ s with dev := { s.dev with hostCopies := s.dev.hostCopies.filter (· != line) } } : State).after
      (releaseSnooped (s.reqs.filter fun r => r.st == .snooped && r.line == line))))

/-- HOST_MEM_ACCESS (R231, R261, R334, R424): an access of the host, or of another device over links of which one is up, to bytes of one line
of backed memory is a request at the home slice of the line, which accepts it as any other; a host write to host memory is performed at
once; a read of a headgate window gives the records held, the drop count or 0, and a read of the control space what stands there; those
reads change nothing else. Another device's sluice operation is examined at the home slice as a lane's is (R279, R281), unless its frame is retired.
Where no other request is on its way and the slice holds the line, a host read takes the bytes, which the host has once the reply leaves, 64 cycles
after acceptance at the earliest (R262), and the host may keep a copy of the line; a host write stores its bytes, and cures a poisoned line that it
covers whole (R251). (Accesses of other devices as steps of this kind, their links and alignment, and the home slice of a line that nothing names
are the model's choice, log 47; the order, and the host's copy, are log 14; the cure is log 17.) -/
def Obligations.HostReadsAndWrites : Prop :=
  ∀ s : State,
    let go (key n : Nat) (op : AccOp) : State :=
      (s.after (sendReq 4096 nowhere (lineOf key) (.slice (s.sliceFor (lineOf key))) true []
        [{ lane := outsider, slot := 0, pc := 0, seq := 0, va := 0, key := key, size := n, ch := 0, op := op }])).after (stepAccept s.fresh)
    let told (n v : Nat) : State := { s with dev := { s.dev with hostRead := bytesLE n v } }
    (s.dev.up = true →
      (∀ la n key, s.hdm la n = some key → ∀ keep, exec (.hostMemAccess (.read la n keep)) s = .next (go key n (.unitRead (.host keep))).settled) ∧
      (∀ la bs key, s.hdm la bs.length = some key →
        exec (.hostMemAccess (.write la bs)) s = .next (go key bs.length (.unitWrite (.host false) bs)).settled) ∧
      (∀ dev la x key, dev ≠ s.dev.devno.toNat → dev < 256 → (∃ i < 18, (s.link i).up = true) → s.own la (deviceSize x) = some key →
        (deviceAligned x = true → la % deviceSize x = 0) →
        exec (.hostMemAccess (.device dev la x)) s = .next (s.after (deviceAct dev key x)).settled) ∧
      (∀ dev key n bs, s.after (deviceAct dev key (.load n)) = go key n (.unitRead (.device dev)) ∧
        s.after (deviceAct dev key (.store bs)) = go key bs.length (.unitWrite (.device dev) bs)) ∧
      (∀ dev key mn t a b ret, s.after (deviceAct dev key (.atom mn t a b ret)) = go key (if t.is64 then 8 else 4)
        (.rmw (match mn with | 9 => .cas | 10 => .fadd | n => atomOp n) t a b (if ret then some (0, 0) else none))) ∧
      (∀ dev key excl try_, key / 65536 ∉ s.dev.retired → let home : Home := .slice (s.sliceFor (lineOf key))
        s.after (deviceAct dev key (.acquire excl try_)) = ({ s with
          fresh := s.fresh + 1,
          slreqs := s.slreqs ++ [
            { id := s.fresh, lane := outsider, va := 0, key := key, excl := excl, try_ := if try_ then some (0, 0) else none, waiting := false,
              slot := 0, home := home }] } : State).after (stepSluiceArrive s.fresh) ∧
        s.after (deviceAct dev key (.release excl)) = ({ s with
          fresh := s.fresh + 1,
          slrels := s.slrels ++ [{ id := s.fresh, lane := outsider, key := key, va := 0, excl := excl, publish := false, home := home }] } : State).after
            (stepSluiceRelease s.fresh)) ∧
      ∀ q < 2048,
        exec (.hostMemAccess (.window q 0 4)) s = .next (told 4 (s.wq q).recs.length).settled ∧
        exec (.hostMemAccess (.window q 4 4)) s = .next (told 4 (s.wq q).drops.toNat).settled ∧
        ∀ off n, off + n ≤ 4096 → (n ≠ 4 ∨ off ≠ 0 ∧ off ≠ 4) → exec (.hostMemAccess (.window q off n)) s = .next (told n 0).settled) ∧
    (∀ addr bs, addr + bs.length ≤ 2 ^ 52 →
      exec (.hostMemAccess (.own addr bs)) s = .next (s.after (homeWrite (hostBase + addr) bs)).settled) ∧
    (∀ off n, exec (.hostMemAccess (.io off n)) s = .next (told n (s.controlRead off n)).settled) ∧
    (∀ (r : Req) (a : Access) n keep, s.reqs.find? (fun q => q.id == r.id && q.st == .replying) = some r → s.reqs.find? (fun q => q.id == r.id) = some r →
      r.st = .replying → r.home = .slice n → r.reply = true → r.id ∈ (s.slice n).queue →
      r.acc = [a] → a.op = .unitRead (.host keep) → a.fill = false → r.acceptedAt + 64 ≤ s.now → (∀ e ∈ s.lanes, ∀ x ∈ e.2.results, x.req ≠ some r.id) →
      s.after (dropReply r.id) = { s with
        reqs := s.reqs.filter fun q => q.id != r.id,
        slices := s.slices.set n { s.slice n with queue := (s.slice n).queue.filter (· != r.id) }, dev := { s.dev with hostRead := r.data } }) ∧
    ∀ la n key, s.hdm la n = some key → s.reqs = [] → (∀ x ∈ s.slreqs, x.held = none) → (∀ x ∈ s.slrels, x.held = none) → let c := s.slice (s.sliceFor (lineOf key))
      c.queue.length < 32 → c.waiting = [] → (∀ m ∈ c.miss, m.line ≠ lineOf key) → c.lines.get? (lineOf key) ≠ none → s.pieceMoves (lineOf key) = false →
      (∀ keep, ∃ t : State, t = go key n (.unitRead (.host keep)) ∧ t = { s with
        fresh := s.fresh + 1, slices := t.slices, reqs := t.reqs, dev := { s.dev with
          order := s.dev.order + 1,
          hostCopies := if keep && !s.dev.hostCopies.contains (lineOf key) then s.dev.hostCopies ++ [lineOf key] else s.dev.hostCopies } } ∧
        (∀ r ∈ t.reqs, r.id = s.fresh ∧ r.st = .replying ∧ r.data = s.bytes key n) ∧ ∀ m, m ≠ s.sliceFor (lineOf key) → t.slice m = s.slice m) ∧
      ∀ bs, bs.length = n → s.launches = [] → (∀ e ∈ s.lanes, e.2.parks.queue = none) → ∃ t : State,
        t = go key n (.unitWrite (.host false) bs) ∧ t = { s.after (storeBytes key bs) with
          fresh := s.fresh + 1, slices := t.slices, dev := { s.dev with
            order := s.dev.order + 1,
            poison := if 128 ≤ n then s.dev.poison.filter (· != lineOf (s.phys key)) else s.dev.poison } } ∧
        ∀ m, m ≠ s.sliceFor (lineOf key) → t.slice m = s.slice m

/-- Migration (R271, R362): a piece of backed memory starts to move to another that is in no use; when it is aborted the old piece stands, and
when it is done the old piece's keys lead to the new one; the requests and sluice operations that it held go on then, in acceptance order. -/
def Obligations.PiecesMove : Prop :=
  ∀ (s : State) (old new : Nat),
    (s.dev.up = true → old ≠ new →
      (∀ p, p = old ∨ p = new → p * 65536 / 2 ^ 44 = s.dev.devno.toNat ∧ backed (p * 65536 % 2 ^ 44) = true ∧ p * 65536 % 2 ^ 44 < 0xF0000000000 ∧
        (∀ m ∈ s.dev.migrating, m.1 ≠ p ∧ m.2 ≠ p) ∧ ∀ m ∈ s.dev.moved, m.1 ≠ p) →
      exec (.migrationPieceStart old new) s = .next (State.settled { s with dev := { s.dev with migrating := s.dev.migrating ++ [(old, new)] } })) ∧
    (s.dev.migrating.find? (fun m => m.1 == old) = some (old, new) →
      exec (.migrationPieceEnd old false) s = .next (State.settled (({ s with dev := { s.dev with
        migrating := s.dev.migrating.filter fun x => x.1 != old } } : State).after (releaseHeld (s.heldOn old) (s.heldSluices old)))) ∧
      exec (.migrationPieceEnd old true) s = .next (State.settled (({ s.after (copyPiece old new) with dev := { (s.after (copyPiece old new)).dev with
        migrating := s.dev.migrating.filter fun x => x.1 != old,
        moved := (s.dev.moved.map fun x => if x.2 = old then (x.1, new) else x) ++ [(old, new)] } } : State).after (releaseHeld (s.heldOn old) (s.heldSluices old)))))

/-- Errors and repair (R402, R433, R434): a correctable error marks its line, of device memory or of a scratchpad, until the scrubber reads it;
an uncorrectable one poisons it; a register's or a tile row's parity mark is set. The patrol scrub of the next lines corrects the marked ones
among them, counting each for its row, and moves on; the 64th of a row is logged and, for a row of HBM, reported. A row that has been
reported is repaired once by software, 200 µs long and one pseudo-channel of a stack at a time, with a record when it starts and when it
ends, and L2HOLD of each slice counts the requests that it then holds; a row that was repaired before is recorded for hard repair. An uncorrectable error in a line of an L1 marks the copy. (That the scrubber alone counts, and the
layout of a row in records, are the model's readings, log 27; L2HOLD at the start of a repair is log 15; errors and poison are log 17.) -/
def Obligations.ErrorsAndRepair : Prop :=
  ∀ s : State,
    (∀ line, 2 ^ 54 ≤ line * 128 ∨ line * 128 < 2 ^ 52 ∧ line * 128 / 2 ^ 44 = s.dev.devno.toNat ∧ line * 128 % 2 ^ 44 < 0x80000000000 →
      exec (.eccError { line := line, correctable := true }) s = .next (State.settled { s with dev := { s.dev with
        correctable := s.dev.correctable ++ [line] } }) ∧
      exec (.eccError { line := line, correctable := false }) s = .next (State.settled { s with dev := { s.dev with
        poison := if line ∈ s.dev.poison then s.dev.poison else s.dev.poison ++ [line] } })) ∧
    (∀ line cl, exec (.eccError { line := line, correctable := false, l1 := some cl }) s = .next (State.settled { s with
      clusters := s.clusters.set cl { s.cluster cl with
        l1 := (s.cluster cl).l1.map fun l => if l.line = line then { l with bad := true } else l } })) ∧
    (∀ k l g, s.lanes.get? k = some l → g < 256 → exec (.parityError (.reg k g)) s = .next (State.settled { s with
      lanes := s.lanes.set k { l with parity := if g ∈ l.parity then l.parity else l.parity ++ [g] } })) ∧
    (∀ core tile row, core < 576 → tile < 16 → row < 32 → let c := s.core core
      exec (.parityError (.row core tile row)) s = .next (State.settled { s with cores := s.cores.set core { c with
        tiles := c.tiles.set tile { c.tile tile with
          rows := (c.tile tile).rows.zipIdx.map fun r => if r.2 = row then { r.1 with bad := true } else r.1 } } })) ∧
    (∀ count, s.dev.up = true → 0 < count →
      let base := s.dev.devno.toNat * 2 ^ 37 + s.dev.scrubNext
      let hit (l : Nat) : Bool := decide (base ≤ l) && decide (l < base + count)
      let u := s.after (Act.each (s.dev.correctable.filter hit) countCorrected)
      exec (.patrolScrub s.dev.scrubNext count) s = .next (State.settled { u with dev := { u.dev with
        correctable := s.dev.correctable.filter fun l => !hit l, scrubNext := scrubAfter (s.dev.scrubNext + count) } }) ∧
      ((∀ l ∈ s.dev.correctable, hit l = false) → u = s)) ∧
    (∀ line, let r := dramRow line
      let n := s.dev.corrected.getD r 0 + 1
      s.after (countCorrected line) = if n < 64 then { s with dev := { s.dev with corrected := s.dev.corrected.set r n } }
        else ({ s with dev := { s.dev with
          corrected := s.dev.corrected.set r 0,
          reported := if r.1 < 6 ∧ r ∉ s.dev.reported then s.dev.reported ++ [r] else s.dev.reported } } : State).after
            (writeLog 0x01 (line * 128 % 2 ^ 44))) ∧
    (∀ die chan row, s.dev.up = true → (die, chan, row) ∈ s.dev.reported →
      let unit := die * 2 ^ 48 + chan * 2 ^ 32 + row % 2 ^ 32
      let done := s.dev.reported.filter (· != (die, chan, row))
      ((die, chan, row) ∈ s.dev.softRepaired → exec (.softRepairStart die chan row) s = .next (State.settled (
        ({ s with dev := { s.dev with reported := done, hardRepairs := s.dev.hardRepairs ++ [(die, chan, row)] } } : State).after (writeLog 0x04 unit)))) ∧
      ((die, chan, row) ∉ s.dev.softRepaired → (∀ x ∈ s.dev.repairs, x.1 = die → x.2.1 % 4 ≠ chan % 4) → s.slices.keys.Nodup →
        let u := s.after (writeLog 0x02 unit)
        let v : State := { u with dev := { u.dev with reported := done, repairs := s.dev.repairs ++ [(die, chan, row, s.now)] } }
        ∃ t : State, exec (.softRepairStart die chan row) s = .next t.settled ∧ t = { v with slices := t.slices } ∧
          ∀ n, t.slice n = { s.slice n with
            l2hold := (s.slice n).l2hold + BitVec.ofNat 32 ((s.slice n).dram.filter fun m => !s.repairing m.line && v.repairing m.line).length })) ∧
    ∀ die chan row t0, s.dev.repairs.find? (fun x => x.1 == die && x.2.1 == chan) = some (die, chan, row, t0) → t0 + 240000 ≤ s.now →
      exec (.softRepairEnd die chan) s = .next (State.settled ((({ s with dev := { s.dev with
        repairs := s.dev.repairs.filter (· != (die, chan, row, t0)), softRepaired := s.dev.softRepaired ++ [(die, chan, row)] } } : State).after
          (writeLog 0x03 (die * 2 ^ 48 + chan * 2 ^ 32 + row % 2 ^ 32))).after serveDram))

/-! ### Sluices, banks, weirs, barriers -/

/-- Sluices (R279, R281, R282, R284, R293, R294): a lane's request that arrives, behind no earlier operation of its lane or core at the object and no
access to its bytes, with no recall (R425), migration (R271) or missing route in its way, joins the sluice's queue; an SLTRY that could be granted with
no request ahead of it takes the sluice into its lane's hold list and writes true, and no stale copy of the sluice or of its ranges stays in the
cluster; else it writes false. A release that publishes sends the cluster's dirty bytes home as it issues; once those of the ranges, and the lane's
earlier accesses to the ranges and the object, and its earlier releases of it or of sluices in its ranges, are performed, it releases the object; until
then it waits. What is written to the object reads back, X, WQ, SHR and RELGEN. (How a release is ordered with what it publishes, and what a migration
holds, are the model's readings, log 53.) -/
def Obligations.SluicesServe : Prop :=
  (∀ (s : State) (r : SlReq), s.slreqs.find? (fun x => x.id == r.id && !x.waiting) = some r → r.lane ≠ outsider → r.held = none →
    s.keyReach r.key = true → (∀ x ∈ s.slreqs, x.waiting = false → x.key = r.key → s.coreOf x.lane = s.coreOf r.lane → x.lane ≠ outsider → r.id ≤ x.id) →
    (∀ x ∈ s.slrels, x.lane = r.lane → r.id ≤ x.id) → s.touching r.lane r.id r.key = false → s.pieceMoves (lineOf r.key) = false →
    s.sluiceWaits r.home r.key none = false → s.controlOff r.key = none →
    let others := s.slreqs.filter fun x => x.id != r.id
    (r.try_ = none → exec (.sluiceRequestArrive r.id) s = .next (State.settled { s with slreqs := others ++ [{ r with waiting := true }] })) ∧
    ∀ res reg l, r.try_ = some (res, reg) → s.lanes.get? r.lane = some l →
      let answer (l : Lane) (v : Word) : Lane := { l with
        parks := { l.parks with acq := l.parks.acq.filter fun a => a != .sluice r.id },
        results := l.results.map fun x => if x.id = res then { x with vals := some [(reg, v)] } else x }
      let free := (s.sluice r.key).grants r.excl = true ∧ ∀ x ∈ s.slreqs, x.waiting = true → x.key ≠ r.key
      (free → exec (.sluiceRequestArrive r.id) s = .next (State.settled { s with
        mem := (s.after (putSluice r.key ((s.sluice r.key).granted r.excl))).mem,
        slreqs := others,
        lanes := s.lanes.set r.lane (answer { l with holds := l.holds ++ [{ va := r.va, key := r.key, excl := r.excl, home := r.home }] } 1),
        clusters := s.clusters.set (s.clusterOf r.lane) ((s.cluster (s.clusterOf r.lane)).dropClean fun x _ =>
          x.line == lineOf r.key || s.rangeHas (s.ctxOf r.lane) (s.gangOf r.lane) r.va x.line) })) ∧
      (¬ free → exec (.sluiceRequestArrive r.id) s = .next (State.settled { s with
        slreqs := others, lanes := s.lanes.set r.lane (answer l 0) }))) ∧
  (∀ (s : State) (k : LaneId) (h : Hold) (publish : Bool), let cl := s.clusterOf k
    let u := (if publish then s.after (sendWbacks cl) else s).after (freshSluice cl h.key)
    s.after (sendRelease k h publish) = { u with
      fresh := u.fresh + 1,
      slrels := u.slrels ++ [
        { id := u.fresh, lane := k, key := h.key, va := h.va, excl := h.excl, publish := publish, pc := s.pcOf k, home := h.home }] }) ∧
  (∀ (s : State) (r : SlRel), s.slrels.find? (fun x => x.id == r.id) = some r → r.lane ≠ outsider →
    let cl := s.clusterOf r.lane
    let ranged (line : Nat) : Prop := r.publish = true ∧ s.rangeHas (s.ctxOf r.lane) (s.gangOf r.lane) r.va line = true
    let before (q : Req) : Prop := q.done = false ∧ q.rank < r.id ∧ (q.isWback cl = true ∧ ranged q.line ∨
      ∃ a ∈ q.acc, a.lane = r.lane ∧ a.op.own = true ∧ a.op ≠ .prefetch ∧ ∃ t ∈ a.touches, ranged (lineOf t.1))
    let earlier (x : SlRel) : Prop := x.lane = r.lane ∧ x.id < r.id ∧ (x.key = r.key ∨ ranged (lineOf x.key))
    ((∃ q ∈ s.reqs, before q) ∨ (∃ x ∈ s.slrels, earlier x) ∨ s.touching r.lane r.id r.key = true →
      exec (.sluiceReleasePerform r.id) s = .next s.settled) ∧
    ((∀ q ∈ s.reqs, ¬ before q) → (∀ x ∈ s.slrels, ¬ earlier x) → s.touching r.lane r.id r.key = false →
      s.keyReach r.key = true → s.pieceMoves (lineOf r.key) = false → r.held = none → s.sluiceWaits r.home r.key none = false →
      s.controlOff r.key = none →
      exec (.sluiceReleasePerform r.id) s = .next (State.settled { s with
        mem := (s.after (putSluice r.key ((s.sluice r.key).released r.excl))).mem,
        clusters := s.clusters.set cl ((s.cluster cl).dropClean fun x _ => x.line == lineOf r.key),
        slrels := s.slrels.filter fun x => x.id != r.id }))) ∧
  ∀ (s : State) (key : Nat) (v : Sluice), Memory.wf s.mem → s.dev.moved = [] → s.controlOff key = none → v.shr < 2 ^ 16 → v.relgen < 2 ^ 64 →
    (s.after (putSluice key v)).sluice key = v

/-- BANK_DRAIN_DONE (R257): a bank in which no dirty line is left switches its mode, its lines go, and its CARVE answers DONE (0). -/
def Obligations.BanksSwitchMode : Prop :=
  ∀ (s : State) (cl bank : Nat) (d : Drain), (s.cluster cl).drains.find? (fun d => d.bank == bank) = some d →
    (∀ l ∈ (s.cluster cl).l1, l.bank = bank → ∀ b ∈ l.bytes, b.2.dirty = false) →
    let switched (c : Cluster) : Cluster := { c with
      l1 := c.l1.filter (fun l => l.bank != bank), drains := c.drains.filter (fun x => x.bank != bank), banks := c.banks.set bank d.mode }
    let t : State := { s with clusters := s.clusters.set cl (switched (s.cluster cl)) }
    (d.res = none → exec (.bankDrainDone cl bank) s = .next t.settled) ∧
    ∀ res reg l, d.res = some (res, reg) → s.lanes.get? d.lane = some l → exec (.bankDrainDone cl bank) s = .next (State.settled { t with
      lanes := s.lanes.set d.lane { l with results := l.results.map fun x => if x.id = res then
        { x with vals := some (if reg < 256 then [(reg, 0)] else []) } else x } })

/-- WEIR_RETIRE (R379): a slot that WRET gave up and that no unfinished command names becomes inactive; the lane in a WRET park on it goes
on, and a lane in a weir park on it fault-parks at its WWAIT in a KIND 1 record, cause 0x06, with the slot's address (the record's kind and address
are the model's reading, log 41), where no lane has stopped in the cycle before (R390). BARRIER_UNREACHABLE
(R383), for the one lane at a barrier of a stuck workgroup or gang: its arrival is withdrawn, it leaves the park and raises the trap of
class 4 or 5 at its BAR or GBAR, with the barrier's number. -/
def Obligations.WeirsAndBarriersEnd : Prop :=
  (∀ (s : State) (wg off : Nat) (w : Wg) (k : LaneId) (l : Lane), s.wgs.get? wg = some w → off ∈ w.weirs →
      (off ∈ w.retiring ∨ ∀ h ∈ s.heldWeirs, h.lane = k → h.key ≠ scratchKey wg off) → s.named (scratchKey wg off) = false → s.noneStopped →
      s.weirWaiters (scratchKey wg off) true = [k] → s.lanes.get? k = some l →
      let key := scratchKey wg off
      let t : State := { s with
        mem := (s.after (storeBytes key (bytesLE 16 { s.weir key with a := false }.word))).mem,
        wgs := s.wgs.set wg { w with weirs := w.weirs.filter (· != off), retiring := w.retiring.filter (· != off) },
        lanes := s.lanes.set k { l with parks := { l.parks with weir := none } } }
      (s.weirWaiters key false = [] → exec (.weirRetire wg off) s = .next t.settled) ∧
      ∀ j m, s.weirWaiters key false = [j] → s.lanes.get? j = some m → j ≠ k → exec (.weirRetire wg off) s = .next (State.settled (
        ({ t with lanes := t.lanes.set j { m with pc := m.pc - 12, latch := none, parks := { m.parks with weir := none } } } : State).after
          (faultLanes 1 0 [⟨j, 0x06, BitVec.ofNat 64 (s.windowVA key)⟩])))) ∧
  (∀ (s : State) (gang : Bool) (id : Nat) (k : LaneId) (l : Lane) (p : BarPark), s.stuck gang id = true → s.noneStopped → k ∈ s.barLanes gang id →
      (s.barLanes gang id).Nodup → s.lanes.get? k = some l → l.parks.bar = some p → p.gang = gang →
      (∀ j ∈ s.barLanes gang id, j ≠ k → ∀ m, s.lanes.get? j = some m → ∀ q, m.parks.bar = some q → q.gang ≠ gang) →
      exec (.barrierUnreachable gang id) s = .next (State.settled (({ s with lanes := s.lanes.set k { l with
        pc := l.pc - 12, latch := none, parks := { l.parks with bar := none },
        arrived := l.arrived.filter fun a => a != (gang, p.bar),
        arriving := l.arriving.filter fun a => match a with | .barrier g b _ => !(g == gang && b == p.bar) | .weir .. => true } } : State).after
          (raiseTraps [{ lane := k, cls := if gang then 5 else 4, info := p.bar, cause := 0, resume := l.pc - 12 }]))))

/-! ### The matrix unit -/

/-- A K-step on a row that need not be rescaled (R193): each mantissa gains, modulo 2^64, the sum of its products, each product q · 2^f taken
as the integer q · 2^(f − E), rounded toward minus infinity; ρ gains the same sums modulo 255, H is recomputed, E stays, ALT is set exactly
when some product was not a multiple, and no event is counted. -/
def Obligations.KStepAddsProducts : Prop :=
  ∀ (r : TRow) (g : Nat) (ps : List (List Product)), r.empty = false → g ≤ r.h → (∃ p ∈ ps, ∃ x ∈ p, x.1 ≠ 0) →
    (∀ p ∈ ps, ∀ x ∈ p, x.1 ≠ 0 → x.2 + (bitlen x.1.natAbs : Int) + g ≤ r.e + 63) →
    let term (x : Product) : Int := if x.2 ≥ r.e then x.1 * 2 ^ (x.2 - r.e).toNat else x.1 / 2 ^ (r.e - x.2).toNat
    let exact (x : Product) : Bool := decide (x.2 ≥ r.e) || decide (x.1 % 2 ^ (r.e - x.2).toNat = 0)
    let sum (p : List Product) : Int := (p.map term).foldl (· + ·) 0
    let m := (r.m.zip ps).map fun y => BitVec.ofInt 64 (y.1.toInt + sum y.2)
    r.step g ps = {
      row := { r with m := m, h := (m.map rsb).foldl min 63, rho := (((r.rho : Int) + (ps.map sum).foldl (· + ·) 0) % 255).toNat },
      flags := if ps.any fun p => p.any fun x => !exact x then fALT else 0, event := false, bad := false }

/-- Tile commands (R207, R212 to R214): the first waiting command is accepted when fewer than 32 are in the queue: it takes its place in the
order of acceptance, its lane goes on, and it does what its acceptance does at once (an MFREE ends ownership and binding, a loop takes an
arming). MZERO, when it is reached, empties every row with its ρ and clears the event counter and the row progress, and leaves owner and
binding; MREN.UP raises every row, where no row's check fails; MFREE leaves the tile unowned, unbound and empty, and freeing as long as
another accepted MFREE of it is left. -/
def Obligations.TileCommandsRun : Prop :=
  ∀ (s : State) (core : Nat) (m : MCmd),
    let c := s.core core
    let t := c.tile m.tile
    let gone (x : Tile) : State := { s with cores := s.cores.set core { c with
      tiles := c.tiles.set m.tile x, mq := c.mq.filter fun y => y.id != m.id } }
    (∀ h l, c.mq.find? (fun m => !m.accepted) = some m → c.load < 32 →
      c.passing = none → c.saddle = some h → s.crewLive h ≠ [] → s.lanes.get? m.lane = some l → l.parks.queue = some (.matrix m.id) →
      exec (.matrixCommandAccept core) s = .next (State.settled (({ s with
        fresh := s.fresh + 1,
        cores := s.cores.set core { c with
          mq := c.mq.map fun x => if x.id = m.id then { x with accepted := true, queued := true, arr := s.fresh } else x },
        lanes := s.lanes.set m.lane { l with parks := { l.parks with queue := none } } } : State).after (onAccept core m)))) ∧
    (c.head? m.tile = some m →
      (m.kind = .zero → exec (.tileCommandReached core m.tile) s = .next (State.settled (gone { t with
        rows := List.replicate 32 TRow.none, evt := 0, prog := 0, lastG := none, arm := none }))) ∧
      (m.kind = .ren → (∀ r ∈ t.rows, r.fails = false) → exec (.tileCommandReached core m.tile) s = .next (State.settled (gone { t with
        rows := t.rows.map fun r => r.raise (t.lastG.getD 7) }))) ∧
      (m.kind = .free → exec (.tileCommandReached core m.tile) s = .next (State.settled (gone { t with
        rows := List.replicate 32 TRow.none, prog := 0, lastG := none, owner := none, bound := none, arm := none,
        freeing := c.mq.any fun x => x.id != m.id && x.accepted && x.tile == m.tile && x.kind == .free }))))

/-- A loop that its tile has reached, with its gate open and no operand that faults, asks for the operand lines of its next step that have
neither arrived nor been asked for (R261, R328); one that faults stops in a KIND 4 record (R220). When all have arrived, no other loop of
the core that is ready was accepted before it, the core has taken no step in this cycle and the arbiter has not removed it, it takes the step
(R12, R193, R207, R218): where no check fails and no arming waits, the rows take the step, the step's flags go to the issuing lane's crew, and
the progress is one more, or 0 with the loop finished after the last step. A readout's next row (R223, R224), of the rows as they stood when
the readout began, with no check failing, every place writable and no bound trapping, is sent to be stored, the flags go to the crew, and
the readout is finished once its last row is sent and every store of it is performed. (That a readout works on the rows as they stood when it
began, that a line is asked for once, and the bytes that a later readout supersedes are the model's readings, log 54; that a row's stores go in one
action is log 39.) -/
def Obligations.LoopsAndReadoutsRun : Prop :=
  ∀ (s : State) (core : Nat) (m : MCmd), let c := s.core core
    let t := c.tile m.tile
    c.head? m.tile = some m →
    (∀ l, m.kind = .loop l → s.loopReady m = true →
      (∀ cause addr, l.fault s m = some (cause, addr) → exec (.matrixKStep core m.tile) s = .next (State.settled (
        (s.after (updMCmd core m.id fun x => { x with begun := true })).after
          (unitFault 4 core m.id (m.prog + m.tile * 2 ^ 16) m.lane m.pc cause addr fun n => updMCmd core m.id fun x => { x with stopped := some n })))) ∧
      (l.fault s m = none → l.lacks s m ≠ [] → exec (.matrixKStep core m.tile) s = .next (s.after
        (askLines (.matrix core m.id) (core / 4) m.lane m.pc m.ch (s.unasked (.matrix core m.id) m.got (l.lacks s m)))).settled) ∧
      (l.fault s m = none → l.lacks s m = [] → c.stepAt ≠ some s.now → s.cutNow (core / 4) = false →
        (∀ x ∈ c.mq.takeWhile (fun x => x.id != m.id), x.accepted = true → c.head? x.tile = some x → s.stepReady x = false) →
        let out := tileStep s t m l (l.reads s m)
        out.2.2 = [] → t.arm = none → (m.prog + 1 ≥ l.ks → ∀ r ∈ out.1.rows, r.fails = false) →
        exec (.matrixKStep core m.tile) s = .next (State.settled { s with
          crews := (s.after (setFlags m.lane out.2.1)).crews,
          cores := s.cores.set core { c with
            tiles := c.tiles.set m.tile { out.1 with prog := if m.prog + 1 ≥ l.ks then 0 else m.prog + 1 },
            stepAt := some s.now,
            mq := if m.prog + 1 ≥ l.ks
              then c.mq.filter (fun x => x.id != m.id)
              else c.mq.map (fun x => if x.id = m.id then { x with begun := true, prog := m.prog + 1, got := [] } else x) } }))) ∧
    ∀ o, m.kind = .out o → m.stopped = none → s.allPerformed m.after = true →
      let done (u : State) : State := if u.unitDone (.matrix core m.id) = true then u.after (dropCmd core m.id) else u
      (o.n ≤ m.prog → exec (.moutRow core m.tile) s = .next (done s).settled) ∧
      let rows := if m.begun then m.snap else (t.rows.drop o.row).take o.n
      let out := outRow o ((rows[m.prog]?).getD TRow.none) (List.range 32)
      let places := (List.range 32).map fun j => s.writable m.lane m.id o.typ (o.elem m.prog j)
      let puts := o.puts m.prog out.1 (okLocs places)
      (m.prog < o.n → (m.begun = true ∨ ∀ r ∈ rows, r.fails = false) → out.2.2 = false → firstCause (failures places) = none →
        let u := (((s.after (storeUnit (.matrix core m.id) (core / 4) m.lane m.pc 0 m.skip
          (s.outWrites (puts.map fun w => lineOf w.at_.key)) puts)).after (supersedeOut m.arr (puts.flatMap Put.keys))).after
          (setFlags m.lane out.2.1)).after (updMCmd core m.id fun x => { x with begun := true, prog := m.prog + 1, snap := rows })
        exec (.moutRow core m.tile) s = .next (if o.n ≤ m.prog + 1 then done u else u).settled)

/-! ### Ditches and engine commands -/

/-- Ditches (R299, R301, R302, R305): a push, a pop or a reset whose turn it is at its controller is performed: a push puts its words at PPTR, a
pop takes the entry at CPTR into its registers with a true predicate, a pop with TRY that cannot take one writes zeros and a false
predicate, and a reset empties the ditch; the lane goes on. A ditch is a queue: a push into a ditch that is not full adds one entry behind those held, and a pop leaves the others. -/
def Obligations.DitchesAreQueues : Prop :=
  (∀ (s : State) (cl : Nat) (o : DOp) (d : Ditch) (l : Lane), let c := s.cluster cl
    c.dops.find? (fun x => x.id == o.id) = some o → s.dopReady cl o = true → c.ports.get? o.port = some d → s.lanes.get? o.lane = some l →
    (∀ e ∈ s.ctxs, ∀ f ∈ e.2.faults, f.num < s.fresh) →
    let done (x : Ditch) (rs : List Result) : State := { s with
      clusters := s.clusters.set cl { c with ports := c.ports.set o.port x, dops := c.dops.filter fun x => x.id != o.id },
      lanes := s.lanes.set o.lane { l with
        parks := { l.parks with queue := if l.parks.queue = some (.ditch o.id) then none else l.parks.queue }, results := rs } }
    let answer (res : Nat) (ws : Writes) : List Result := l.results.map fun x => if x.id = res then { x with vals := some ws } else x
    (o.kind = .reset → exec (.ditchControllerOp cl o.id) s = .next (State.settled (done d.reset l.results))) ∧
    (∀ ws, o.kind = .push ws → exec (.ditchControllerOp cl o.id) s = .next (State.settled (done (d.push ws) l.results))) ∧
    (∀ try_ reg n p res, o.kind = .pop try_ reg n p res →
      (c.can { o with kind := .pop false reg n p res } = true → exec (.ditchControllerOp cl o.id) s = .next (State.settled (done (d.drop 1)
        (answer res (((d.slot d.cptr).zipIdx.map fun w => (reg + w.2, w.1)) ++ p.toList.map fun q => (0x100 + q, 1)))))) ∧
      (c.can { o with kind := .pop false reg n p res } = false → exec (.ditchControllerOp cl o.id) s = .next (State.settled (done d
        (answer res (((List.replicate n (0 : Word)).zipIdx.map fun w => (reg + w.2, w.1)) ++ p.toList.map fun q => (0x100 + q, 0)))))))) ∧
  ∀ (d : Ditch) (ws : List Word), d.lgn < 32 → d.held < 2 ^ d.lgn →
    (d.push ws).held = d.held + 1 ∧ (d.push ws).slot d.pptr = ws ∧
    (∀ i < d.held, (d.push ws).slot (d.cptr + BitVec.ofNat 32 i) = d.slot (d.cptr + BitVec.ofNat 32 i)) ∧
    d.reset.held = 0 ∧ (0 < d.held → (d.drop 1).held = d.held - 1 ∧ (d.drop 1).slots = d.slots ∧ (d.drop 1).cptr = d.cptr + 1)

/-- Engine commands (R303, R317, R321, R325, R328): a command that can fire and before which nothing that could be performed waits at its
ditches takes its inputs' entries and reserves its output's room. A fired command asks for the lines that a row still needs, or delivers the
row when it has them: the row's bytes are sent to be stored and its flags go to the crew (here for a row that is neither counted at a weir
nor added to memory); a row that faults stops the command in a KIND 6 record; a row is not taken while an expectation that its lane set before
it at the weir that it counts into has yet to take effect (R323). A command whose rows are all delivered, and whose stores are
performed, pushes its entries, returns its reservation and is gone (here for a command that names no weir, no range of which is bound to a
sluice, other than SNZ). (That a row is taken when its lines have arrived, in any order, and is asked for once is the model's reading, logs 39
and 54.) -/
def Obligations.EngineCommandsRun : Prop :=
  ∀ (s : State) (cl : Nat) (m : Cmd), let c := s.cluster cl
    c.cmds.find? (fun x => x.id == m.id) = some m →
    (s.fireable cl m = true → (∀ o ∈ c.dops, o.id < m.id → o.port ∈ m.ports c → c.can o = false) → ∃ (t : State) (i j : List (List Word)),
      exec (.engineCommandFire cl m.id) s = .next t.settled ∧ t = { s with fresh := s.fresh + 1, clusters := t.clusters } ∧
      (∀ n, n ≠ cl → t.cluster n = s.cluster n) ∧
      t.cluster cl = { c with
        ports := (t.cluster cl).ports,
        cmds := c.cmds.map fun y => if y.id = m.id then { y with fired := true, arr := s.fresh, ins := i, ins2 := j } else y } ∧
      (∀ p, (t.cluster cl).ports.get? p = (c.ports.get? p).map fun d => { d with
        cptr := d.cptr + BitVec.ofNat 32 (m.takes c p),
        rsv := d.rsv + (match m.output c with | some (q, n) => if q = p then BitVec.ofNat 32 n else 0 | none => 0) }) ∧
      ∀ p n rest d, m.inputs c = (p, n) :: rest → c.ports.get? p = some d → i = d.first n) ∧
    (∀ row, m.fired = true → m.stopped = none → m.dropped = false → row < m.kind.total → row ∉ m.rows → s.expAhead m = false →
      (∀ r, m.count = none → s.rowOf m row = .goes r → r.add = none →
        let u := s.after (storeUnit (.engine cl m.id 0) cl m.lane m.pc m.ch [] [] r.puts)
        exec (.engineRow cl m.id row) s = .next (State.settled { u with
          crews := (u.after (setFlags m.lane r.flags)).crews,
          clusters := u.clusters.set cl { u.cluster cl with cmds := (u.cluster cl).cmds.map fun x => if x.id = m.id then
            { x with rows := x.rows ++ [row], got := x.got.del (row + 1), out := if r.out.isEmpty then x.out else x.out.set row r.out } else x } })) ∧
      (∀ slot ls, s.rowOf m row = .asks slot ls → exec (.engineRow cl m.id row) s = .next (s.after (startLines cl m slot ls)).settled) ∧
      (∀ cause addr, s.rowOf m row = .stops (cause, addr) → exec (.engineRow cl m.id row) s = .next (s.after
        (unitFault 6 cl m.id row m.lane m.pc cause addr fun n => updCmd cl m.id fun x => { x with stopped := some (row, n), halted := true })).settled)) ∧
    (m.fired = true → m.stopped = none → m.rows.length = m.kind.total → s.cmdDone cl m = true → m.arrive = none →
      (∀ a b n p y g r f w, m.kind ≠ .nz a b n p y g r f w) → (∀ v, s.ctxs.get? (s.ctxOf m.lane) = some v → v.binds = []) →
      (∀ x ∈ c.cmds, x.fired = true → m.arr ≤ x.arr) →
      let ports (es : List (List Word)) (ord : Bool) : Map Nat Ditch := match m.output c with
        | some (p, mx) => match c.ports.get? p with
          | some d => c.ports.set p { es.foldl Ditch.push d with
              rsv := (es.foldl Ditch.push d).rsv - BitVec.ofNat 32 mx, ord := (es.foldl Ditch.push d).ord || ord }
          | none => c.ports
        | none => c.ports
      let out := m.entries (match m.output c with | some (p, _) => (match c.ports.get? p with | some d => d.ew | none => 1) | none => 1)
      exec (.engineCommandComplete cl m.id) s = .next (State.settled { s with
        crews := (s.after (setFlags m.lane out.2.1)).crews,
        clusters := s.clusters.set cl { c with ports := ports out.1 out.2.2, cmds := c.cmds.filter fun x => x.id != m.id } }))

/-! ### Recovery -/

/-- Recovery regions (R415 to R418) as a lane issues them. RBEGIN opens a region, at most eight. RPRES appends one record of the registers that
it names, with the values that they have, to the undo store; RPRESM probes its bytes, reads them at their home agents after the lane's earlier
accesses and parks the lane until the record is written; REND parks it until the commands issued since the RBEGIN have completed and every
result is written, and then closes the region: its tiles become unbound and the undo bytes in use are again those at its RBEGIN. An error that
is pending keeps the region open. A lane with no region open, a record that does not fit, and a ninth region fault-park the lane and change
nothing else. (An RPRESM's reads go out in requests by line with all of the issue's, log 42.)
ROLLBACK (R404, R405, R412, R420) of one lane whose innermost region with a retry left is `r`, with nothing left to drain, no tile bound to
`r` or to a region inside it and no snapshot since `r` opened: the regions inside `r` go, `r` counts one more retry, and the lane presents at
the restart label with no error pending, LAST naming the error; one record, ECODE 0x10 for the innermost region and 0x11 else. -/
def Obligations.RollbacksRestart : Prop :=
  (∀ (s : State) (e : Env), e.s = s → s.lanes.get? e.k = some e.l →
    let stops (cause : Nat) : State := s.after (faultRecord 2 0 [⟨e.k, cause, e.l.pc⟩])
    let goes (l : Lane) : State := { s with lanes := s.lanes.set e.k (l.issued (e.l.pc + 12) e.op.w) }
    let base := e.l.undoBase + e.l.undoUse
    let waits (x : WaitFor) : Lane := { e.l with parks := { e.l.parks with wait := e.l.parks.wait ++ [x] } }
    (e.op.maj = .rbegin → s.after (issueMaj e.op.maj [e]) = if 8 ≤ e.l.regions.length then stops 0x1A else goes { e.l with regions :=
      { restart := e.l.pc + 12 + e.op.lit.signExtend 64, rlim := (e.src e.op.fy).setWidth 8, rtry := 0, umark := e.l.undoUse, tiles := 0,
        cmdMark := e.l.seq } :: e.l.regions }) ∧
    (∀ (y z : Nat), e.op.maj = .rpres → (e.mn ≠ 1 → ∃ n : Fin 256, e.op.fy = .g n ∧ n.val = y) → (2 ≤ e.mn → ∃ n : Fin 256, e.op.fz = .g n ∧ n.val = z) →
      let rs : List (Nat × Word) := match e.mn with
        | 0 => ((List.range 32).filter fun i => e.op.lit.getLsbD i).map fun i => (y + i, e.l.reg (y + i))
        | 1 => ((List.range 16).filter fun i => e.op.lit.getLsbD i).map fun i => (0x100 + i, if e.l.pred i then 1 else 0)
        | _ => (List.range (z + 1 - y)).map fun i => (y + i, e.l.reg (y + i))
      let n := 8 * rs.length
      s.after (issueMaj e.op.maj [e]) =
        if e.l.regions = [] then stops 0x13
        else if rs = [] then goes e.l
        else if e.undo < e.l.undoUse + snapSize n then stops 0x3A
        else { goes { e.l with undoUse := e.l.undoUse + snapSize n } with mem := (s.after (storeBytes base (
          bytesLE 16 (n * 2 ^ 32 + e.l.regions.length * 2 ^ 16) ++ (rs.flatMap fun r => bytesLE 4 r.1 ++ bytesLE 4 r.2.toNat) ++
          List.replicate (snapSize n - 16 - n) 0))).mem }) ∧
    (e.op.maj = .rpresm →
      let va := e.src64 .n64 e.op.fy
      let n := (e.src e.op.fz).toNat
      let probe := s.probe (s.ctxOf e.k) (s.gangOf e.k) va n { rd := true, wr := true }
      (n = 0 → s.after (issueMaj e.op.maj [e]) = goes { e.l with seq := e.l.seq + 1 }) ∧
      (n ≠ 0 → e.l.regions = [] → s.after (issueMaj e.op.maj [e]) = stops 0x13) ∧
      (∀ cause addr, n ≠ 0 → e.l.regions ≠ [] → probe = some (cause, addr) →
        s.after (issueMaj e.op.maj [e]) = s.after (faultRecord 1 0 [⟨e.k, cause, addr⟩])) ∧
      (n ≠ 0 → e.l.regions ≠ [] → probe = none → 65520 < n ∨ e.undo < e.l.undoUse + snapSize n → s.after (issueMaj e.op.maj [e]) = stops 0x3A) ∧
      (n ≠ 0 → e.l.regions ≠ [] → probe = none → n ≤ 65520 → e.l.undoUse + snapSize n ≤ e.undo →
        let u := s.after (keepLeaf (s.ctxOf e.k) va)
        let xs := e.snapReads u
        let v := (u.after (Act.each xs fun x => sendWback (u.clusterOf x.1.lane) (lineOf x.1.key))).after (sendLines [] xs)
        let l : Lane := { waits (.snap va n (v.sentFor e.k e.l.seq)) with seq := e.l.seq + 1 }
        s.after (issueMaj e.op.maj [e]) = { v with lanes := s.lanes.set e.k (l.issued (e.l.pc + 12) e.op.w) })) ∧
    (e.op.maj = .rend → (e.l.regions = [] → s.after (issueMaj e.op.maj [e]) = stops 0x13) ∧
      ∀ r rs, e.l.regions = r :: rs → s.after (issueMaj e.op.maj [e]) = goes (waits (.rend r.cmdMark)))) ∧
  (∀ (s : State) (k : LaneId) (l : Lane), s.lanes.get? k = some l →
    let awake : Lane := { l with parks := { l.parks with wait := [] } }
    (∀ r rs mark, l.regions = r :: rs → l.parks.wait = [.rend mark] →
      (l.err = none → (∀ x ∈ l.results, x.silent = true) → (s.setD k mark).cmds = [] → (s.setD k mark).tiles = [] →
        s.after (serveWaits k) = ((({ s with lanes := s.lanes.set k awake } : State).after
          (Act.each ((List.range 16).filter fun i => r.tiles.getLsbD i) (unbindTile (s.coreOf k)))).after
            (updLane k fun x => { x with regions := x.regions.drop 1, undoUse := r.umark })) ∧
        (r.tiles = 0 → s.after (serveWaits k) = { s with lanes := s.lanes.set k { awake with regions := rs, undoUse := r.umark } })) ∧
      (l.err ≠ none ∨ (∃ x ∈ l.results, x.silent = false) ∨ (s.setD k mark).cmds ≠ [] ∨ (s.setD k mark).tiles ≠ [] → s.after (serveWaits k) = s)) ∧
    ∀ va n ids, l.parks.wait = [.snap va n ids] → l.err = none → (∀ r ∈ s.reqs, r.id ∉ ids) →
      let at_ := l.undoBase + l.undoUse
      s.after (serveWaits k) = { s with
        mem := ((s.after (storeBytes at_ (bytesLE 16 (va.toNat * 2 ^ 64 + n * 2 ^ 32 + l.regions.length * 2 ^ 16 + 1)))).after
          (storeBytes (at_ + 16 + n) (List.replicate (snapSize n - 16 - n) 0))).mem,
        lanes := s.lanes.set k { awake with undoUse := l.undoUse + snapSize n } }) ∧
  ∀ (s : State) (k : LaneId) (l : Lane) (w : Wg) (g : Gang) (e : DetErr) (inner outer : List Region) (r : Region),
    s.lanes.get? k = some l → s.wgs.get? k.wg = some w → w.active = true → l.exited = false → l.err = some e →
    s.gangs.get? w.gang = some g → g.kill = none → g.ended = false →
    l.regions = inner ++ r :: outer → (∀ y ∈ inner, y.rlim.toNat ≤ y.rtry.toNat) → r.rtry.toNat < r.rlim.toNat →
    l.results = [] → (∀ m ∈ (s.cluster (s.clusterOf k)).cmds, m.lane = k → m.seq < r.cmdMark) →
    (∀ m ∈ (s.core (s.coreOf k)).mq, m.lane = k → m.seq < r.cmdMark) → (∀ q ∈ s.reqs, ∀ a ∈ q.acc, a.lane ≠ k) →
    (∀ t < 16, ∀ d, ((s.core (s.coreOf k)).tile t).bound = some (k, d) → d ≤ outer.length) → l.undoUse ≤ r.umark →
    (s.peloton (s.coreOf k) (s.pslot k)).rolledAt ≠ some s.now →
    let u := s.after (writeError { s.errOf k (if inner = [] then 0x10 else 0x11) e.pc.toNat r.restart.toNat with cnt := 1 })
    let un := match inner.getLast? with | some y => y.umark | none => l.undoUse
    exec (.rollback k []) s = .next (State.settled { u with
      lanes := s.lanes.set k { l with
        regions := { r with rtry := r.rtry + 1 } :: outer, undoUse := un,
        pc := r.restart, latch := none, wait := 0, err := none, last := BitVec.ofNat 32 (e.code % 2 ^ 16 + e.source * 2 ^ 16) },
      pelotons := s.pelotons.set (s.coreOf k, s.pslot k) { s.peloton (s.coreOf k) (s.pslot k) with rolledAt := some s.now } })

/-- GANG_KILL (R410 to R412): the first step of a gang whose kill is decided writes the record of the kill, ends the lanes that live, and drains
what can be drained; then, once nothing of its lanes' commands is left, their hold lists are released, the gang has ended, its workgroups
hold nothing, and its launch places it again under the next %relaunch number, or abandons it at the limit. An ended lane is in no park, and
what it has not been granted or had accepted is withdrawn; it keeps its hold list, and its changes of weir slots on their way, until its
commands are drained. (The phases, and a loop at a gate that nothing can open any more, are the model's reading, log 31.) -/
def Obligations.GangKillsEnd : Prop :=
  ∀ (s : State) (id : Nat) (g : Gang) (pc : DWord), s.gangs.get? id = some g → g.kill = some pc → g.ended = false →
    let live := (s.gangLanes id).filter fun k => !s.gone k
    let ds := s.drainAll (fun k => g.wgs.contains k.wg) g.cluster
    (g.reported = false → exec (.gangKill id) s = .next (State.settled ((({ s.after (writeError (s.gangErr g 0x12 1 pc.toNat)) with
      gangs := s.gangs.set id { g with reported := true } } : State).after (Act.all ds)).after (Act.each live endLane)))) ∧
    (g.reported = true → ds ≠ [] → exec (.gangKill id) s = .next (s.after (Act.all ds)).settled) ∧
    (g.reported = true → ds = [] → s.commandsLeft (fun k => g.wgs.contains k.wg) g.cluster = false →
      exec (.gangKill id) s = .next (State.settled ((((((s.after (dropHolds (s.gangLanes id))).after (freePorts id g.cluster)).after
        (Act.each g.wgs freeWg)).after (closeFaults g.ctx fun f => f.gang == id)).after (updGang id fun g => { g with ended := true })).after
          (relaunch g)))) ∧
    (∀ l, s.launches.get? g.launch = some l → s.after (relaunch g) = if g.relaunch < l.limit
      then { s.after (writeError (s.gangErr g 0x13 1 0)) with launches := s.launches.set g.launch { l with
        again := l.again ++ [(g.idx, g.relaunch + 1)], reln := min 15 (l.reln + 1) } }
      else { s.after (writeError (s.gangErr g 0x15 0 0)) with launches := s.launches.set g.launch { l with
        finished := l.finished + 1, abandoned := true } }) ∧
    (∀ w v, Memory.wf s.mem → s.wgs.get? w = some v → (∀ t < 16, ((s.core v.core).tile t).owner ≠ some w) → s.after (freeWg w) = { s with
      mem := s.mem.filter fun c => !(decide (scratchKey w 0 ≤ c.1) && decide (c.1 < scratchKey (w + 1) 0)),
      clusters := s.clusters.set (v.core / 4) { s.cluster (v.core / 4) with segs := (s.cluster (v.core / 4)).segs.filter fun x => x.2.1 != w },
      wgs := s.wgs.set w { v with
        active := false, parking := false, exited := true, freed := true, weirs := [], retiring := [], answers := [], saddleOwed := [] } }) ∧
    ∀ k l, s.lanes.get? k = some l → l.exited = false → s.after (endLane k) = { s with
      slreqs := s.slreqs.filter fun r => r.lane != k,
      dev := if s.slreqs.any (fun r => r.lane == k) = true
        then { s.dev with wq := (s.dev.wq ++ (s.slreqs.filter fun r => r.lane == k).map (·.key)).dedup } else s.dev,
      clusters := s.clusters.set (s.clusterOf k) { s.cluster (s.clusterOf k) with dops := (s.cluster (s.clusterOf k)).dops.filter fun o => o.lane != k },
      cores := s.cores.set (s.coreOf k) { s.core (s.coreOf k) with mq := (s.core (s.coreOf k)).mq.filter fun m => m.accepted || m.lane != k },
      lanes := s.lanes.set k { l with
        exited := true, exiting := false, latch := none, parks := Parks.none, results := [], regions := [], err := none,
        trapLane := false, arrived := [], heldBy := none, undoUse := 0,
        arriving := l.arriving.filter fun a => match a with | .barrier _ _ _ => false | .weir .. => true } }

/-! ### Launches -/

/-- Launches (R94, R336, R337, R339): the sequencer takes the head record of a queue that it may serve, or the oldest record of an open context
that a lane passed to it; a record that is refused writes an error record with the cause, one that is accepted becomes a launch under the
context's next %launch number; a condition that has held at a read is met. A launch of an open context whose gangs have all finished, and of
which nothing is left, has the bytes that its lanes left dirty in L1s written back; once they are performed CDONE's decrement is sent, where
it has one; once that is performed its completion record is added, and the launch goes with its gangs, workgroups, crews and lanes. (The phases of
completion, and that it takes those things from the state, are the model's reading, log 33.)
Tasks and queues (R345, R346, R348 to R354) as one lane issues them. A bad record, counter, queue or an open region fault-parks the lane, which has
no other effect. TSPAWN's record enters the cistern when there is room and the part is empty, with the step up on its join counter; else TRY
answers false, WAIT parks the lane until its record is at the tail of the part, and with the part full it faults. TTAKE.TRY takes the record
whose turn it is, else answers zeros and false; TTAKE.WAIT parks. TJOIN sends the step down, once the lane's writes are performed at DEV scope;
TJWAIT parks until its counter reads 0. QPUSH and QPOP put and take one record, or park, or with TRY answer false; LAUNCH hands its record to the
sequencer of its die. (When waiting takers, spawners, poppers and pushers are served is the model's reading, log 30.) -/
def Obligations.LaunchesRun : Prop :=
  (∀ (s : State) (e : Env), e.s = s → s.lanes.get? e.k = some e.l →
    let stops (cause : Nat) : State := s.after (faultRecord 2 0 [⟨e.k, cause, e.l.pc⟩])
    let pending (id : Nat) (vals : Option Writes) (silent : Bool) : Result :=
      { id := id, vals := vals, flags := 0, err := none, readyAt := s.now + 1, req := none, silent := silent }
    let z := decide (e.op.fx = .z)
    let goes (u : State) (l : Lane) : State := { u with lanes := s.lanes.set e.k (l.issued (e.l.pc + 12) e.op.w) }
    let result (id : Nat) (vals : Option Writes) (silent : Bool) : Lane := { e.l with results := e.l.results ++ [pending id vals silent] }
    let parked (l : Lane) (q : QueuePark) : Lane := { l with parks := { l.parks with queue := some q } }
    let cl := s.clusterOf e.k
    let c := s.cluster cl
    let ctx := s.ctxOf e.k
    (e.op.maj = .tspawn → (e.mn = 0 ∨ e.mn = 1) → e.l.spawned = none →
      let ws := e.record e.op.fy
      let j := (ws[3]?).getD 0 ++ (ws[2]?).getD 0
      let kdi := ((ws[0]?).getD 0).toNat
      let probe := if j = 0 then none else s.probeAligned ctx (s.gangOf e.k) j 8 atomNeed
      let at_ := if j = 0 then none else (s.at e.k j).map fun x => (x, j)
      let held := (c.spilled ctx).2
      let full := decide (4096 ≤ c.cistern.length) || !held.isEmpty
      let u := s.after (sendWbacks cl)
      (e.l.regions ≠ [] → s.after (issueMaj e.op.maj [e]) = stops 0x1A) ∧
      (e.l.regions = [] → 2 ^ 16 ≤ kdi ∨ (ws[1]?).getD 0 ≠ 0 ∨ s.desc ctx (kdi % 2 ^ 16) = none → s.after (issueMaj e.op.maj [e]) = stops 0x28) ∧
      (e.l.regions = [] → kdi < 2 ^ 16 → (ws[1]?).getD 0 = 0 → s.desc ctx kdi ≠ none →
        (∀ cause addr, probe = some (cause, addr) → s.after (issueMaj e.op.maj [e]) = s.after (faultRecord 1 0 [⟨e.k, cause, addr⟩])) ∧
        (probe = none → full = false →
          let v := u.after (sendJoins (fun _ => []) (at_.map (u.joinStep e.k e.l.pc e.l.seq .joinInc)).toList)
          s.after (issueMaj e.op.maj [e]) = goes { v with
              fresh := v.fresh + 1,
              clusters := v.clusters.set cl { v.cluster cl with
                cisthw := (v.cluster cl).cisthwSet,
                cistern := (v.cluster cl).cistern ++ [{ ctx := ctx, words := ws, after := u.fenceSet e.k 3 ++ v.sentFor e.k e.l.seq }] } }
            { result v.fresh (some (dest e.op.fx [1])) z with spawned := some 0, seq := e.l.seq + 1 }) ∧
        (probe = none → full = true → e.mn = 1 → s.after (issueMaj e.op.maj [e]) = goes { s with fresh := s.fresh + 1 }
          { result s.fresh (some (dest e.op.fx [0])) z with spawned := some 0, seq := e.l.seq + 1 }) ∧
        (probe = none → full = true → e.mn = 0 → (∀ x ∈ s.lanes, ∀ op rs a r n b, x.2.parks.queue ≠ some (.spawn op rs a r n b)) →
          (held.length < (s.part ctx cl).2 → s.after (issueMaj e.op.maj [e]) = goes { u with fresh := u.fresh + 1 }
            { parked (result u.fresh none z) (.spawn e.op ws at_ u.fresh u.fresh (({ u with fresh := u.fresh + 1 } : State).fenceSet e.k 3)) with
              spawned := some 0, seq := e.l.seq + 1 }) ∧
          ((s.part ctx cl).2 ≤ held.length → s.after (issueMaj e.op.maj [e]) = stops 0x2A)))) ∧
    (e.op.maj = .ttake →
      (e.mn = 0 → s.after (issueMaj e.op.maj [e]) = goes { s with fresh := s.fresh + 1 }
        (parked (result s.fresh none z) (.take e.op s.fresh s.fresh))) ∧
      (e.mn = 1 → s.takeable cl ctx = none → s.after (issueMaj e.op.maj [e]) = goes { s with fresh := s.fresh + 1 }
        (result s.fresh (some (groupWrites e.op (List.replicate 16 0) false)) z)) ∧
      (∀ x i d, e.mn = 1 → s.takeable cl ctx = some (x, i) → x.ctx = ctx → (∀ y ∈ s.lanes, ∀ op r n, y.2.parks.queue ≠ some (.take op r n)) →
        s.desc ctx (((x.words[0]?).getD 0).toNat % 2 ^ 16) = some d → s.after (issueMaj e.op.maj [e]) = goes { s with
            fresh := s.fresh + 1,
            clusters := s.clusters.set cl (({ c with cistern := c.cistern.eraseIdx i, cisthw := c.cisthwSet } : Cluster).dropClean fun _ _ => true) }
          (result s.fresh (some (groupWrites e.op
            (words64 d.entry ++ words64 ((x.words[3]?).getD 0 ++ (x.words[2]?).getD 0) ++ x.words.drop 4) true)) z))) ∧
    ((e.op.maj = .tjoin ∨ e.op.maj = .tjwait) →
      let j : DWord := e.src64 .n64 e.op.fy
      let probe := s.probeAligned ctx (s.gangOf e.k) j 8 atomNeed
      (j = 0 → s.after (issueMaj e.op.maj [e]) = goes s { e.l with seq := e.l.seq + 1 }) ∧
      (∀ cause addr, j ≠ 0 → probe = some (cause, addr) → s.after (issueMaj e.op.maj [e]) = s.after (faultRecord 1 0 [⟨e.k, cause, addr⟩])) ∧
      ∀ x, j ≠ 0 → probe = none → s.at e.k j = some x →
        (e.op.maj = .tjoin → let u := s.after (sendWbacks cl)
          s.after (issueMaj e.op.maj [e]) = goes (u.after (sendJoins (u.fenceSet · 4) [u.joinStep e.k e.l.pc e.l.seq .joinDec (x, j)]))
            { e.l with seq := e.l.seq + 1 }) ∧
        (e.op.maj = .tjwait → let u := s.after (sendWback cl (lineOf x.key))
          s.after (issueMaj e.op.maj [e]) = goes { u with fresh := u.fresh + 1 }
            { parked e.l (.join j x.key (u.pendingOn e.k (lineOf x.key)) u.fresh none) with seq := e.l.seq + 1 })) ∧
    ((e.op.maj = .qpush ∨ e.op.maj = .qpop) →
      let q := (e.src (if e.op.maj = .qpush then e.op.fz else e.op.fy)).toNat
      let x := s.wq q
      let bad := decide (2047 < q) || x.ctx != ctx || (if e.op.maj = .qpush then !x.en else !x.item || (!x.en && x.recs.isEmpty))
      (e.op.maj = .qpush → e.l.regions ≠ [] → s.after (issueMaj e.op.maj [e]) = stops 0x1A) ∧
      ((e.op.maj = .qpop ∨ e.l.regions = []) → bad = true → s.after (issueMaj e.op.maj [e]) = stops 0x29) ∧
      (e.op.maj = .qpush → e.l.regions = [] → bad = false →
        let ws := e.record e.op.fy
        (x.recs.length < x.depth → s.pushers q = [] → let u := ({ s with fresh := s.fresh + 1 } : State).after (sendWbacks cl)
          s.after (issueMaj e.op.maj [e]) = goes { u with queues := u.queues.set q { x with recs := x.recs ++ [(recordBits ws, u.fenceSet e.k 4)] } }
            { result s.fresh (some (dest e.op.fx [1])) z with seq := e.l.seq + 1 }) ∧
        (x.depth ≤ x.recs.length → s.after (issueMaj e.op.maj [e]) = goes { s with fresh := s.fresh + 1 }
          (if e.mn = 0 then { parked (result s.fresh none z) (.push e.op q ws s.fresh s.fresh) with seq := e.l.seq + 1 }
           else { result s.fresh (some (dest e.op.fx [0])) z with seq := e.l.seq + 1 }))) ∧
      (e.op.maj = .qpop → bad = false →
        (∀ v, s.headRec q = some v → s.poppers q = [] → s.after (issueMaj e.op.maj [e]) = goes { s with
            fresh := s.fresh + 1, queues := s.queues.set q { x with recs := x.recs.drop 1 },
            clusters := s.clusters.set cl (c.dropClean fun _ _ => true) }
          (result s.fresh (some (groupWrites e.op (recordWords v) true)) z)) ∧
        (s.headRec q = none → s.after (issueMaj e.op.maj [e]) = goes { s with fresh := s.fresh + 1 }
          (if e.mn = 0 then parked (result s.fresh none z) (.pop e.op q s.fresh s.fresh)
           else result s.fresh (some (groupWrites e.op (List.replicate 16 0) false)) z)))) ∧
    (e.op.maj = .launch → (e.l.regions ≠ [] → s.after (issueMaj e.op.maj [e]) = stops 0x1A) ∧
      (e.l.regions = [] → let u := s.after (sendWbacks cl)
        s.after (issueMaj e.op.maj [e]) = goes { u with seqs := u.seqs.set (cl / 24) { u.seqr (cl / 24) with
          given := (u.seqr (cl / 24)).given ++ [(ctx, e.k, e.l.pc, recordBits (e.record e.op.fy), u.fenceSet e.k 4)] } }
            { e.l with seq := e.l.seq + 1 }))) ∧
  (∀ (s : State) (cl ctx : Nat), let c := s.cluster cl
    (∀ x ∈ c.cistern, x.ctx = ctx ∧ x.after = []) →
      (c.cistern.length ≤ c.cisthwSet.toNat → s.takeable cl ctx = (c.cistern.head?).map fun x => (x, 0)) ∧
      (c.cisthwSet.toNat < c.cistern.length → s.takeable cl ctx = (c.cistern.getLast?).map fun x => (x, c.cistern.length - 1))) ∧
  (∀ (s : State) (k : LaneId) (l : Lane), s.lanes.get? k = some l → (Map.keys s.lanes).Nodup → ∀ va key ids n h,
    l.parks.queue = some (.join va key ids n h) → s.allPerformed ids = true → s.keyReach key = true → s.pieceMoves (lineOf key) = false →
      (s.after serveJoins).lanes.get? k = some (if s.homeNum key 8 = 0 then { l with parks := { l.parks with queue := none } } else l)) ∧
  (∀ (s : State) (cl : Nat) (k : LaneId) (l : Lane) (op : Op) (ws : List Word) (res arr : Nat) (ids : List Nat), s.lanes.get? k = some l →
    l.parks.queue = some (.spawn op ws none res arr ids) → s.clusterOf k = cl → let p := s.part (s.ctxOf k) cl
    let h := (s.cluster cl).spilled (s.ctxOf k)
    s.spillers cl = [(k, .spawn op ws none res arr ids)] → h.2.length < p.2 → s.allPerformed ids = true → s.after (serveSpills cl 1) = { s with
      mem := (s.after (storeBytes (p.1 + (h.1 + h.2.length) % p.2 * 64) (ws.flatMap fun w => bytesLE 4 w.toNat))).mem,
      clusters := s.clusters.set cl { s.cluster cl with
        cisthw := (s.cluster cl).cisthwSet, parts := (s.cluster cl).parts.set (s.ctxOf k) (h.1, h.2 ++ [ids ++ s.sentFor k l.seq]) },
      lanes := s.lanes.set k { l with
        parks := { l.parks with queue := none }, results := l.results.map fun x => if x.id = res then { x with vals := some (dest op.fx [1]) } else x } }) ∧
  (∀ (s : State) (die q : Nat) (v : BitVec 512), s.mayServe die q = true → s.headRec q = some v →
    let z := s.seqr die
    let others := (s.launchQueues die).filter fun y => y.1 != q && y.2 == (s.wq q).level
    exec (.launchAccept die (some q)) s = .next (State.settled (({ s with
      queues := s.queues.set q { s.wq q with recs := (s.wq q).recs.drop 1 },
      seqs := s.seqs.set die { z with
        served := others.foldl (fun (m : Map Nat (List Nat)) y => m.set y.1 (Map.getD m y.1 [] ++ [q])) (z.served.del q) } } : State).after
          (acceptRecord (s.wq q).ctx none v.toNat)))) ∧
  (∀ (s : State) (die ctx : Nat) (k : LaneId) (pc : DWord) (v : BitVec 512) (after : List Nat),
    (s.seqr die).given.find? (fun x => s.isOpen x.1) = some (ctx, k, pc, v, after) → s.allPerformed after = true →
    exec (.launchAccept die none) s = .next (State.settled (({ s with seqs := s.seqs.set die { s.seqr die with
      given := (s.seqr die).given.erase (ctx, k, pc, v, after) } } : State).after (acceptRecord ctx (some (k, pc)) v.toNat)))) ∧
  (∀ (s : State) (ctx : Nat) (c : Ctx) (v : Nat), s.ctxs.get? ctx = some c →
    (∀ code, s.refusal ctx c v = some code → s.after (acceptRecord ctx none v) = s.after (writeError
      { ecode := code, ctx := ctx, aux := if code = 0x20 then 0 else v % 65536 })) ∧
    (∀ d x, s.refusal ctx c v = none → s.desc ctx (v % 65536) = some d → s.sidecar ctx (bits v 127 64) = some x →
      s.after (acceptRecord ctx none v) = { s with
        fresh := s.fresh + 1,
        launches := s.launches.set s.fresh
          { ctx := ctx, lnum := c.lnum, kdi := v % 65536, desc := d, prio := bits v 19 16,
            limit := if bits v 27 24 = 0 then 2 else bits v 27 24 - 1,
            args := (List.range 12).map fun i => BitVec.ofNat 32 (bits v (32 * i + 159) (32 * i + 128)), grid := bits v 63 32,
            side := BitVec.ofNat 64 (bits v 127 64), cdone := BitVec.ofNat 64 (bits x 319 256),
            conds := s.condAt ctx (bits x 63 0) (bits x 127 64) ++ s.condAt ctx (bits x 191 128) (bits x 255 192),
            next := 0, again := [], finished := 0, reln := 0, abandoned := false, order := s.dev.order },
        dev := { s.dev with order := s.dev.order + 1 }, ctxs := s.ctxs.set ctx { c with lnum := c.lnum + 1 } })) ∧
  (∀ (s : State) (n : Nat) (l : Launch), s.launches.get? n = some l → (∃ c ∈ l.conds, c.seen = true ∧ c.met = false) →
    exec (.launchConditionCheck n) s = .next (State.settled { s with
      launches := s.launches.set n { l with conds := l.conds.map fun c => { c with met := c.met || c.seen } } })) ∧
  ∀ (s : State) (n : Nat) (l : Launch), s.launches.get? n = some l → l.grid ≤ l.finished → s.isOpen l.ctx = true →
    let gs := s.gangs.filter fun x => x.2.launch == n
    let ws := gs.flatMap fun g => g.2.wgs
    let cls := (gs.map fun g => g.2.cluster).dedup
    let u := s.after (Act.each cls sendWbacks)
    let ids := cls.flatMap u.wbacksIn
    (l.closing = none → s.traces (fun k => ws.contains k.wg) = false → (∀ w ∈ ws, ∀ v, s.wgs.get? w = some v → v.freed = true) →
      (∀ g ∈ gs, ∀ p ∈ (s.cluster g.2.cluster).ports, p.2.gang ≠ g.1) →
      exec (.launchComplete n) s = .next (State.settled (if ids = [] then u.after (closeLaunch n l gs)
        else { u with launches := u.launches.set n { l with closing := some (false, ids) } }))) ∧
    (∀ rs, l.closing = some (false, rs) → s.allPerformed rs = true →
      exec (.launchComplete n) s = .next (s.after (closeLaunch n l gs)).settled) ∧
    (∀ rs, l.closing = some (true, rs) → s.allPerformed rs = true →
      exec (.launchComplete n) s = .next (s.after (finishLaunch n l gs)).settled) ∧
    (∀ x, l.cdone ≠ 0 → s.locate l.ctx s.fresh l.cdone = some x → s.after (closeLaunch n l gs) = { s.after (sendDone l x) with
      launches := s.launches.set n { l with closing := some (true, [s.fresh]) } }) ∧
    ((l.cdone = 0 ∨ s.locate l.ctx s.fresh l.cdone = none) → s.after (closeLaunch n l gs) = s.after (finishLaunch n l gs)) ∧
    let c := s.after (writeCompletion l.ctx
      (l.side.toNat * 2 ^ 64 + l.lnum.toNat * 2 ^ 32 + l.reln % 16 * 2 ^ 20 + (if l.abandoned then 2 ^ 16 else 0) + l.kdi % 2 ^ 16))
    ∃ t : State, t = s.after (finishLaunch n l gs) ∧
      t = { c with lanes := t.lanes, crews := t.crews, wgs := t.wgs, gangs := t.gangs, launches := c.launches.del n } ∧
      (∀ k, t.lanes.get? k = if (∃ w ∈ ws, k ∈ s.wgLanes w) then none else c.lanes.get? k) ∧
      (∀ k, t.crews.get? k = if k.wg ∈ ws then none else c.crews.get? k) ∧
      (∀ w, t.wgs.get? w = if w ∈ ws then none else c.wgs.get? w) ∧
      ∀ g, t.gangs.get? g = if (∃ x ∈ gs, x.1 = g) then none else c.gangs.get? g

/-- Placement, activation and the quantum (R338, R340 to R343): the next gang of the placeable launch that goes first is placed on a cluster
that takes it, its workgroups admitted parked and its lanes at the descriptor's entry; a parked workgroup whose turn it is takes the
spokes that it is given, with crews of its own, their K registers holding the launch's arguments, at its first activation; at each quantum the core takes over QUANTUM, and with no
workgroup to swap in changes nothing else; before the quantum has passed the tick changes nothing. -/
def Obligations.GangsRun : Prop :=
  (∀ (s : State) (n cl idx rel : Nat) (cores stk und : List Nat) (l : Launch) (c : Ctx), let d := l.desc
    s.launches.get? n = some l → s.ctxs.get? l.ctx = some c → l.nextGang = some (idx, rel) → s.dev.up = true → cl < 144 →
    s.placeable l = true → s.fits l cl = true →
    (∀ m ∈ s.launches, m.2.before l = true → s.placeable m.2 = true → ∀ i < 144, s.fits m.2 i = false) →
    cores.length = d.gang → cores.Nodup → (∀ i ∈ cores, i < 4 ∧ 0 < s.freeSlots (4 * cl + i)) →
    stk.length = d.gang * d.lanes → piecesOk (c.stksz.toNat * 65536) d.stack 16 (s.stacks l.ctx c) stk = true →
    und.length = d.gang * d.lanes → piecesOk (c.undosz.toNat * 65536) d.undo 1 (s.undos l.ctx c) und = true →
    (∀ x ∈ c.weirs d, x.1 < 2 ^ 22) → ∃ t : State,
      exec (.gangPlace n cl cores stk und) s = .next t.settled ∧
      t = { s with
        fresh := s.fresh + 1 + d.gang, gangs := t.gangs, wgs := t.wgs, lanes := t.lanes, clusters := t.clusters, mem := t.mem,
        launches := s.launches.set n { l with
          again := l.again.filter fun x => decide (x ≠ (idx, rel)), next := if l.again.isEmpty then l.next + 1 else l.next } } ∧
      t.gangs = s.gangs.set s.fresh
        { launch := n, ctx := l.ctx, idx := idx, relaunch := rel, cluster := cl, wgs := (List.range d.gang).map (s.fresh + 1 + ·),
          started := false, startedAt := s.now, kill := none, ended := false, phases := [] } ∧
      (∀ i < d.gang, ∃ w, t.wgs.get? (s.fresh + 1 + i) = some w ∧ w.ctx = l.ctx ∧ w.gang = s.fresh ∧ w.idx = i ∧
        some w.core = (cores[i]?).map (4 * cl + ·) ∧ w.kdi = l.kdi ∧ w.desc = d ∧ w.active = false ∧ w.begun = false ∧ w.parkedAt = s.now ∧
        w.exited = false ∧ w.freed = false ∧ w.sregs = [] ∧ ∀ o, o ∈ w.weirs ↔ ∃ e, (o, e) ∈ c.weirs d) ∧
      (∀ w, w < s.fresh + 1 ∨ s.fresh + 1 + d.gang ≤ w → t.wgs.get? w = s.wgs.get? w) ∧
      (∀ i < d.gang, ∀ j < d.lanes, ∀ a b, stk[i * d.lanes + j]? = some a → und[i * d.lanes + j]? = some b →
        t.lanes.get? ⟨s.fresh + 1 + i, j⟩ = some (Lane.start d.entry (c.stkva + BitVec.ofNat 64 a)
          (c.stkva + BitVec.ofNat 64 a + BitVec.ofNat 64 d.stack) (c.undob.toNat + b))) ∧
      (∀ k : LaneId, k.wg < s.fresh + 1 ∨ s.fresh + 1 + d.gang ≤ k.wg → t.lanes.get? k = s.lanes.get? k) ∧
      (let ids := (List.range d.gang).map (s.fresh + 1 + ·)
       t.mem = (s.after (Act.each ids fun w => Act.each (c.weirs d) fun x => weirInit (scratchKey w x.1) x.2)).mem ∧
       t.cluster cl = configurePorts s.fresh (takeAllSegs d.segs ((s.cluster cl).dropClean fun _ _ => true) ids) (c.ditches d)) ∧
      ∀ x, x ≠ cl → t.cluster x = s.cluster x) ∧
  (∀ (s : State) (wg : Nat) (place : List (Nat × Nat)) (w : Wg), s.wgs.get? wg = some w → s.eligible w = true →
    ((s.core w.core).swap = some wg ∨ (s.core w.core).swap = none ∧ ∀ x ∈ s.wgs, x.2.core = w.core → s.eligible x.2 = true →
      s.goesBefore x.2 w = true → x.2.couldJoin (s.activeOn w.core) = false) →
    w.placeOk (s.activeOn w.core) place = true → w.answers = [] → w.saddleOwed = [] →
    (∀ k ∈ s.wgLanes wg, ∀ l, s.lanes.get? k = some l → l.err = none) →
    let nos := if w.begun then w.crewOf else crewNumbers place
    let args := (((s.gangs.get? w.gang).bind fun g => s.launches.get? g.launch).map (·.args)).getD []
    ∃ t : State, exec (.workgroupActivate wg place) s = .next t.settled ∧
      t = { s with
        cores := s.cores.set w.core { s.core w.core with swap := none }, pelotons := t.pelotons, crews := t.crews, lanes := t.lanes,
        wgs := s.wgs.set wg { w with
          active := true, begun := true, place := place, crewOf := nos, activeAt := s.now, answers := [], saddleOwed := [] } } ∧
      (w.begun = true → t.crews = s.crews) ∧
      (w.begun = false → (∀ x ∈ nos, t.crews.get? ⟨wg, x⟩ = some (Crew.start (args.zipIdx.map fun a => (a.2, a.1)) (crewLanes w.desc.lanes place nos x))) ∧
        ∀ x, (∀ y ∈ nos, x ≠ ⟨wg, y⟩) → t.crews.get? x = s.crews.get? x) ∧
      (∀ k, t.lanes.get? k = (s.lanes.get? k).map fun l => if k ∈ s.wgLanes wg then { l with wait := 0, latch := none, asked := none } else l) ∧
      ∀ i p, t.peloton i p = if i = w.core ∧ (∃ x ∈ place, x.1 = p) ∧ (∀ y ∈ s.activeOn w.core, ∀ z ∈ y.2.place, z.1 ≠ p)
        then { s.peloton i p with agelim := 8, overdue := [] } else s.peloton i p) ∧
  ∀ (s : State) (core : Nat) (place : List (Nat × Nat)), let c := s.core core
    (s.now < c.lastTick + 1200 * c.quantum.toNat → exec (.quantumTick core place) s = .next s.settled) ∧
    (c.lastTick + 1200 * c.quantum.toNat ≤ s.now →
      (∀ w ∈ s.wgs, w.2.core = core → s.eligible w.2 = true → s.now ≤ w.2.parkedAt + 1200 * c.quantum.toNat) →
      exec (.quantumTick core place) s = .next (State.settled { s with
        cores := s.cores.set core { c with quantum := c.quantumSet, lastTick := s.now } }))

/-! ### The assembly language -/

/-- Source lines (R54): ILLEGAL without operands or a guard becomes the word of MAJ 0xFF with every other field zero, and it is the only
line that can become a word which fails checks 5 to 9 of R48: the word of any other line that is accepted, for a kernel with this REGS,
decodes. A relocation that the line leaves is not applied here. -/
def Obligations.LinesBecomeWords : Prop :=
  (∀ (sc : Scope) (prio regs : Nat) (at_ : Nat × Nat),
    lineWord sc none prio regs at_ "ILLEGAL".toList [] = .ok (0xFF#96 <<< 88, none)) ∧
  ∀ (sc : Scope) (guard : Option (Bool × Nat)) (prio regs : Nat) (at_ : Nat × Nat) (head : List Char) (rest : List Tok) (w : BitVec 96)
    (rel : Option LitRel), lineWord sc guard prio regs at_ head rest = .ok (w, rel) →
    upper head = "ILLEGAL" ∧ rest = [] ∧ guard = none ∧ w = 0xFF#96 <<< 88 ∨ ∃ op, decode regs w = .ok op
end

