-- ==== Sys2Proof/Laws/Map.lean ====
section
/-! SUPPORT. Laws/Map.lean: look-ups in association lists after a change. -/

namespace Sys2Proof

variable {κ α : Type} [DecidableEq κ]

@[simp] theorem Map.get?_nil (k : κ) : Map.get? ([] : Map κ α) k = none := rfl

@[simp] theorem Map.get?_set_self (m : Map κ α) (k : κ) (v : α) : Map.get? (Map.set m k v) k = some v := by
  induction m with
  | nil => simp [Map.set, Map.get?]
  | cons e m ih =>
    simp only [Map.set]
    split
    · next h => simp [Map.get?, h]
    · next h => simp [Map.get?, h, ih]

theorem Map.get?_set_ne (m : Map κ α) {k j : κ} (v : α) (h : j ≠ k) : Map.get? (Map.set m k v) j = Map.get? m j := by
  induction m with
  | nil => simp [Map.set, Map.get?, h.symm]
  | cons e m ih =>
    simp only [Map.set]
    split
    · next he => simp [Map.get?, he, h.symm]
    · next he => simp [Map.get?, ih]

theorem Map.get?_set (m : Map κ α) (k j : κ) (v : α) :
    Map.get? (Map.set m k v) j = if j = k then some v else Map.get? m j := by
  split
  · next h => subst h; exact Map.get?_set_self m j v
  · next h => exact Map.get?_set_ne m v h

@[simp] theorem Map.get?_del_self (m : Map κ α) (k : κ) : Map.get? (Map.del m k) k = none := by
  induction m with
  | nil => rfl
  | cons e m ih =>
    by_cases h : e.1 = k
    · simp only [Map.del, List.filter_cons, h, ne_eq, not_true_eq_false, decide_false]
      simpa [Map.del] using ih
    · simp only [Map.del, List.filter_cons, h, ne_eq, not_false_eq_true, decide_true, if_true, Map.get?, if_false]
      simpa [Map.del] using ih

theorem Map.get?_del_ne (m : Map κ α) {k j : κ} (h : j ≠ k) : Map.get? (Map.del m k) j = Map.get? m j := by
  induction m with
  | nil => rfl
  | cons e m ih =>
    by_cases hk : e.1 = k
    · have hj : ¬ k = j := fun x => h x.symm
      simp only [Map.del, List.filter_cons, hk, ne_eq, not_true_eq_false, decide_false, Map.get?, hj, if_false]
      simpa [Map.del] using ih
    · by_cases hj : e.1 = j
      · simp [Map.del, List.filter_cons, hk, Map.get?, hj, h]
      · simp only [Map.del, List.filter_cons, hk, ne_eq, not_false_eq_true, decide_true, if_true, Map.get?, hj, if_false]
        simpa [Map.del] using ih

@[simp] theorem Map.put_some (m : Map κ α) (k : κ) (v : α) : Map.put m k (some v) = Map.set m k v := rfl
@[simp] theorem Map.put_none (m : Map κ α) (k : κ) : Map.put m k none = Map.del m k := rfl

@[simp] theorem Map.get?_put_self (m : Map κ α) (k : κ) (v : Option α) : Map.get? (Map.put m k v) k = v := by
  cases v <;> simp

theorem Map.get?_put_ne (m : Map κ α) {k j : κ} (v : Option α) (h : j ≠ k) : Map.get? (Map.put m k v) j = Map.get? m j := by
  cases v with
  | none => exact Map.get?_del_ne m h
  | some v => exact Map.get?_set_ne m v h

/-- Setting a key to the value that it has changes nothing. -/
theorem Map.set_get? (m : Map κ α) (k : κ) (v : α) (h : Map.get? m k = some v) : Map.set m k v = m := by
  induction m with
  | nil => simp at h
  | cons e m ih =>
    obtain ⟨a, b⟩ := e
    simp only [Map.get?] at h
    simp only [Map.set]
    split
    · next he => simp_all
    · next he => simp only [he, if_false] at h; rw [ih h]

theorem Map.set_set (m : Map κ α) (k : κ) (v w : α) : Map.set (Map.set m k v) k w = Map.set m k w := by
  induction m with
  | nil => simp [Map.set]
  | cons e m ih =>
    obtain ⟨a, b⟩ := e
    simp only [Map.set]
    split
    · next he => simp [Map.set, he]
    · next he => simp [Map.set, he, ih]

theorem Map.getD_set_self (m : Map κ α) (k : κ) (v d : α) : Map.getD (Map.set m k v) k d = v := by simp [Map.getD]
theorem Map.getD_set_ne (m : Map κ α) {k j : κ} (v d : α) (h : j ≠ k) : Map.getD (Map.set m k v) j d = Map.getD m j d := by
  simp [Map.getD, Map.get?_set_ne m v h]

theorem Map.keys_set (m : Map κ α) (k : κ) (v : α) :
    Map.keys (Map.set m k v) = if k ∈ Map.keys m then Map.keys m else Map.keys m ++ [k] := by
  induction m with
  | nil => simp [Map.set, Map.keys]
  | cons e m ih =>
    obtain ⟨a, b⟩ := e
    simp only [Map.set]
    split
    · next h => simp [Map.keys, h]
    · next h =>
      simp only [Map.keys, List.map_cons] at ih ⊢
      rw [ih]
      by_cases hm : k ∈ List.map Prod.fst m
      · simp [hm]
      · have h' : ¬ k = a := fun x => h x.symm
        simp [hm, h']

/-- A change keeps the keys apart. -/
theorem Map.nodup_put (m : Map κ α) (k : κ) (v : Option α) (h : (Map.keys m).Nodup) : (Map.keys (Map.put m k v)).Nodup := by
  cases v with
  | none => exact h.sublist (List.filter_sublist.map Prod.fst)
  | some v =>
    rw [Map.put_some, Map.keys_set]
    split
    · exact h
    · next hk => exact List.nodup_append.2 ⟨h, by simp, by simpa using fun a ha (e : a = k) => hk (e ▸ ha)⟩

theorem Map.mem_of_get? {m : Map κ α} {k : κ} {v : α} (h : Map.get? m k = some v) : (k, v) ∈ m := by
  induction m with
  | nil => simp at h
  | cons e m ih =>
    obtain ⟨a, b⟩ := e
    simp only [Map.get?] at h
    split at h
    · next he => simp_all
    · exact List.mem_cons_of_mem _ (ih h)

end Sys2Proof
end

