-- ==== Sys2Proof/Laws/State.lean ====
section
/-! SUPPORT. Laws/State.lean: what each primitive update does to each field of the state. -/

namespace Sys2Proof.Machine

open Sys2Proof

variable (s : State)

/-! `lane` -/

@[simp] theorem apply_lane_tick (k : LaneId) (v : Option Lane) : (Upd.apply s (.lane k v)).tick = s.tick := rfl
@[simp] theorem apply_lane_now (k : LaneId) (v : Option Lane) : (Upd.apply s (.lane k v)).now = s.now := rfl
@[simp] theorem apply_lane_agenda (k : LaneId) (v : Option Lane) : (Upd.apply s (.lane k v)).agenda = s.agenda := rfl
@[simp] theorem apply_lane_ready (k : LaneId) (v : Option Lane) : (Upd.apply s (.lane k v)).ready = s.ready := rfl
@[simp] theorem apply_lane_fresh (k : LaneId) (v : Option Lane) : (Upd.apply s (.lane k v)).fresh = s.fresh := rfl
@[simp] theorem apply_lane_mem (k : LaneId) (v : Option Lane) : (Upd.apply s (.lane k v)).mem = s.mem := rfl
@[simp] theorem apply_lane_lanes (k : LaneId) (v : Option Lane) : (Upd.apply s (.lane k v)).lanes = Map.put s.lanes k v := rfl
@[simp] theorem apply_lane_crews (k : LaneId) (v : Option Lane) : (Upd.apply s (.lane k v)).crews = s.crews := rfl
@[simp] theorem apply_lane_wgs (k : LaneId) (v : Option Lane) : (Upd.apply s (.lane k v)).wgs = s.wgs := rfl
@[simp] theorem apply_lane_gangs (k : LaneId) (v : Option Lane) : (Upd.apply s (.lane k v)).gangs = s.gangs := rfl
@[simp] theorem apply_lane_launches (k : LaneId) (v : Option Lane) : (Upd.apply s (.lane k v)).launches = s.launches := rfl
@[simp] theorem apply_lane_pelotons (k : LaneId) (v : Option Lane) : (Upd.apply s (.lane k v)).pelotons = s.pelotons := rfl
@[simp] theorem apply_lane_ports (k : LaneId) (v : Option Lane) : (Upd.apply s (.lane k v)).ports = s.ports := rfl
@[simp] theorem apply_lane_cores (k : LaneId) (v : Option Lane) : (Upd.apply s (.lane k v)).cores = s.cores := rfl
@[simp] theorem apply_lane_clusters (k : LaneId) (v : Option Lane) : (Upd.apply s (.lane k v)).clusters = s.clusters := rfl
@[simp] theorem apply_lane_slices (k : LaneId) (v : Option Lane) : (Upd.apply s (.lane k v)).slices = s.slices := rfl
@[simp] theorem apply_lane_ctxs (k : LaneId) (v : Option Lane) : (Upd.apply s (.lane k v)).ctxs = s.ctxs := rfl
@[simp] theorem apply_lane_queues (k : LaneId) (v : Option Lane) : (Upd.apply s (.lane k v)).queues = s.queues := rfl
@[simp] theorem apply_lane_seqs (k : LaneId) (v : Option Lane) : (Upd.apply s (.lane k v)).seqs = s.seqs := rfl
@[simp] theorem apply_lane_links (k : LaneId) (v : Option Lane) : (Upd.apply s (.lane k v)).links = s.links := rfl
@[simp] theorem apply_lane_routes (k : LaneId) (v : Option Lane) : (Upd.apply s (.lane k v)).routes = s.routes := rfl
@[simp] theorem apply_lane_reqs (k : LaneId) (v : Option Lane) : (Upd.apply s (.lane k v)).reqs = s.reqs := rfl
@[simp] theorem apply_lane_slreqs (k : LaneId) (v : Option Lane) : (Upd.apply s (.lane k v)).slreqs = s.slreqs := rfl
@[simp] theorem apply_lane_slrels (k : LaneId) (v : Option Lane) : (Upd.apply s (.lane k v)).slrels = s.slrels := rfl
@[simp] theorem apply_lane_dev (k : LaneId) (v : Option Lane) : (Upd.apply s (.lane k v)).dev = s.dev := rfl

/-! `crew` -/

@[simp] theorem apply_crew_tick (k : CrewId) (v : Option Crew) : (Upd.apply s (.crew k v)).tick = s.tick := rfl
@[simp] theorem apply_crew_now (k : CrewId) (v : Option Crew) : (Upd.apply s (.crew k v)).now = s.now := rfl
@[simp] theorem apply_crew_agenda (k : CrewId) (v : Option Crew) : (Upd.apply s (.crew k v)).agenda = s.agenda := rfl
@[simp] theorem apply_crew_ready (k : CrewId) (v : Option Crew) : (Upd.apply s (.crew k v)).ready = s.ready := rfl
@[simp] theorem apply_crew_fresh (k : CrewId) (v : Option Crew) : (Upd.apply s (.crew k v)).fresh = s.fresh := rfl
@[simp] theorem apply_crew_mem (k : CrewId) (v : Option Crew) : (Upd.apply s (.crew k v)).mem = s.mem := rfl
@[simp] theorem apply_crew_lanes (k : CrewId) (v : Option Crew) : (Upd.apply s (.crew k v)).lanes = s.lanes := rfl
@[simp] theorem apply_crew_crews (k : CrewId) (v : Option Crew) : (Upd.apply s (.crew k v)).crews = Map.put s.crews k v := rfl
@[simp] theorem apply_crew_wgs (k : CrewId) (v : Option Crew) : (Upd.apply s (.crew k v)).wgs = s.wgs := rfl
@[simp] theorem apply_crew_gangs (k : CrewId) (v : Option Crew) : (Upd.apply s (.crew k v)).gangs = s.gangs := rfl
@[simp] theorem apply_crew_launches (k : CrewId) (v : Option Crew) : (Upd.apply s (.crew k v)).launches = s.launches := rfl
@[simp] theorem apply_crew_pelotons (k : CrewId) (v : Option Crew) : (Upd.apply s (.crew k v)).pelotons = s.pelotons := rfl
@[simp] theorem apply_crew_ports (k : CrewId) (v : Option Crew) : (Upd.apply s (.crew k v)).ports = s.ports := rfl
@[simp] theorem apply_crew_cores (k : CrewId) (v : Option Crew) : (Upd.apply s (.crew k v)).cores = s.cores := rfl
@[simp] theorem apply_crew_clusters (k : CrewId) (v : Option Crew) : (Upd.apply s (.crew k v)).clusters = s.clusters := rfl
@[simp] theorem apply_crew_slices (k : CrewId) (v : Option Crew) : (Upd.apply s (.crew k v)).slices = s.slices := rfl
@[simp] theorem apply_crew_ctxs (k : CrewId) (v : Option Crew) : (Upd.apply s (.crew k v)).ctxs = s.ctxs := rfl
@[simp] theorem apply_crew_queues (k : CrewId) (v : Option Crew) : (Upd.apply s (.crew k v)).queues = s.queues := rfl
@[simp] theorem apply_crew_seqs (k : CrewId) (v : Option Crew) : (Upd.apply s (.crew k v)).seqs = s.seqs := rfl
@[simp] theorem apply_crew_links (k : CrewId) (v : Option Crew) : (Upd.apply s (.crew k v)).links = s.links := rfl
@[simp] theorem apply_crew_routes (k : CrewId) (v : Option Crew) : (Upd.apply s (.crew k v)).routes = s.routes := rfl
@[simp] theorem apply_crew_reqs (k : CrewId) (v : Option Crew) : (Upd.apply s (.crew k v)).reqs = s.reqs := rfl
@[simp] theorem apply_crew_slreqs (k : CrewId) (v : Option Crew) : (Upd.apply s (.crew k v)).slreqs = s.slreqs := rfl
@[simp] theorem apply_crew_slrels (k : CrewId) (v : Option Crew) : (Upd.apply s (.crew k v)).slrels = s.slrels := rfl
@[simp] theorem apply_crew_dev (k : CrewId) (v : Option Crew) : (Upd.apply s (.crew k v)).dev = s.dev := rfl

/-! `wg` -/

@[simp] theorem apply_wg_tick (k : Nat) (v : Option Wg) : (Upd.apply s (.wg k v)).tick = s.tick := rfl
@[simp] theorem apply_wg_now (k : Nat) (v : Option Wg) : (Upd.apply s (.wg k v)).now = s.now := rfl
@[simp] theorem apply_wg_agenda (k : Nat) (v : Option Wg) : (Upd.apply s (.wg k v)).agenda = s.agenda := rfl
@[simp] theorem apply_wg_ready (k : Nat) (v : Option Wg) : (Upd.apply s (.wg k v)).ready = s.ready := rfl
@[simp] theorem apply_wg_fresh (k : Nat) (v : Option Wg) : (Upd.apply s (.wg k v)).fresh = s.fresh := rfl
@[simp] theorem apply_wg_mem (k : Nat) (v : Option Wg) : (Upd.apply s (.wg k v)).mem = s.mem := rfl
@[simp] theorem apply_wg_lanes (k : Nat) (v : Option Wg) : (Upd.apply s (.wg k v)).lanes = s.lanes := rfl
@[simp] theorem apply_wg_crews (k : Nat) (v : Option Wg) : (Upd.apply s (.wg k v)).crews = s.crews := rfl
@[simp] theorem apply_wg_wgs (k : Nat) (v : Option Wg) : (Upd.apply s (.wg k v)).wgs = Map.put s.wgs k v := rfl
@[simp] theorem apply_wg_gangs (k : Nat) (v : Option Wg) : (Upd.apply s (.wg k v)).gangs = s.gangs := rfl
@[simp] theorem apply_wg_launches (k : Nat) (v : Option Wg) : (Upd.apply s (.wg k v)).launches = s.launches := rfl
@[simp] theorem apply_wg_pelotons (k : Nat) (v : Option Wg) : (Upd.apply s (.wg k v)).pelotons = s.pelotons := rfl
@[simp] theorem apply_wg_ports (k : Nat) (v : Option Wg) : (Upd.apply s (.wg k v)).ports = s.ports := rfl
@[simp] theorem apply_wg_cores (k : Nat) (v : Option Wg) : (Upd.apply s (.wg k v)).cores = s.cores := rfl
@[simp] theorem apply_wg_clusters (k : Nat) (v : Option Wg) : (Upd.apply s (.wg k v)).clusters = s.clusters := rfl
@[simp] theorem apply_wg_slices (k : Nat) (v : Option Wg) : (Upd.apply s (.wg k v)).slices = s.slices := rfl
@[simp] theorem apply_wg_ctxs (k : Nat) (v : Option Wg) : (Upd.apply s (.wg k v)).ctxs = s.ctxs := rfl
@[simp] theorem apply_wg_queues (k : Nat) (v : Option Wg) : (Upd.apply s (.wg k v)).queues = s.queues := rfl
@[simp] theorem apply_wg_seqs (k : Nat) (v : Option Wg) : (Upd.apply s (.wg k v)).seqs = s.seqs := rfl
@[simp] theorem apply_wg_links (k : Nat) (v : Option Wg) : (Upd.apply s (.wg k v)).links = s.links := rfl
@[simp] theorem apply_wg_routes (k : Nat) (v : Option Wg) : (Upd.apply s (.wg k v)).routes = s.routes := rfl
@[simp] theorem apply_wg_reqs (k : Nat) (v : Option Wg) : (Upd.apply s (.wg k v)).reqs = s.reqs := rfl
@[simp] theorem apply_wg_slreqs (k : Nat) (v : Option Wg) : (Upd.apply s (.wg k v)).slreqs = s.slreqs := rfl
@[simp] theorem apply_wg_slrels (k : Nat) (v : Option Wg) : (Upd.apply s (.wg k v)).slrels = s.slrels := rfl
@[simp] theorem apply_wg_dev (k : Nat) (v : Option Wg) : (Upd.apply s (.wg k v)).dev = s.dev := rfl

/-! `gang` -/

@[simp] theorem apply_gang_tick (k : Nat) (v : Option Gang) : (Upd.apply s (.gang k v)).tick = s.tick := rfl
@[simp] theorem apply_gang_now (k : Nat) (v : Option Gang) : (Upd.apply s (.gang k v)).now = s.now := rfl
@[simp] theorem apply_gang_agenda (k : Nat) (v : Option Gang) : (Upd.apply s (.gang k v)).agenda = s.agenda := rfl
@[simp] theorem apply_gang_ready (k : Nat) (v : Option Gang) : (Upd.apply s (.gang k v)).ready = s.ready := rfl
@[simp] theorem apply_gang_fresh (k : Nat) (v : Option Gang) : (Upd.apply s (.gang k v)).fresh = s.fresh := rfl
@[simp] theorem apply_gang_mem (k : Nat) (v : Option Gang) : (Upd.apply s (.gang k v)).mem = s.mem := rfl
@[simp] theorem apply_gang_lanes (k : Nat) (v : Option Gang) : (Upd.apply s (.gang k v)).lanes = s.lanes := rfl
@[simp] theorem apply_gang_crews (k : Nat) (v : Option Gang) : (Upd.apply s (.gang k v)).crews = s.crews := rfl
@[simp] theorem apply_gang_wgs (k : Nat) (v : Option Gang) : (Upd.apply s (.gang k v)).wgs = s.wgs := rfl
@[simp] theorem apply_gang_gangs (k : Nat) (v : Option Gang) : (Upd.apply s (.gang k v)).gangs = Map.put s.gangs k v := rfl
@[simp] theorem apply_gang_launches (k : Nat) (v : Option Gang) : (Upd.apply s (.gang k v)).launches = s.launches := rfl
@[simp] theorem apply_gang_pelotons (k : Nat) (v : Option Gang) : (Upd.apply s (.gang k v)).pelotons = s.pelotons := rfl
@[simp] theorem apply_gang_ports (k : Nat) (v : Option Gang) : (Upd.apply s (.gang k v)).ports = s.ports := rfl
@[simp] theorem apply_gang_cores (k : Nat) (v : Option Gang) : (Upd.apply s (.gang k v)).cores = s.cores := rfl
@[simp] theorem apply_gang_clusters (k : Nat) (v : Option Gang) : (Upd.apply s (.gang k v)).clusters = s.clusters := rfl
@[simp] theorem apply_gang_slices (k : Nat) (v : Option Gang) : (Upd.apply s (.gang k v)).slices = s.slices := rfl
@[simp] theorem apply_gang_ctxs (k : Nat) (v : Option Gang) : (Upd.apply s (.gang k v)).ctxs = s.ctxs := rfl
@[simp] theorem apply_gang_queues (k : Nat) (v : Option Gang) : (Upd.apply s (.gang k v)).queues = s.queues := rfl
@[simp] theorem apply_gang_seqs (k : Nat) (v : Option Gang) : (Upd.apply s (.gang k v)).seqs = s.seqs := rfl
@[simp] theorem apply_gang_links (k : Nat) (v : Option Gang) : (Upd.apply s (.gang k v)).links = s.links := rfl
@[simp] theorem apply_gang_routes (k : Nat) (v : Option Gang) : (Upd.apply s (.gang k v)).routes = s.routes := rfl
@[simp] theorem apply_gang_reqs (k : Nat) (v : Option Gang) : (Upd.apply s (.gang k v)).reqs = s.reqs := rfl
@[simp] theorem apply_gang_slreqs (k : Nat) (v : Option Gang) : (Upd.apply s (.gang k v)).slreqs = s.slreqs := rfl
@[simp] theorem apply_gang_slrels (k : Nat) (v : Option Gang) : (Upd.apply s (.gang k v)).slrels = s.slrels := rfl
@[simp] theorem apply_gang_dev (k : Nat) (v : Option Gang) : (Upd.apply s (.gang k v)).dev = s.dev := rfl

/-! `launch` -/

@[simp] theorem apply_launch_tick (k : Nat) (v : Option Launch) : (Upd.apply s (.launch k v)).tick = s.tick := rfl
@[simp] theorem apply_launch_now (k : Nat) (v : Option Launch) : (Upd.apply s (.launch k v)).now = s.now := rfl
@[simp] theorem apply_launch_agenda (k : Nat) (v : Option Launch) : (Upd.apply s (.launch k v)).agenda = s.agenda := rfl
@[simp] theorem apply_launch_ready (k : Nat) (v : Option Launch) : (Upd.apply s (.launch k v)).ready = s.ready := rfl
@[simp] theorem apply_launch_fresh (k : Nat) (v : Option Launch) : (Upd.apply s (.launch k v)).fresh = s.fresh := rfl
@[simp] theorem apply_launch_mem (k : Nat) (v : Option Launch) : (Upd.apply s (.launch k v)).mem = s.mem := rfl
@[simp] theorem apply_launch_lanes (k : Nat) (v : Option Launch) : (Upd.apply s (.launch k v)).lanes = s.lanes := rfl
@[simp] theorem apply_launch_crews (k : Nat) (v : Option Launch) : (Upd.apply s (.launch k v)).crews = s.crews := rfl
@[simp] theorem apply_launch_wgs (k : Nat) (v : Option Launch) : (Upd.apply s (.launch k v)).wgs = s.wgs := rfl
@[simp] theorem apply_launch_gangs (k : Nat) (v : Option Launch) : (Upd.apply s (.launch k v)).gangs = s.gangs := rfl
@[simp] theorem apply_launch_launches (k : Nat) (v : Option Launch) : (Upd.apply s (.launch k v)).launches = Map.put s.launches k v := rfl
@[simp] theorem apply_launch_pelotons (k : Nat) (v : Option Launch) : (Upd.apply s (.launch k v)).pelotons = s.pelotons := rfl
@[simp] theorem apply_launch_ports (k : Nat) (v : Option Launch) : (Upd.apply s (.launch k v)).ports = s.ports := rfl
@[simp] theorem apply_launch_cores (k : Nat) (v : Option Launch) : (Upd.apply s (.launch k v)).cores = s.cores := rfl
@[simp] theorem apply_launch_clusters (k : Nat) (v : Option Launch) : (Upd.apply s (.launch k v)).clusters = s.clusters := rfl
@[simp] theorem apply_launch_slices (k : Nat) (v : Option Launch) : (Upd.apply s (.launch k v)).slices = s.slices := rfl
@[simp] theorem apply_launch_ctxs (k : Nat) (v : Option Launch) : (Upd.apply s (.launch k v)).ctxs = s.ctxs := rfl
@[simp] theorem apply_launch_queues (k : Nat) (v : Option Launch) : (Upd.apply s (.launch k v)).queues = s.queues := rfl
@[simp] theorem apply_launch_seqs (k : Nat) (v : Option Launch) : (Upd.apply s (.launch k v)).seqs = s.seqs := rfl
@[simp] theorem apply_launch_links (k : Nat) (v : Option Launch) : (Upd.apply s (.launch k v)).links = s.links := rfl
@[simp] theorem apply_launch_routes (k : Nat) (v : Option Launch) : (Upd.apply s (.launch k v)).routes = s.routes := rfl
@[simp] theorem apply_launch_reqs (k : Nat) (v : Option Launch) : (Upd.apply s (.launch k v)).reqs = s.reqs := rfl
@[simp] theorem apply_launch_slreqs (k : Nat) (v : Option Launch) : (Upd.apply s (.launch k v)).slreqs = s.slreqs := rfl
@[simp] theorem apply_launch_slrels (k : Nat) (v : Option Launch) : (Upd.apply s (.launch k v)).slrels = s.slrels := rfl
@[simp] theorem apply_launch_dev (k : Nat) (v : Option Launch) : (Upd.apply s (.launch k v)).dev = s.dev := rfl

/-! `peloton` -/

@[simp] theorem apply_peloton_tick (k : (Nat × Nat)) (v : Option Peloton) : (Upd.apply s (.peloton k v)).tick = s.tick := rfl
@[simp] theorem apply_peloton_now (k : (Nat × Nat)) (v : Option Peloton) : (Upd.apply s (.peloton k v)).now = s.now := rfl
@[simp] theorem apply_peloton_agenda (k : (Nat × Nat)) (v : Option Peloton) : (Upd.apply s (.peloton k v)).agenda = s.agenda := rfl
@[simp] theorem apply_peloton_ready (k : (Nat × Nat)) (v : Option Peloton) : (Upd.apply s (.peloton k v)).ready = s.ready := rfl
@[simp] theorem apply_peloton_fresh (k : (Nat × Nat)) (v : Option Peloton) : (Upd.apply s (.peloton k v)).fresh = s.fresh := rfl
@[simp] theorem apply_peloton_mem (k : (Nat × Nat)) (v : Option Peloton) : (Upd.apply s (.peloton k v)).mem = s.mem := rfl
@[simp] theorem apply_peloton_lanes (k : (Nat × Nat)) (v : Option Peloton) : (Upd.apply s (.peloton k v)).lanes = s.lanes := rfl
@[simp] theorem apply_peloton_crews (k : (Nat × Nat)) (v : Option Peloton) : (Upd.apply s (.peloton k v)).crews = s.crews := rfl
@[simp] theorem apply_peloton_wgs (k : (Nat × Nat)) (v : Option Peloton) : (Upd.apply s (.peloton k v)).wgs = s.wgs := rfl
@[simp] theorem apply_peloton_gangs (k : (Nat × Nat)) (v : Option Peloton) : (Upd.apply s (.peloton k v)).gangs = s.gangs := rfl
@[simp] theorem apply_peloton_launches (k : (Nat × Nat)) (v : Option Peloton) : (Upd.apply s (.peloton k v)).launches = s.launches := rfl
@[simp] theorem apply_peloton_pelotons (k : (Nat × Nat)) (v : Option Peloton) : (Upd.apply s (.peloton k v)).pelotons = Map.put s.pelotons k v := rfl
@[simp] theorem apply_peloton_ports (k : (Nat × Nat)) (v : Option Peloton) : (Upd.apply s (.peloton k v)).ports = s.ports := rfl
@[simp] theorem apply_peloton_cores (k : (Nat × Nat)) (v : Option Peloton) : (Upd.apply s (.peloton k v)).cores = s.cores := rfl
@[simp] theorem apply_peloton_clusters (k : (Nat × Nat)) (v : Option Peloton) : (Upd.apply s (.peloton k v)).clusters = s.clusters := rfl
@[simp] theorem apply_peloton_slices (k : (Nat × Nat)) (v : Option Peloton) : (Upd.apply s (.peloton k v)).slices = s.slices := rfl
@[simp] theorem apply_peloton_ctxs (k : (Nat × Nat)) (v : Option Peloton) : (Upd.apply s (.peloton k v)).ctxs = s.ctxs := rfl
@[simp] theorem apply_peloton_queues (k : (Nat × Nat)) (v : Option Peloton) : (Upd.apply s (.peloton k v)).queues = s.queues := rfl
@[simp] theorem apply_peloton_seqs (k : (Nat × Nat)) (v : Option Peloton) : (Upd.apply s (.peloton k v)).seqs = s.seqs := rfl
@[simp] theorem apply_peloton_links (k : (Nat × Nat)) (v : Option Peloton) : (Upd.apply s (.peloton k v)).links = s.links := rfl
@[simp] theorem apply_peloton_routes (k : (Nat × Nat)) (v : Option Peloton) : (Upd.apply s (.peloton k v)).routes = s.routes := rfl
@[simp] theorem apply_peloton_reqs (k : (Nat × Nat)) (v : Option Peloton) : (Upd.apply s (.peloton k v)).reqs = s.reqs := rfl
@[simp] theorem apply_peloton_slreqs (k : (Nat × Nat)) (v : Option Peloton) : (Upd.apply s (.peloton k v)).slreqs = s.slreqs := rfl
@[simp] theorem apply_peloton_slrels (k : (Nat × Nat)) (v : Option Peloton) : (Upd.apply s (.peloton k v)).slrels = s.slrels := rfl
@[simp] theorem apply_peloton_dev (k : (Nat × Nat)) (v : Option Peloton) : (Upd.apply s (.peloton k v)).dev = s.dev := rfl

/-! `port` -/

@[simp] theorem apply_port_tick (k : Nat) (v : Option Port) : (Upd.apply s (.port k v)).tick = s.tick := rfl
@[simp] theorem apply_port_now (k : Nat) (v : Option Port) : (Upd.apply s (.port k v)).now = s.now := rfl
@[simp] theorem apply_port_agenda (k : Nat) (v : Option Port) : (Upd.apply s (.port k v)).agenda = s.agenda := rfl
@[simp] theorem apply_port_ready (k : Nat) (v : Option Port) : (Upd.apply s (.port k v)).ready = s.ready := rfl
@[simp] theorem apply_port_fresh (k : Nat) (v : Option Port) : (Upd.apply s (.port k v)).fresh = s.fresh := rfl
@[simp] theorem apply_port_mem (k : Nat) (v : Option Port) : (Upd.apply s (.port k v)).mem = s.mem := rfl
@[simp] theorem apply_port_lanes (k : Nat) (v : Option Port) : (Upd.apply s (.port k v)).lanes = s.lanes := rfl
@[simp] theorem apply_port_crews (k : Nat) (v : Option Port) : (Upd.apply s (.port k v)).crews = s.crews := rfl
@[simp] theorem apply_port_wgs (k : Nat) (v : Option Port) : (Upd.apply s (.port k v)).wgs = s.wgs := rfl
@[simp] theorem apply_port_gangs (k : Nat) (v : Option Port) : (Upd.apply s (.port k v)).gangs = s.gangs := rfl
@[simp] theorem apply_port_launches (k : Nat) (v : Option Port) : (Upd.apply s (.port k v)).launches = s.launches := rfl
@[simp] theorem apply_port_pelotons (k : Nat) (v : Option Port) : (Upd.apply s (.port k v)).pelotons = s.pelotons := rfl
@[simp] theorem apply_port_ports (k : Nat) (v : Option Port) : (Upd.apply s (.port k v)).ports = Map.put s.ports k v := rfl
@[simp] theorem apply_port_cores (k : Nat) (v : Option Port) : (Upd.apply s (.port k v)).cores = s.cores := rfl
@[simp] theorem apply_port_clusters (k : Nat) (v : Option Port) : (Upd.apply s (.port k v)).clusters = s.clusters := rfl
@[simp] theorem apply_port_slices (k : Nat) (v : Option Port) : (Upd.apply s (.port k v)).slices = s.slices := rfl
@[simp] theorem apply_port_ctxs (k : Nat) (v : Option Port) : (Upd.apply s (.port k v)).ctxs = s.ctxs := rfl
@[simp] theorem apply_port_queues (k : Nat) (v : Option Port) : (Upd.apply s (.port k v)).queues = s.queues := rfl
@[simp] theorem apply_port_seqs (k : Nat) (v : Option Port) : (Upd.apply s (.port k v)).seqs = s.seqs := rfl
@[simp] theorem apply_port_links (k : Nat) (v : Option Port) : (Upd.apply s (.port k v)).links = s.links := rfl
@[simp] theorem apply_port_routes (k : Nat) (v : Option Port) : (Upd.apply s (.port k v)).routes = s.routes := rfl
@[simp] theorem apply_port_reqs (k : Nat) (v : Option Port) : (Upd.apply s (.port k v)).reqs = s.reqs := rfl
@[simp] theorem apply_port_slreqs (k : Nat) (v : Option Port) : (Upd.apply s (.port k v)).slreqs = s.slreqs := rfl
@[simp] theorem apply_port_slrels (k : Nat) (v : Option Port) : (Upd.apply s (.port k v)).slrels = s.slrels := rfl
@[simp] theorem apply_port_dev (k : Nat) (v : Option Port) : (Upd.apply s (.port k v)).dev = s.dev := rfl

/-! `core` -/

@[simp] theorem apply_core_tick (k : Nat) (v : Option Core) : (Upd.apply s (.core k v)).tick = s.tick := rfl
@[simp] theorem apply_core_now (k : Nat) (v : Option Core) : (Upd.apply s (.core k v)).now = s.now := rfl
@[simp] theorem apply_core_agenda (k : Nat) (v : Option Core) : (Upd.apply s (.core k v)).agenda = s.agenda := rfl
@[simp] theorem apply_core_ready (k : Nat) (v : Option Core) : (Upd.apply s (.core k v)).ready = s.ready := rfl
@[simp] theorem apply_core_fresh (k : Nat) (v : Option Core) : (Upd.apply s (.core k v)).fresh = s.fresh := rfl
@[simp] theorem apply_core_mem (k : Nat) (v : Option Core) : (Upd.apply s (.core k v)).mem = s.mem := rfl
@[simp] theorem apply_core_lanes (k : Nat) (v : Option Core) : (Upd.apply s (.core k v)).lanes = s.lanes := rfl
@[simp] theorem apply_core_crews (k : Nat) (v : Option Core) : (Upd.apply s (.core k v)).crews = s.crews := rfl
@[simp] theorem apply_core_wgs (k : Nat) (v : Option Core) : (Upd.apply s (.core k v)).wgs = s.wgs := rfl
@[simp] theorem apply_core_gangs (k : Nat) (v : Option Core) : (Upd.apply s (.core k v)).gangs = s.gangs := rfl
@[simp] theorem apply_core_launches (k : Nat) (v : Option Core) : (Upd.apply s (.core k v)).launches = s.launches := rfl
@[simp] theorem apply_core_pelotons (k : Nat) (v : Option Core) : (Upd.apply s (.core k v)).pelotons = s.pelotons := rfl
@[simp] theorem apply_core_ports (k : Nat) (v : Option Core) : (Upd.apply s (.core k v)).ports = s.ports := rfl
@[simp] theorem apply_core_cores (k : Nat) (v : Option Core) : (Upd.apply s (.core k v)).cores = Map.put s.cores k v := rfl
@[simp] theorem apply_core_clusters (k : Nat) (v : Option Core) : (Upd.apply s (.core k v)).clusters = s.clusters := rfl
@[simp] theorem apply_core_slices (k : Nat) (v : Option Core) : (Upd.apply s (.core k v)).slices = s.slices := rfl
@[simp] theorem apply_core_ctxs (k : Nat) (v : Option Core) : (Upd.apply s (.core k v)).ctxs = s.ctxs := rfl
@[simp] theorem apply_core_queues (k : Nat) (v : Option Core) : (Upd.apply s (.core k v)).queues = s.queues := rfl
@[simp] theorem apply_core_seqs (k : Nat) (v : Option Core) : (Upd.apply s (.core k v)).seqs = s.seqs := rfl
@[simp] theorem apply_core_links (k : Nat) (v : Option Core) : (Upd.apply s (.core k v)).links = s.links := rfl
@[simp] theorem apply_core_routes (k : Nat) (v : Option Core) : (Upd.apply s (.core k v)).routes = s.routes := rfl
@[simp] theorem apply_core_reqs (k : Nat) (v : Option Core) : (Upd.apply s (.core k v)).reqs = s.reqs := rfl
@[simp] theorem apply_core_slreqs (k : Nat) (v : Option Core) : (Upd.apply s (.core k v)).slreqs = s.slreqs := rfl
@[simp] theorem apply_core_slrels (k : Nat) (v : Option Core) : (Upd.apply s (.core k v)).slrels = s.slrels := rfl
@[simp] theorem apply_core_dev (k : Nat) (v : Option Core) : (Upd.apply s (.core k v)).dev = s.dev := rfl

/-! `cluster` -/

@[simp] theorem apply_cluster_tick (k : Nat) (v : Option Cluster) : (Upd.apply s (.cluster k v)).tick = s.tick := rfl
@[simp] theorem apply_cluster_now (k : Nat) (v : Option Cluster) : (Upd.apply s (.cluster k v)).now = s.now := rfl
@[simp] theorem apply_cluster_agenda (k : Nat) (v : Option Cluster) : (Upd.apply s (.cluster k v)).agenda = s.agenda := rfl
@[simp] theorem apply_cluster_ready (k : Nat) (v : Option Cluster) : (Upd.apply s (.cluster k v)).ready = s.ready := rfl
@[simp] theorem apply_cluster_fresh (k : Nat) (v : Option Cluster) : (Upd.apply s (.cluster k v)).fresh = s.fresh := rfl
@[simp] theorem apply_cluster_mem (k : Nat) (v : Option Cluster) : (Upd.apply s (.cluster k v)).mem = s.mem := rfl
@[simp] theorem apply_cluster_lanes (k : Nat) (v : Option Cluster) : (Upd.apply s (.cluster k v)).lanes = s.lanes := rfl
@[simp] theorem apply_cluster_crews (k : Nat) (v : Option Cluster) : (Upd.apply s (.cluster k v)).crews = s.crews := rfl
@[simp] theorem apply_cluster_wgs (k : Nat) (v : Option Cluster) : (Upd.apply s (.cluster k v)).wgs = s.wgs := rfl
@[simp] theorem apply_cluster_gangs (k : Nat) (v : Option Cluster) : (Upd.apply s (.cluster k v)).gangs = s.gangs := rfl
@[simp] theorem apply_cluster_launches (k : Nat) (v : Option Cluster) : (Upd.apply s (.cluster k v)).launches = s.launches := rfl
@[simp] theorem apply_cluster_pelotons (k : Nat) (v : Option Cluster) : (Upd.apply s (.cluster k v)).pelotons = s.pelotons := rfl
@[simp] theorem apply_cluster_ports (k : Nat) (v : Option Cluster) : (Upd.apply s (.cluster k v)).ports = s.ports := rfl
@[simp] theorem apply_cluster_cores (k : Nat) (v : Option Cluster) : (Upd.apply s (.cluster k v)).cores = s.cores := rfl
@[simp] theorem apply_cluster_clusters (k : Nat) (v : Option Cluster) : (Upd.apply s (.cluster k v)).clusters = Map.put s.clusters k v := rfl
@[simp] theorem apply_cluster_slices (k : Nat) (v : Option Cluster) : (Upd.apply s (.cluster k v)).slices = s.slices := rfl
@[simp] theorem apply_cluster_ctxs (k : Nat) (v : Option Cluster) : (Upd.apply s (.cluster k v)).ctxs = s.ctxs := rfl
@[simp] theorem apply_cluster_queues (k : Nat) (v : Option Cluster) : (Upd.apply s (.cluster k v)).queues = s.queues := rfl
@[simp] theorem apply_cluster_seqs (k : Nat) (v : Option Cluster) : (Upd.apply s (.cluster k v)).seqs = s.seqs := rfl
@[simp] theorem apply_cluster_links (k : Nat) (v : Option Cluster) : (Upd.apply s (.cluster k v)).links = s.links := rfl
@[simp] theorem apply_cluster_routes (k : Nat) (v : Option Cluster) : (Upd.apply s (.cluster k v)).routes = s.routes := rfl
@[simp] theorem apply_cluster_reqs (k : Nat) (v : Option Cluster) : (Upd.apply s (.cluster k v)).reqs = s.reqs := rfl
@[simp] theorem apply_cluster_slreqs (k : Nat) (v : Option Cluster) : (Upd.apply s (.cluster k v)).slreqs = s.slreqs := rfl
@[simp] theorem apply_cluster_slrels (k : Nat) (v : Option Cluster) : (Upd.apply s (.cluster k v)).slrels = s.slrels := rfl
@[simp] theorem apply_cluster_dev (k : Nat) (v : Option Cluster) : (Upd.apply s (.cluster k v)).dev = s.dev := rfl

/-! `slice` -/

@[simp] theorem apply_slice_tick (k : Nat) (v : Option Slice) : (Upd.apply s (.slice k v)).tick = s.tick := rfl
@[simp] theorem apply_slice_now (k : Nat) (v : Option Slice) : (Upd.apply s (.slice k v)).now = s.now := rfl
@[simp] theorem apply_slice_agenda (k : Nat) (v : Option Slice) : (Upd.apply s (.slice k v)).agenda = s.agenda := rfl
@[simp] theorem apply_slice_ready (k : Nat) (v : Option Slice) : (Upd.apply s (.slice k v)).ready = s.ready := rfl
@[simp] theorem apply_slice_fresh (k : Nat) (v : Option Slice) : (Upd.apply s (.slice k v)).fresh = s.fresh := rfl
@[simp] theorem apply_slice_mem (k : Nat) (v : Option Slice) : (Upd.apply s (.slice k v)).mem = s.mem := rfl
@[simp] theorem apply_slice_lanes (k : Nat) (v : Option Slice) : (Upd.apply s (.slice k v)).lanes = s.lanes := rfl
@[simp] theorem apply_slice_crews (k : Nat) (v : Option Slice) : (Upd.apply s (.slice k v)).crews = s.crews := rfl
@[simp] theorem apply_slice_wgs (k : Nat) (v : Option Slice) : (Upd.apply s (.slice k v)).wgs = s.wgs := rfl
@[simp] theorem apply_slice_gangs (k : Nat) (v : Option Slice) : (Upd.apply s (.slice k v)).gangs = s.gangs := rfl
@[simp] theorem apply_slice_launches (k : Nat) (v : Option Slice) : (Upd.apply s (.slice k v)).launches = s.launches := rfl
@[simp] theorem apply_slice_pelotons (k : Nat) (v : Option Slice) : (Upd.apply s (.slice k v)).pelotons = s.pelotons := rfl
@[simp] theorem apply_slice_ports (k : Nat) (v : Option Slice) : (Upd.apply s (.slice k v)).ports = s.ports := rfl
@[simp] theorem apply_slice_cores (k : Nat) (v : Option Slice) : (Upd.apply s (.slice k v)).cores = s.cores := rfl
@[simp] theorem apply_slice_clusters (k : Nat) (v : Option Slice) : (Upd.apply s (.slice k v)).clusters = s.clusters := rfl
@[simp] theorem apply_slice_slices (k : Nat) (v : Option Slice) : (Upd.apply s (.slice k v)).slices = Map.put s.slices k v := rfl
@[simp] theorem apply_slice_ctxs (k : Nat) (v : Option Slice) : (Upd.apply s (.slice k v)).ctxs = s.ctxs := rfl
@[simp] theorem apply_slice_queues (k : Nat) (v : Option Slice) : (Upd.apply s (.slice k v)).queues = s.queues := rfl
@[simp] theorem apply_slice_seqs (k : Nat) (v : Option Slice) : (Upd.apply s (.slice k v)).seqs = s.seqs := rfl
@[simp] theorem apply_slice_links (k : Nat) (v : Option Slice) : (Upd.apply s (.slice k v)).links = s.links := rfl
@[simp] theorem apply_slice_routes (k : Nat) (v : Option Slice) : (Upd.apply s (.slice k v)).routes = s.routes := rfl
@[simp] theorem apply_slice_reqs (k : Nat) (v : Option Slice) : (Upd.apply s (.slice k v)).reqs = s.reqs := rfl
@[simp] theorem apply_slice_slreqs (k : Nat) (v : Option Slice) : (Upd.apply s (.slice k v)).slreqs = s.slreqs := rfl
@[simp] theorem apply_slice_slrels (k : Nat) (v : Option Slice) : (Upd.apply s (.slice k v)).slrels = s.slrels := rfl
@[simp] theorem apply_slice_dev (k : Nat) (v : Option Slice) : (Upd.apply s (.slice k v)).dev = s.dev := rfl

/-! `ctx` -/

@[simp] theorem apply_ctx_tick (k : Nat) (v : Option Ctx) : (Upd.apply s (.ctx k v)).tick = s.tick := rfl
@[simp] theorem apply_ctx_now (k : Nat) (v : Option Ctx) : (Upd.apply s (.ctx k v)).now = s.now := rfl
@[simp] theorem apply_ctx_agenda (k : Nat) (v : Option Ctx) : (Upd.apply s (.ctx k v)).agenda = s.agenda := rfl
@[simp] theorem apply_ctx_ready (k : Nat) (v : Option Ctx) : (Upd.apply s (.ctx k v)).ready = s.ready := rfl
@[simp] theorem apply_ctx_fresh (k : Nat) (v : Option Ctx) : (Upd.apply s (.ctx k v)).fresh = s.fresh := rfl
@[simp] theorem apply_ctx_mem (k : Nat) (v : Option Ctx) : (Upd.apply s (.ctx k v)).mem = s.mem := rfl
@[simp] theorem apply_ctx_lanes (k : Nat) (v : Option Ctx) : (Upd.apply s (.ctx k v)).lanes = s.lanes := rfl
@[simp] theorem apply_ctx_crews (k : Nat) (v : Option Ctx) : (Upd.apply s (.ctx k v)).crews = s.crews := rfl
@[simp] theorem apply_ctx_wgs (k : Nat) (v : Option Ctx) : (Upd.apply s (.ctx k v)).wgs = s.wgs := rfl
@[simp] theorem apply_ctx_gangs (k : Nat) (v : Option Ctx) : (Upd.apply s (.ctx k v)).gangs = s.gangs := rfl
@[simp] theorem apply_ctx_launches (k : Nat) (v : Option Ctx) : (Upd.apply s (.ctx k v)).launches = s.launches := rfl
@[simp] theorem apply_ctx_pelotons (k : Nat) (v : Option Ctx) : (Upd.apply s (.ctx k v)).pelotons = s.pelotons := rfl
@[simp] theorem apply_ctx_ports (k : Nat) (v : Option Ctx) : (Upd.apply s (.ctx k v)).ports = s.ports := rfl
@[simp] theorem apply_ctx_cores (k : Nat) (v : Option Ctx) : (Upd.apply s (.ctx k v)).cores = s.cores := rfl
@[simp] theorem apply_ctx_clusters (k : Nat) (v : Option Ctx) : (Upd.apply s (.ctx k v)).clusters = s.clusters := rfl
@[simp] theorem apply_ctx_slices (k : Nat) (v : Option Ctx) : (Upd.apply s (.ctx k v)).slices = s.slices := rfl
@[simp] theorem apply_ctx_ctxs (k : Nat) (v : Option Ctx) : (Upd.apply s (.ctx k v)).ctxs = Map.put s.ctxs k v := rfl
@[simp] theorem apply_ctx_queues (k : Nat) (v : Option Ctx) : (Upd.apply s (.ctx k v)).queues = s.queues := rfl
@[simp] theorem apply_ctx_seqs (k : Nat) (v : Option Ctx) : (Upd.apply s (.ctx k v)).seqs = s.seqs := rfl
@[simp] theorem apply_ctx_links (k : Nat) (v : Option Ctx) : (Upd.apply s (.ctx k v)).links = s.links := rfl
@[simp] theorem apply_ctx_routes (k : Nat) (v : Option Ctx) : (Upd.apply s (.ctx k v)).routes = s.routes := rfl
@[simp] theorem apply_ctx_reqs (k : Nat) (v : Option Ctx) : (Upd.apply s (.ctx k v)).reqs = s.reqs := rfl
@[simp] theorem apply_ctx_slreqs (k : Nat) (v : Option Ctx) : (Upd.apply s (.ctx k v)).slreqs = s.slreqs := rfl
@[simp] theorem apply_ctx_slrels (k : Nat) (v : Option Ctx) : (Upd.apply s (.ctx k v)).slrels = s.slrels := rfl
@[simp] theorem apply_ctx_dev (k : Nat) (v : Option Ctx) : (Upd.apply s (.ctx k v)).dev = s.dev := rfl

/-! `queue` -/

@[simp] theorem apply_queue_tick (k : Nat) (v : Option WQ) : (Upd.apply s (.queue k v)).tick = s.tick := rfl
@[simp] theorem apply_queue_now (k : Nat) (v : Option WQ) : (Upd.apply s (.queue k v)).now = s.now := rfl
@[simp] theorem apply_queue_agenda (k : Nat) (v : Option WQ) : (Upd.apply s (.queue k v)).agenda = s.agenda := rfl
@[simp] theorem apply_queue_ready (k : Nat) (v : Option WQ) : (Upd.apply s (.queue k v)).ready = s.ready := rfl
@[simp] theorem apply_queue_fresh (k : Nat) (v : Option WQ) : (Upd.apply s (.queue k v)).fresh = s.fresh := rfl
@[simp] theorem apply_queue_mem (k : Nat) (v : Option WQ) : (Upd.apply s (.queue k v)).mem = s.mem := rfl
@[simp] theorem apply_queue_lanes (k : Nat) (v : Option WQ) : (Upd.apply s (.queue k v)).lanes = s.lanes := rfl
@[simp] theorem apply_queue_crews (k : Nat) (v : Option WQ) : (Upd.apply s (.queue k v)).crews = s.crews := rfl
@[simp] theorem apply_queue_wgs (k : Nat) (v : Option WQ) : (Upd.apply s (.queue k v)).wgs = s.wgs := rfl
@[simp] theorem apply_queue_gangs (k : Nat) (v : Option WQ) : (Upd.apply s (.queue k v)).gangs = s.gangs := rfl
@[simp] theorem apply_queue_launches (k : Nat) (v : Option WQ) : (Upd.apply s (.queue k v)).launches = s.launches := rfl
@[simp] theorem apply_queue_pelotons (k : Nat) (v : Option WQ) : (Upd.apply s (.queue k v)).pelotons = s.pelotons := rfl
@[simp] theorem apply_queue_ports (k : Nat) (v : Option WQ) : (Upd.apply s (.queue k v)).ports = s.ports := rfl
@[simp] theorem apply_queue_cores (k : Nat) (v : Option WQ) : (Upd.apply s (.queue k v)).cores = s.cores := rfl
@[simp] theorem apply_queue_clusters (k : Nat) (v : Option WQ) : (Upd.apply s (.queue k v)).clusters = s.clusters := rfl
@[simp] theorem apply_queue_slices (k : Nat) (v : Option WQ) : (Upd.apply s (.queue k v)).slices = s.slices := rfl
@[simp] theorem apply_queue_ctxs (k : Nat) (v : Option WQ) : (Upd.apply s (.queue k v)).ctxs = s.ctxs := rfl
@[simp] theorem apply_queue_queues (k : Nat) (v : Option WQ) : (Upd.apply s (.queue k v)).queues = Map.put s.queues k v := rfl
@[simp] theorem apply_queue_seqs (k : Nat) (v : Option WQ) : (Upd.apply s (.queue k v)).seqs = s.seqs := rfl
@[simp] theorem apply_queue_links (k : Nat) (v : Option WQ) : (Upd.apply s (.queue k v)).links = s.links := rfl
@[simp] theorem apply_queue_routes (k : Nat) (v : Option WQ) : (Upd.apply s (.queue k v)).routes = s.routes := rfl
@[simp] theorem apply_queue_reqs (k : Nat) (v : Option WQ) : (Upd.apply s (.queue k v)).reqs = s.reqs := rfl
@[simp] theorem apply_queue_slreqs (k : Nat) (v : Option WQ) : (Upd.apply s (.queue k v)).slreqs = s.slreqs := rfl
@[simp] theorem apply_queue_slrels (k : Nat) (v : Option WQ) : (Upd.apply s (.queue k v)).slrels = s.slrels := rfl
@[simp] theorem apply_queue_dev (k : Nat) (v : Option WQ) : (Upd.apply s (.queue k v)).dev = s.dev := rfl

/-! `seqr` -/

@[simp] theorem apply_seqr_tick (k : Nat) (v : Option Sequencer) : (Upd.apply s (.seqr k v)).tick = s.tick := rfl
@[simp] theorem apply_seqr_now (k : Nat) (v : Option Sequencer) : (Upd.apply s (.seqr k v)).now = s.now := rfl
@[simp] theorem apply_seqr_agenda (k : Nat) (v : Option Sequencer) : (Upd.apply s (.seqr k v)).agenda = s.agenda := rfl
@[simp] theorem apply_seqr_ready (k : Nat) (v : Option Sequencer) : (Upd.apply s (.seqr k v)).ready = s.ready := rfl
@[simp] theorem apply_seqr_fresh (k : Nat) (v : Option Sequencer) : (Upd.apply s (.seqr k v)).fresh = s.fresh := rfl
@[simp] theorem apply_seqr_mem (k : Nat) (v : Option Sequencer) : (Upd.apply s (.seqr k v)).mem = s.mem := rfl
@[simp] theorem apply_seqr_lanes (k : Nat) (v : Option Sequencer) : (Upd.apply s (.seqr k v)).lanes = s.lanes := rfl
@[simp] theorem apply_seqr_crews (k : Nat) (v : Option Sequencer) : (Upd.apply s (.seqr k v)).crews = s.crews := rfl
@[simp] theorem apply_seqr_wgs (k : Nat) (v : Option Sequencer) : (Upd.apply s (.seqr k v)).wgs = s.wgs := rfl
@[simp] theorem apply_seqr_gangs (k : Nat) (v : Option Sequencer) : (Upd.apply s (.seqr k v)).gangs = s.gangs := rfl
@[simp] theorem apply_seqr_launches (k : Nat) (v : Option Sequencer) : (Upd.apply s (.seqr k v)).launches = s.launches := rfl
@[simp] theorem apply_seqr_pelotons (k : Nat) (v : Option Sequencer) : (Upd.apply s (.seqr k v)).pelotons = s.pelotons := rfl
@[simp] theorem apply_seqr_ports (k : Nat) (v : Option Sequencer) : (Upd.apply s (.seqr k v)).ports = s.ports := rfl
@[simp] theorem apply_seqr_cores (k : Nat) (v : Option Sequencer) : (Upd.apply s (.seqr k v)).cores = s.cores := rfl
@[simp] theorem apply_seqr_clusters (k : Nat) (v : Option Sequencer) : (Upd.apply s (.seqr k v)).clusters = s.clusters := rfl
@[simp] theorem apply_seqr_slices (k : Nat) (v : Option Sequencer) : (Upd.apply s (.seqr k v)).slices = s.slices := rfl
@[simp] theorem apply_seqr_ctxs (k : Nat) (v : Option Sequencer) : (Upd.apply s (.seqr k v)).ctxs = s.ctxs := rfl
@[simp] theorem apply_seqr_queues (k : Nat) (v : Option Sequencer) : (Upd.apply s (.seqr k v)).queues = s.queues := rfl
@[simp] theorem apply_seqr_seqs (k : Nat) (v : Option Sequencer) : (Upd.apply s (.seqr k v)).seqs = Map.put s.seqs k v := rfl
@[simp] theorem apply_seqr_links (k : Nat) (v : Option Sequencer) : (Upd.apply s (.seqr k v)).links = s.links := rfl
@[simp] theorem apply_seqr_routes (k : Nat) (v : Option Sequencer) : (Upd.apply s (.seqr k v)).routes = s.routes := rfl
@[simp] theorem apply_seqr_reqs (k : Nat) (v : Option Sequencer) : (Upd.apply s (.seqr k v)).reqs = s.reqs := rfl
@[simp] theorem apply_seqr_slreqs (k : Nat) (v : Option Sequencer) : (Upd.apply s (.seqr k v)).slreqs = s.slreqs := rfl
@[simp] theorem apply_seqr_slrels (k : Nat) (v : Option Sequencer) : (Upd.apply s (.seqr k v)).slrels = s.slrels := rfl
@[simp] theorem apply_seqr_dev (k : Nat) (v : Option Sequencer) : (Upd.apply s (.seqr k v)).dev = s.dev := rfl

/-! `link` -/

@[simp] theorem apply_link_tick (k : Nat) (v : Option Link) : (Upd.apply s (.link k v)).tick = s.tick := rfl
@[simp] theorem apply_link_now (k : Nat) (v : Option Link) : (Upd.apply s (.link k v)).now = s.now := rfl
@[simp] theorem apply_link_agenda (k : Nat) (v : Option Link) : (Upd.apply s (.link k v)).agenda = s.agenda := rfl
@[simp] theorem apply_link_ready (k : Nat) (v : Option Link) : (Upd.apply s (.link k v)).ready = s.ready := rfl
@[simp] theorem apply_link_fresh (k : Nat) (v : Option Link) : (Upd.apply s (.link k v)).fresh = s.fresh := rfl
@[simp] theorem apply_link_mem (k : Nat) (v : Option Link) : (Upd.apply s (.link k v)).mem = s.mem := rfl
@[simp] theorem apply_link_lanes (k : Nat) (v : Option Link) : (Upd.apply s (.link k v)).lanes = s.lanes := rfl
@[simp] theorem apply_link_crews (k : Nat) (v : Option Link) : (Upd.apply s (.link k v)).crews = s.crews := rfl
@[simp] theorem apply_link_wgs (k : Nat) (v : Option Link) : (Upd.apply s (.link k v)).wgs = s.wgs := rfl
@[simp] theorem apply_link_gangs (k : Nat) (v : Option Link) : (Upd.apply s (.link k v)).gangs = s.gangs := rfl
@[simp] theorem apply_link_launches (k : Nat) (v : Option Link) : (Upd.apply s (.link k v)).launches = s.launches := rfl
@[simp] theorem apply_link_pelotons (k : Nat) (v : Option Link) : (Upd.apply s (.link k v)).pelotons = s.pelotons := rfl
@[simp] theorem apply_link_ports (k : Nat) (v : Option Link) : (Upd.apply s (.link k v)).ports = s.ports := rfl
@[simp] theorem apply_link_cores (k : Nat) (v : Option Link) : (Upd.apply s (.link k v)).cores = s.cores := rfl
@[simp] theorem apply_link_clusters (k : Nat) (v : Option Link) : (Upd.apply s (.link k v)).clusters = s.clusters := rfl
@[simp] theorem apply_link_slices (k : Nat) (v : Option Link) : (Upd.apply s (.link k v)).slices = s.slices := rfl
@[simp] theorem apply_link_ctxs (k : Nat) (v : Option Link) : (Upd.apply s (.link k v)).ctxs = s.ctxs := rfl
@[simp] theorem apply_link_queues (k : Nat) (v : Option Link) : (Upd.apply s (.link k v)).queues = s.queues := rfl
@[simp] theorem apply_link_seqs (k : Nat) (v : Option Link) : (Upd.apply s (.link k v)).seqs = s.seqs := rfl
@[simp] theorem apply_link_links (k : Nat) (v : Option Link) : (Upd.apply s (.link k v)).links = Map.put s.links k v := rfl
@[simp] theorem apply_link_routes (k : Nat) (v : Option Link) : (Upd.apply s (.link k v)).routes = s.routes := rfl
@[simp] theorem apply_link_reqs (k : Nat) (v : Option Link) : (Upd.apply s (.link k v)).reqs = s.reqs := rfl
@[simp] theorem apply_link_slreqs (k : Nat) (v : Option Link) : (Upd.apply s (.link k v)).slreqs = s.slreqs := rfl
@[simp] theorem apply_link_slrels (k : Nat) (v : Option Link) : (Upd.apply s (.link k v)).slrels = s.slrels := rfl
@[simp] theorem apply_link_dev (k : Nat) (v : Option Link) : (Upd.apply s (.link k v)).dev = s.dev := rfl

/-! `route` -/

@[simp] theorem apply_route_tick (k : Nat) (v : Option Word) : (Upd.apply s (.route k v)).tick = s.tick := rfl
@[simp] theorem apply_route_now (k : Nat) (v : Option Word) : (Upd.apply s (.route k v)).now = s.now := rfl
@[simp] theorem apply_route_agenda (k : Nat) (v : Option Word) : (Upd.apply s (.route k v)).agenda = s.agenda := rfl
@[simp] theorem apply_route_ready (k : Nat) (v : Option Word) : (Upd.apply s (.route k v)).ready = s.ready := rfl
@[simp] theorem apply_route_fresh (k : Nat) (v : Option Word) : (Upd.apply s (.route k v)).fresh = s.fresh := rfl
@[simp] theorem apply_route_mem (k : Nat) (v : Option Word) : (Upd.apply s (.route k v)).mem = s.mem := rfl
@[simp] theorem apply_route_lanes (k : Nat) (v : Option Word) : (Upd.apply s (.route k v)).lanes = s.lanes := rfl
@[simp] theorem apply_route_crews (k : Nat) (v : Option Word) : (Upd.apply s (.route k v)).crews = s.crews := rfl
@[simp] theorem apply_route_wgs (k : Nat) (v : Option Word) : (Upd.apply s (.route k v)).wgs = s.wgs := rfl
@[simp] theorem apply_route_gangs (k : Nat) (v : Option Word) : (Upd.apply s (.route k v)).gangs = s.gangs := rfl
@[simp] theorem apply_route_launches (k : Nat) (v : Option Word) : (Upd.apply s (.route k v)).launches = s.launches := rfl
@[simp] theorem apply_route_pelotons (k : Nat) (v : Option Word) : (Upd.apply s (.route k v)).pelotons = s.pelotons := rfl
@[simp] theorem apply_route_ports (k : Nat) (v : Option Word) : (Upd.apply s (.route k v)).ports = s.ports := rfl
@[simp] theorem apply_route_cores (k : Nat) (v : Option Word) : (Upd.apply s (.route k v)).cores = s.cores := rfl
@[simp] theorem apply_route_clusters (k : Nat) (v : Option Word) : (Upd.apply s (.route k v)).clusters = s.clusters := rfl
@[simp] theorem apply_route_slices (k : Nat) (v : Option Word) : (Upd.apply s (.route k v)).slices = s.slices := rfl
@[simp] theorem apply_route_ctxs (k : Nat) (v : Option Word) : (Upd.apply s (.route k v)).ctxs = s.ctxs := rfl
@[simp] theorem apply_route_queues (k : Nat) (v : Option Word) : (Upd.apply s (.route k v)).queues = s.queues := rfl
@[simp] theorem apply_route_seqs (k : Nat) (v : Option Word) : (Upd.apply s (.route k v)).seqs = s.seqs := rfl
@[simp] theorem apply_route_links (k : Nat) (v : Option Word) : (Upd.apply s (.route k v)).links = s.links := rfl
@[simp] theorem apply_route_routes (k : Nat) (v : Option Word) : (Upd.apply s (.route k v)).routes = Map.put s.routes k v := rfl
@[simp] theorem apply_route_reqs (k : Nat) (v : Option Word) : (Upd.apply s (.route k v)).reqs = s.reqs := rfl
@[simp] theorem apply_route_slreqs (k : Nat) (v : Option Word) : (Upd.apply s (.route k v)).slreqs = s.slreqs := rfl
@[simp] theorem apply_route_slrels (k : Nat) (v : Option Word) : (Upd.apply s (.route k v)).slrels = s.slrels := rfl
@[simp] theorem apply_route_dev (k : Nat) (v : Option Word) : (Upd.apply s (.route k v)).dev = s.dev := rfl

/-! `byte` -/

@[simp] theorem apply_byte_tick (k : Nat) (v : Byte) : (Upd.apply s (.byte k v)).tick = s.tick := rfl
@[simp] theorem apply_byte_now (k : Nat) (v : Byte) : (Upd.apply s (.byte k v)).now = s.now := rfl
@[simp] theorem apply_byte_agenda (k : Nat) (v : Byte) : (Upd.apply s (.byte k v)).agenda = s.agenda := rfl
@[simp] theorem apply_byte_ready (k : Nat) (v : Byte) : (Upd.apply s (.byte k v)).ready = s.ready := rfl
@[simp] theorem apply_byte_fresh (k : Nat) (v : Byte) : (Upd.apply s (.byte k v)).fresh = s.fresh := rfl
@[simp] theorem apply_byte_mem (k : Nat) (v : Byte) : (Upd.apply s (.byte k v)).mem = Memory.write s.mem k v := rfl
@[simp] theorem apply_byte_lanes (k : Nat) (v : Byte) : (Upd.apply s (.byte k v)).lanes = s.lanes := rfl
@[simp] theorem apply_byte_crews (k : Nat) (v : Byte) : (Upd.apply s (.byte k v)).crews = s.crews := rfl
@[simp] theorem apply_byte_wgs (k : Nat) (v : Byte) : (Upd.apply s (.byte k v)).wgs = s.wgs := rfl
@[simp] theorem apply_byte_gangs (k : Nat) (v : Byte) : (Upd.apply s (.byte k v)).gangs = s.gangs := rfl
@[simp] theorem apply_byte_launches (k : Nat) (v : Byte) : (Upd.apply s (.byte k v)).launches = s.launches := rfl
@[simp] theorem apply_byte_pelotons (k : Nat) (v : Byte) : (Upd.apply s (.byte k v)).pelotons = s.pelotons := rfl
@[simp] theorem apply_byte_ports (k : Nat) (v : Byte) : (Upd.apply s (.byte k v)).ports = s.ports := rfl
@[simp] theorem apply_byte_cores (k : Nat) (v : Byte) : (Upd.apply s (.byte k v)).cores = s.cores := rfl
@[simp] theorem apply_byte_clusters (k : Nat) (v : Byte) : (Upd.apply s (.byte k v)).clusters = s.clusters := rfl
@[simp] theorem apply_byte_slices (k : Nat) (v : Byte) : (Upd.apply s (.byte k v)).slices = s.slices := rfl
@[simp] theorem apply_byte_ctxs (k : Nat) (v : Byte) : (Upd.apply s (.byte k v)).ctxs = s.ctxs := rfl
@[simp] theorem apply_byte_queues (k : Nat) (v : Byte) : (Upd.apply s (.byte k v)).queues = s.queues := rfl
@[simp] theorem apply_byte_seqs (k : Nat) (v : Byte) : (Upd.apply s (.byte k v)).seqs = s.seqs := rfl
@[simp] theorem apply_byte_links (k : Nat) (v : Byte) : (Upd.apply s (.byte k v)).links = s.links := rfl
@[simp] theorem apply_byte_routes (k : Nat) (v : Byte) : (Upd.apply s (.byte k v)).routes = s.routes := rfl
@[simp] theorem apply_byte_reqs (k : Nat) (v : Byte) : (Upd.apply s (.byte k v)).reqs = s.reqs := rfl
@[simp] theorem apply_byte_slreqs (k : Nat) (v : Byte) : (Upd.apply s (.byte k v)).slreqs = s.slreqs := rfl
@[simp] theorem apply_byte_slrels (k : Nat) (v : Byte) : (Upd.apply s (.byte k v)).slrels = s.slrels := rfl
@[simp] theorem apply_byte_dev (k : Nat) (v : Byte) : (Upd.apply s (.byte k v)).dev = s.dev := rfl

/-! `fresh` -/

@[simp] theorem apply_fresh_tick (v : Nat) : (Upd.apply s (.fresh v)).tick = s.tick := rfl
@[simp] theorem apply_fresh_now (v : Nat) : (Upd.apply s (.fresh v)).now = s.now := rfl
@[simp] theorem apply_fresh_agenda (v : Nat) : (Upd.apply s (.fresh v)).agenda = s.agenda := rfl
@[simp] theorem apply_fresh_ready (v : Nat) : (Upd.apply s (.fresh v)).ready = s.ready := rfl
@[simp] theorem apply_fresh_fresh (v : Nat) : (Upd.apply s (.fresh v)).fresh = v := rfl
@[simp] theorem apply_fresh_mem (v : Nat) : (Upd.apply s (.fresh v)).mem = s.mem := rfl
@[simp] theorem apply_fresh_lanes (v : Nat) : (Upd.apply s (.fresh v)).lanes = s.lanes := rfl
@[simp] theorem apply_fresh_crews (v : Nat) : (Upd.apply s (.fresh v)).crews = s.crews := rfl
@[simp] theorem apply_fresh_wgs (v : Nat) : (Upd.apply s (.fresh v)).wgs = s.wgs := rfl
@[simp] theorem apply_fresh_gangs (v : Nat) : (Upd.apply s (.fresh v)).gangs = s.gangs := rfl
@[simp] theorem apply_fresh_launches (v : Nat) : (Upd.apply s (.fresh v)).launches = s.launches := rfl
@[simp] theorem apply_fresh_pelotons (v : Nat) : (Upd.apply s (.fresh v)).pelotons = s.pelotons := rfl
@[simp] theorem apply_fresh_ports (v : Nat) : (Upd.apply s (.fresh v)).ports = s.ports := rfl
@[simp] theorem apply_fresh_cores (v : Nat) : (Upd.apply s (.fresh v)).cores = s.cores := rfl
@[simp] theorem apply_fresh_clusters (v : Nat) : (Upd.apply s (.fresh v)).clusters = s.clusters := rfl
@[simp] theorem apply_fresh_slices (v : Nat) : (Upd.apply s (.fresh v)).slices = s.slices := rfl
@[simp] theorem apply_fresh_ctxs (v : Nat) : (Upd.apply s (.fresh v)).ctxs = s.ctxs := rfl
@[simp] theorem apply_fresh_queues (v : Nat) : (Upd.apply s (.fresh v)).queues = s.queues := rfl
@[simp] theorem apply_fresh_seqs (v : Nat) : (Upd.apply s (.fresh v)).seqs = s.seqs := rfl
@[simp] theorem apply_fresh_links (v : Nat) : (Upd.apply s (.fresh v)).links = s.links := rfl
@[simp] theorem apply_fresh_routes (v : Nat) : (Upd.apply s (.fresh v)).routes = s.routes := rfl
@[simp] theorem apply_fresh_reqs (v : Nat) : (Upd.apply s (.fresh v)).reqs = s.reqs := rfl
@[simp] theorem apply_fresh_slreqs (v : Nat) : (Upd.apply s (.fresh v)).slreqs = s.slreqs := rfl
@[simp] theorem apply_fresh_slrels (v : Nat) : (Upd.apply s (.fresh v)).slrels = s.slrels := rfl
@[simp] theorem apply_fresh_dev (v : Nat) : (Upd.apply s (.fresh v)).dev = s.dev := rfl

/-! `reqs` -/

@[simp] theorem apply_reqs_tick (v : List Req) : (Upd.apply s (.reqs v)).tick = s.tick := rfl
@[simp] theorem apply_reqs_now (v : List Req) : (Upd.apply s (.reqs v)).now = s.now := rfl
@[simp] theorem apply_reqs_agenda (v : List Req) : (Upd.apply s (.reqs v)).agenda = s.agenda := rfl
@[simp] theorem apply_reqs_ready (v : List Req) : (Upd.apply s (.reqs v)).ready = s.ready := rfl
@[simp] theorem apply_reqs_fresh (v : List Req) : (Upd.apply s (.reqs v)).fresh = s.fresh := rfl
@[simp] theorem apply_reqs_mem (v : List Req) : (Upd.apply s (.reqs v)).mem = s.mem := rfl
@[simp] theorem apply_reqs_lanes (v : List Req) : (Upd.apply s (.reqs v)).lanes = s.lanes := rfl
@[simp] theorem apply_reqs_crews (v : List Req) : (Upd.apply s (.reqs v)).crews = s.crews := rfl
@[simp] theorem apply_reqs_wgs (v : List Req) : (Upd.apply s (.reqs v)).wgs = s.wgs := rfl
@[simp] theorem apply_reqs_gangs (v : List Req) : (Upd.apply s (.reqs v)).gangs = s.gangs := rfl
@[simp] theorem apply_reqs_launches (v : List Req) : (Upd.apply s (.reqs v)).launches = s.launches := rfl
@[simp] theorem apply_reqs_pelotons (v : List Req) : (Upd.apply s (.reqs v)).pelotons = s.pelotons := rfl
@[simp] theorem apply_reqs_ports (v : List Req) : (Upd.apply s (.reqs v)).ports = s.ports := rfl
@[simp] theorem apply_reqs_cores (v : List Req) : (Upd.apply s (.reqs v)).cores = s.cores := rfl
@[simp] theorem apply_reqs_clusters (v : List Req) : (Upd.apply s (.reqs v)).clusters = s.clusters := rfl
@[simp] theorem apply_reqs_slices (v : List Req) : (Upd.apply s (.reqs v)).slices = s.slices := rfl
@[simp] theorem apply_reqs_ctxs (v : List Req) : (Upd.apply s (.reqs v)).ctxs = s.ctxs := rfl
@[simp] theorem apply_reqs_queues (v : List Req) : (Upd.apply s (.reqs v)).queues = s.queues := rfl
@[simp] theorem apply_reqs_seqs (v : List Req) : (Upd.apply s (.reqs v)).seqs = s.seqs := rfl
@[simp] theorem apply_reqs_links (v : List Req) : (Upd.apply s (.reqs v)).links = s.links := rfl
@[simp] theorem apply_reqs_routes (v : List Req) : (Upd.apply s (.reqs v)).routes = s.routes := rfl
@[simp] theorem apply_reqs_reqs (v : List Req) : (Upd.apply s (.reqs v)).reqs = v := rfl
@[simp] theorem apply_reqs_slreqs (v : List Req) : (Upd.apply s (.reqs v)).slreqs = s.slreqs := rfl
@[simp] theorem apply_reqs_slrels (v : List Req) : (Upd.apply s (.reqs v)).slrels = s.slrels := rfl
@[simp] theorem apply_reqs_dev (v : List Req) : (Upd.apply s (.reqs v)).dev = s.dev := rfl

/-! `slreqs` -/

@[simp] theorem apply_slreqs_tick (v : List SlReq) : (Upd.apply s (.slreqs v)).tick = s.tick := rfl
@[simp] theorem apply_slreqs_now (v : List SlReq) : (Upd.apply s (.slreqs v)).now = s.now := rfl
@[simp] theorem apply_slreqs_agenda (v : List SlReq) : (Upd.apply s (.slreqs v)).agenda = s.agenda := rfl
@[simp] theorem apply_slreqs_ready (v : List SlReq) : (Upd.apply s (.slreqs v)).ready = s.ready := rfl
@[simp] theorem apply_slreqs_fresh (v : List SlReq) : (Upd.apply s (.slreqs v)).fresh = s.fresh := rfl
@[simp] theorem apply_slreqs_mem (v : List SlReq) : (Upd.apply s (.slreqs v)).mem = s.mem := rfl
@[simp] theorem apply_slreqs_lanes (v : List SlReq) : (Upd.apply s (.slreqs v)).lanes = s.lanes := rfl
@[simp] theorem apply_slreqs_crews (v : List SlReq) : (Upd.apply s (.slreqs v)).crews = s.crews := rfl
@[simp] theorem apply_slreqs_wgs (v : List SlReq) : (Upd.apply s (.slreqs v)).wgs = s.wgs := rfl
@[simp] theorem apply_slreqs_gangs (v : List SlReq) : (Upd.apply s (.slreqs v)).gangs = s.gangs := rfl
@[simp] theorem apply_slreqs_launches (v : List SlReq) : (Upd.apply s (.slreqs v)).launches = s.launches := rfl
@[simp] theorem apply_slreqs_pelotons (v : List SlReq) : (Upd.apply s (.slreqs v)).pelotons = s.pelotons := rfl
@[simp] theorem apply_slreqs_ports (v : List SlReq) : (Upd.apply s (.slreqs v)).ports = s.ports := rfl
@[simp] theorem apply_slreqs_cores (v : List SlReq) : (Upd.apply s (.slreqs v)).cores = s.cores := rfl
@[simp] theorem apply_slreqs_clusters (v : List SlReq) : (Upd.apply s (.slreqs v)).clusters = s.clusters := rfl
@[simp] theorem apply_slreqs_slices (v : List SlReq) : (Upd.apply s (.slreqs v)).slices = s.slices := rfl
@[simp] theorem apply_slreqs_ctxs (v : List SlReq) : (Upd.apply s (.slreqs v)).ctxs = s.ctxs := rfl
@[simp] theorem apply_slreqs_queues (v : List SlReq) : (Upd.apply s (.slreqs v)).queues = s.queues := rfl
@[simp] theorem apply_slreqs_seqs (v : List SlReq) : (Upd.apply s (.slreqs v)).seqs = s.seqs := rfl
@[simp] theorem apply_slreqs_links (v : List SlReq) : (Upd.apply s (.slreqs v)).links = s.links := rfl
@[simp] theorem apply_slreqs_routes (v : List SlReq) : (Upd.apply s (.slreqs v)).routes = s.routes := rfl
@[simp] theorem apply_slreqs_reqs (v : List SlReq) : (Upd.apply s (.slreqs v)).reqs = s.reqs := rfl
@[simp] theorem apply_slreqs_slreqs (v : List SlReq) : (Upd.apply s (.slreqs v)).slreqs = v := rfl
@[simp] theorem apply_slreqs_slrels (v : List SlReq) : (Upd.apply s (.slreqs v)).slrels = s.slrels := rfl
@[simp] theorem apply_slreqs_dev (v : List SlReq) : (Upd.apply s (.slreqs v)).dev = s.dev := rfl

/-! `slrels` -/

@[simp] theorem apply_slrels_tick (v : List SlRel) : (Upd.apply s (.slrels v)).tick = s.tick := rfl
@[simp] theorem apply_slrels_now (v : List SlRel) : (Upd.apply s (.slrels v)).now = s.now := rfl
@[simp] theorem apply_slrels_agenda (v : List SlRel) : (Upd.apply s (.slrels v)).agenda = s.agenda := rfl
@[simp] theorem apply_slrels_ready (v : List SlRel) : (Upd.apply s (.slrels v)).ready = s.ready := rfl
@[simp] theorem apply_slrels_fresh (v : List SlRel) : (Upd.apply s (.slrels v)).fresh = s.fresh := rfl
@[simp] theorem apply_slrels_mem (v : List SlRel) : (Upd.apply s (.slrels v)).mem = s.mem := rfl
@[simp] theorem apply_slrels_lanes (v : List SlRel) : (Upd.apply s (.slrels v)).lanes = s.lanes := rfl
@[simp] theorem apply_slrels_crews (v : List SlRel) : (Upd.apply s (.slrels v)).crews = s.crews := rfl
@[simp] theorem apply_slrels_wgs (v : List SlRel) : (Upd.apply s (.slrels v)).wgs = s.wgs := rfl
@[simp] theorem apply_slrels_gangs (v : List SlRel) : (Upd.apply s (.slrels v)).gangs = s.gangs := rfl
@[simp] theorem apply_slrels_launches (v : List SlRel) : (Upd.apply s (.slrels v)).launches = s.launches := rfl
@[simp] theorem apply_slrels_pelotons (v : List SlRel) : (Upd.apply s (.slrels v)).pelotons = s.pelotons := rfl
@[simp] theorem apply_slrels_ports (v : List SlRel) : (Upd.apply s (.slrels v)).ports = s.ports := rfl
@[simp] theorem apply_slrels_cores (v : List SlRel) : (Upd.apply s (.slrels v)).cores = s.cores := rfl
@[simp] theorem apply_slrels_clusters (v : List SlRel) : (Upd.apply s (.slrels v)).clusters = s.clusters := rfl
@[simp] theorem apply_slrels_slices (v : List SlRel) : (Upd.apply s (.slrels v)).slices = s.slices := rfl
@[simp] theorem apply_slrels_ctxs (v : List SlRel) : (Upd.apply s (.slrels v)).ctxs = s.ctxs := rfl
@[simp] theorem apply_slrels_queues (v : List SlRel) : (Upd.apply s (.slrels v)).queues = s.queues := rfl
@[simp] theorem apply_slrels_seqs (v : List SlRel) : (Upd.apply s (.slrels v)).seqs = s.seqs := rfl
@[simp] theorem apply_slrels_links (v : List SlRel) : (Upd.apply s (.slrels v)).links = s.links := rfl
@[simp] theorem apply_slrels_routes (v : List SlRel) : (Upd.apply s (.slrels v)).routes = s.routes := rfl
@[simp] theorem apply_slrels_reqs (v : List SlRel) : (Upd.apply s (.slrels v)).reqs = s.reqs := rfl
@[simp] theorem apply_slrels_slreqs (v : List SlRel) : (Upd.apply s (.slrels v)).slreqs = s.slreqs := rfl
@[simp] theorem apply_slrels_slrels (v : List SlRel) : (Upd.apply s (.slrels v)).slrels = v := rfl
@[simp] theorem apply_slrels_dev (v : List SlRel) : (Upd.apply s (.slrels v)).dev = s.dev := rfl

/-! `dev` -/

@[simp] theorem apply_dev_tick (v : Dev) : (Upd.apply s (.dev v)).tick = s.tick := rfl
@[simp] theorem apply_dev_now (v : Dev) : (Upd.apply s (.dev v)).now = s.now := rfl
@[simp] theorem apply_dev_agenda (v : Dev) : (Upd.apply s (.dev v)).agenda = s.agenda := rfl
@[simp] theorem apply_dev_ready (v : Dev) : (Upd.apply s (.dev v)).ready = s.ready := rfl
@[simp] theorem apply_dev_fresh (v : Dev) : (Upd.apply s (.dev v)).fresh = s.fresh := rfl
@[simp] theorem apply_dev_mem (v : Dev) : (Upd.apply s (.dev v)).mem = s.mem := rfl
@[simp] theorem apply_dev_lanes (v : Dev) : (Upd.apply s (.dev v)).lanes = s.lanes := rfl
@[simp] theorem apply_dev_crews (v : Dev) : (Upd.apply s (.dev v)).crews = s.crews := rfl
@[simp] theorem apply_dev_wgs (v : Dev) : (Upd.apply s (.dev v)).wgs = s.wgs := rfl
@[simp] theorem apply_dev_gangs (v : Dev) : (Upd.apply s (.dev v)).gangs = s.gangs := rfl
@[simp] theorem apply_dev_launches (v : Dev) : (Upd.apply s (.dev v)).launches = s.launches := rfl
@[simp] theorem apply_dev_pelotons (v : Dev) : (Upd.apply s (.dev v)).pelotons = s.pelotons := rfl
@[simp] theorem apply_dev_ports (v : Dev) : (Upd.apply s (.dev v)).ports = s.ports := rfl
@[simp] theorem apply_dev_cores (v : Dev) : (Upd.apply s (.dev v)).cores = s.cores := rfl
@[simp] theorem apply_dev_clusters (v : Dev) : (Upd.apply s (.dev v)).clusters = s.clusters := rfl
@[simp] theorem apply_dev_slices (v : Dev) : (Upd.apply s (.dev v)).slices = s.slices := rfl
@[simp] theorem apply_dev_ctxs (v : Dev) : (Upd.apply s (.dev v)).ctxs = s.ctxs := rfl
@[simp] theorem apply_dev_queues (v : Dev) : (Upd.apply s (.dev v)).queues = s.queues := rfl
@[simp] theorem apply_dev_seqs (v : Dev) : (Upd.apply s (.dev v)).seqs = s.seqs := rfl
@[simp] theorem apply_dev_links (v : Dev) : (Upd.apply s (.dev v)).links = s.links := rfl
@[simp] theorem apply_dev_routes (v : Dev) : (Upd.apply s (.dev v)).routes = s.routes := rfl
@[simp] theorem apply_dev_reqs (v : Dev) : (Upd.apply s (.dev v)).reqs = s.reqs := rfl
@[simp] theorem apply_dev_slreqs (v : Dev) : (Upd.apply s (.dev v)).slreqs = s.slreqs := rfl
@[simp] theorem apply_dev_slrels (v : Dev) : (Upd.apply s (.dev v)).slrels = s.slrels := rfl
@[simp] theorem apply_dev_dev (v : Dev) : (Upd.apply s (.dev v)).dev = v := rfl

/-! `wipe` -/

@[simp] theorem apply_wipe_tick (d : Dev) : (Upd.apply s (.wipe d)).tick = s.tick := rfl
@[simp] theorem apply_wipe_now (d : Dev) : (Upd.apply s (.wipe d)).now = s.now := rfl
@[simp] theorem apply_wipe_agenda (d : Dev) : (Upd.apply s (.wipe d)).agenda = s.agenda := rfl
@[simp] theorem apply_wipe_ready (d : Dev) : (Upd.apply s (.wipe d)).ready = [] := rfl
@[simp] theorem apply_wipe_fresh (d : Dev) : (Upd.apply s (.wipe d)).fresh = s.fresh := rfl
@[simp] theorem apply_wipe_mem (d : Dev) : (Upd.apply s (.wipe d)).mem = s.mem.filter fun c => outside s.dev.devno c.1 := rfl
@[simp] theorem apply_wipe_lanes (d : Dev) : (Upd.apply s (.wipe d)).lanes = [] := rfl
@[simp] theorem apply_wipe_crews (d : Dev) : (Upd.apply s (.wipe d)).crews = [] := rfl
@[simp] theorem apply_wipe_wgs (d : Dev) : (Upd.apply s (.wipe d)).wgs = [] := rfl
@[simp] theorem apply_wipe_gangs (d : Dev) : (Upd.apply s (.wipe d)).gangs = [] := rfl
@[simp] theorem apply_wipe_launches (d : Dev) : (Upd.apply s (.wipe d)).launches = [] := rfl
@[simp] theorem apply_wipe_pelotons (d : Dev) : (Upd.apply s (.wipe d)).pelotons = [] := rfl
@[simp] theorem apply_wipe_ports (d : Dev) : (Upd.apply s (.wipe d)).ports = [] := rfl
@[simp] theorem apply_wipe_cores (d : Dev) : (Upd.apply s (.wipe d)).cores = [] := rfl
@[simp] theorem apply_wipe_clusters (d : Dev) : (Upd.apply s (.wipe d)).clusters = [] := rfl
@[simp] theorem apply_wipe_slices (d : Dev) : (Upd.apply s (.wipe d)).slices = [] := rfl
@[simp] theorem apply_wipe_ctxs (d : Dev) : (Upd.apply s (.wipe d)).ctxs = [] := rfl
@[simp] theorem apply_wipe_queues (d : Dev) : (Upd.apply s (.wipe d)).queues = [] := rfl
@[simp] theorem apply_wipe_seqs (d : Dev) : (Upd.apply s (.wipe d)).seqs = [] := rfl
@[simp] theorem apply_wipe_links (d : Dev) : (Upd.apply s (.wipe d)).links = [] := rfl
@[simp] theorem apply_wipe_routes (d : Dev) : (Upd.apply s (.wipe d)).routes = [] := rfl
@[simp] theorem apply_wipe_reqs (d : Dev) : (Upd.apply s (.wipe d)).reqs = [] := rfl
@[simp] theorem apply_wipe_slreqs (d : Dev) : (Upd.apply s (.wipe d)).slreqs = [] := rfl
@[simp] theorem apply_wipe_slrels (d : Dev) : (Upd.apply s (.wipe d)).slrels = [] := rfl
@[simp] theorem apply_wipe_dev (d : Dev) : (Upd.apply s (.wipe d)).dev = d := rfl

end Sys2Proof.Machine
end

