-- ==== Sys2Proof/Laws/Acts.lean ====
section
/-! SUPPORT. Laws/Acts.lean: actions composed: the state that each leaves, which updates it can make, and what every
update keeps. -/

namespace Sys2Proof.Machine

open Sys2Proof

/-! ### The state that an action leaves -/

@[simp] theorem applyAll_nil (s : State) : applyAll [] s = s := rfl
@[simp] theorem applyAll_cons (u : Upd) (us : List Upd) (s : State) : applyAll (u :: us) s = applyAll us (Upd.apply s u) := rfl
theorem applyAll_append (us vs : List Upd) (s : State) : applyAll (us ++ vs) s = applyAll vs (applyAll us s) := by
  simp [applyAll, List.foldl_append]

@[simp] theorem after_skip (s : State) : s.after Act.skip = s := rfl
@[simp] theorem after_seq (s : State) (a b : Act) : s.after (Act.seq a b) = (s.after a).after b :=
  applyAll_append (a s) (b (applyAll (a s) s)) s
@[simp] theorem after_all_nil (s : State) : s.after (Act.all []) = s := rfl
@[simp] theorem after_all_cons (s : State) (a : Act) (as : List Act) : s.after (Act.all (a :: as)) = (s.after a).after (Act.all as) :=
  after_seq s a (Act.all as)
@[simp] theorem after_each_nil {α : Type} (s : State) (f : α → Act) : s.after (Act.each [] f) = s := rfl
@[simp] theorem after_each_cons {α : Type} (s : State) (x : α) (xs : List α) (f : α → Act) :
    s.after (Act.each (x :: xs) f) = (s.after (f x)).after (Act.each xs f) := after_seq s (f x) (Act.all (xs.map f))
@[simp] theorem after_when (s : State) (c : Bool) (a : Act) : s.after (Act.when c a) = if c then s.after a else s := by
  cases c <;> rfl
@[simp] theorem after_read (s : State) (f : State → Act) : s.after (Act.read f) = s.after (f s) := rfl
@[simp] theorem after_opt_none {α : Type} (s : State) (f : α → Act) : s.after (Act.opt none f) = s := rfl
@[simp] theorem after_opt_some {α : Type} (s : State) (x : α) (f : α → Act) : s.after (Act.opt (some x) f) = s.after (f x) := rfl
@[simp] theorem after_fresh (s : State) (f : Nat → Act) :
    s.after (Act.fresh f) = ({ s with fresh := s.fresh + 1 } : State).after (f s.fresh) :=
  after_seq s (fun s => [.fresh (s.fresh + 1)]) (f s.fresh)
/-- An action given by cases on the state it starts from. -/
theorem after_fun (s : State) (f : State → List Upd) : s.after (fun t => f t) = applyAll (f s) s := rfl
@[simp] theorem after_const (s : State) (us : List Upd) : s.after (fun _ => us) = applyAll us s := rfl
@[simp] theorem after_ite (s : State) (p : Prop) [Decidable p] (a b : Act) :
    s.after (if p then a else b) = if p then s.after a else s.after b := by split <;> rfl

/-! ### Changes of one component -/

theorem after_updLane (s : State) (k : LaneId) (f : Lane → Lane) (l : Lane) (h : s.lanes.get? k = some l) :
    s.after (updLane k f) = { s with lanes := s.lanes.set k (f l) } := by
  simp only [State.after, updLane, h]; rfl
theorem after_updLane_none (s : State) (k : LaneId) (f : Lane → Lane) (h : s.lanes.get? k = none) :
    s.after (updLane k f) = s := by simp only [State.after, updLane, h]; rfl
theorem after_updParks (s : State) (k : LaneId) (f : Parks → Parks) (l : Lane) (h : s.lanes.get? k = some l) :
    s.after (updParks k f) = { s with lanes := s.lanes.set k { l with parks := f l.parks } } :=
  after_updLane s k _ l h
theorem after_updCrew (s : State) (k : CrewId) (f : Crew → Crew) (v : Crew) (h : s.crews.get? k = some v) :
    s.after (updCrew k f) = { s with crews := s.crews.set k (f v) } := by
  simp only [State.after, updCrew, h]; rfl
theorem after_updWg (s : State) (k : Nat) (f : Wg → Wg) (v : Wg) (h : s.wgs.get? k = some v) :
    s.after (updWg k f) = { s with wgs := s.wgs.set k (f v) } := by
  simp only [State.after, updWg, h]; rfl
theorem after_updGang (s : State) (k : Nat) (f : Gang → Gang) (v : Gang) (h : s.gangs.get? k = some v) :
    s.after (updGang k f) = { s with gangs := s.gangs.set k (f v) } := by
  simp only [State.after, updGang, h]; rfl
theorem after_updLaunch (s : State) (k : Nat) (f : Launch → Launch) (v : Launch) (h : s.launches.get? k = some v) :
    s.after (updLaunch k f) = { s with launches := s.launches.set k (f v) } := by
  simp only [State.after, updLaunch, h]; rfl
theorem after_updCtx (s : State) (k : Nat) (f : Ctx → Ctx) (v : Ctx) (h : s.ctxs.get? k = some v) :
    s.after (updCtx k f) = { s with ctxs := s.ctxs.set k (f v) } := by
  simp only [State.after, updCtx, h]; rfl
theorem after_updQueue (s : State) (k : Nat) (f : WQ → WQ) (v : WQ) (h : s.queues.get? k = some v) :
    s.after (updQueue k f) = { s with queues := s.queues.set k (f v) } := by
  simp only [State.after, updQueue, h]; rfl
@[simp] theorem after_updPeloton (s : State) (k : Nat × Nat) (f : Peloton → Peloton) :
    s.after (updPeloton k f) = { s with pelotons := s.pelotons.set k (f (s.peloton k.1 k.2)) } := rfl
@[simp] theorem after_updPort (s : State) (k : Nat) (f : Port → Port) :
    s.after (updPort k f) = { s with ports := s.ports.set k (f (s.port k)) } := rfl
@[simp] theorem after_updCore (s : State) (k : Nat) (f : Core → Core) :
    s.after (updCore k f) = { s with cores := s.cores.set k (f (s.core k)) } := rfl
@[simp] theorem after_updCluster (s : State) (k : Nat) (f : Cluster → Cluster) :
    s.after (updCluster k f) = { s with clusters := s.clusters.set k (f (s.cluster k)) } := rfl
@[simp] theorem after_updSlice (s : State) (k : Nat) (f : Slice → Slice) :
    s.after (updSlice k f) = { s with slices := s.slices.set k (f (s.slice k)) } := rfl
@[simp] theorem after_updSeqr (s : State) (k : Nat) (f : Sequencer → Sequencer) :
    s.after (updSeqr k f) = { s with seqs := s.seqs.set k (f (s.seqr k)) } := rfl
@[simp] theorem after_updLink (s : State) (k : Nat) (f : Link → Link) :
    s.after (updLink k f) = { s with links := s.links.set k (f (s.link k)) } := rfl
@[simp] theorem after_updDev (s : State) (f : Dev → Dev) : s.after (updDev f) = { s with dev := f s.dev } := rfl
@[simp] theorem after_updReqs (s : State) (f : List Req → List Req) : s.after (updReqs f) = { s with reqs := f s.reqs } := rfl
@[simp] theorem after_updSlReqs (s : State) (f : List SlReq → List SlReq) :
    s.after (updSlReqs f) = { s with slreqs := f s.slreqs } := rfl
@[simp] theorem after_updSlRels (s : State) (f : List SlRel → List SlRel) :
    s.after (updSlRels f) = { s with slrels := f s.slrels } := rfl

/-- Bytes stored from a key on, where nothing has been migrated. -/
theorem after_storeBytes (s : State) (key : Nat) (bs : List Byte) :
    s.after (storeBytes key bs) =
      { s with mem := (bs.zipIdx.map fun b => (s.phys (key + b.2), b.1)).foldl (fun m c => Memory.write m c.1 c.2) s.mem } := by
  simp only [State.after, storeBytes, applyAll]
  generalize bs.zipIdx = l
  generalize s.phys = p
  induction l generalizing s with
  | nil => rfl
  | cons b l ih => simp only [List.map_cons, List.foldl_cons]; rw [ih]; rfl

/-! ### Which updates an action makes -/

/-- Every update of an action, in any state, has a property. -/
def Act.Only (K : Upd → Prop) (a : Act) : Prop := ∀ s, ∀ u ∈ a s, K u

variable {K : Upd → Prop}

@[simp] theorem only_skip : Act.skip.Only K := fun _ _ h => absurd h (List.not_mem_nil)
theorem only_seq {a b : Act} (ha : a.Only K) (hb : b.Only K) : (Act.seq a b).Only K := by
  intro s u h
  rcases List.mem_append.1 h with h | h
  · exact ha _ _ h
  · exact hb _ _ h
theorem only_all {as : List Act} (h : ∀ a ∈ as, a.Only K) : (Act.all as).Only K := by
  induction as with
  | nil => exact only_skip
  | cons a as ih => exact only_seq (h a (by simp)) (ih fun b hb => h b (by simp [hb]))
theorem only_each {α : Type} {xs : List α} {f : α → Act} (h : ∀ x ∈ xs, (f x).Only K) : (Act.each xs f).Only K :=
  only_all fun a ha => by obtain ⟨x, hx, rfl⟩ := List.mem_map.1 ha; exact h x hx
theorem only_when {c : Bool} {a : Act} (h : a.Only K) : (Act.when c a).Only K := by
  intro s u hu; cases c
  · simp [Act.when] at hu
  · exact h s u hu
theorem only_opt {α : Type} {x : Option α} {f : α → Act} (h : ∀ v, x = some v → (f v).Only K) : (Act.opt x f).Only K := by
  intro s u hu; cases x with
  | none => simp [Act.opt] at hu
  | some v => exact h v rfl s u hu
theorem only_fresh {f : Nat → Act} (h0 : ∀ n, K (.fresh n)) (h : ∀ n, (f n).Only K) : (Act.fresh f).Only K := fun s =>
  only_seq (K := K) (a := fun s => [.fresh (s.fresh + 1)]) (fun _ u hu => by rw [List.mem_singleton.1 hu]; exact h0 _)
    (h s.fresh) s
theorem only_read {f : State → Act} (h : ∀ t, (f t).Only K) : (Act.read f).Only K := fun s u hu => h s s u hu
/-- What a property of states and an action's updates have in common. -/
theorem after_keeps {P : State → Prop} {a : Act} (ha : a.Only K) (hK : ∀ s u, K u → P s → P (Upd.apply s u)) (s : State) (hs : P s) :
    P (s.after a) := by
  have : ∀ us : List Upd, (∀ u ∈ us, K u) → ∀ t, P t → P (applyAll us t) := by
    intro us
    induction us with
    | nil => intro _ t ht; exact ht
    | cons u us ih => intro hu t ht; exact ih (fun v hv => hu v (by simp [hv])) _ (hK t u (hu u (by simp)) ht)
  exact this _ (ha s) s hs

/-- What every update keeps, every action keeps. -/
theorem after_inv {P : State → Prop} (hP : ∀ s u, P s → P (Upd.apply s u)) (a : Act) (s : State) (hs : P s) : P (s.after a) :=
  after_keeps (K := fun _ => True) (fun _ _ _ => trivial) (fun s u _ h => hP s u h) s hs

end Sys2Proof.Machine
end

