-- ==== Sys2Proof/Laws/Memory.lean ====
section
/-! SUPPORT. Laws/Memory.lean: reads after writes, and the canonical form that every memory operation keeps. -/

namespace Sys2Proof.Machine

open Sys2Proof

theorem Memory.read_of_lt (m : List Host.Cell) (a : Nat) (h : ∀ c ∈ m, a < c.1) : Memory.read m a = 0 := by
  induction m with
  | nil => rfl
  | cons c m ih =>
    obtain ⟨k, w⟩ := c
    have hk : ¬ k = a := by have := h (k, w) (by simp); simp at this; omega
    simp only [Memory.read, hk, if_false]
    exact ih fun c hc => h c (by simp [hc])

/-- A read after a write: the byte written at its key, what was there at every other. -/
theorem Memory.read_write (m : List Host.Cell) (hm : Memory.wf m) (a b : Nat) (v : Byte) :
    Memory.read (Memory.write m a v) b = if b = a then v else Memory.read m b := by
  induction m with
  | nil =>
    simp only [Memory.write]
    by_cases hb : b = a
    · subst hb; by_cases hv : v = 0
      · simp only [if_pos hv, Memory.read, if_true, hv]
      · simp only [if_neg hv, Memory.read, if_true]
    · have h : ¬ a = b := fun h => hb h.symm
      split <;> simp only [Memory.read, if_neg h, if_neg hb]
  | cons c m ih =>
    obtain ⟨k, w⟩ := c
    obtain ⟨hp, hz⟩ := hm
    rw [List.pairwise_cons] at hp
    have ih := ih ⟨hp.2, fun c hc => hz c (by simp [hc])⟩
    simp only [Memory.write]
    split
    · next hlt =>
      simp only [Memory.read, ih]
      by_cases hb : b = a
      · have : ¬ k = b := by omega
        simp [this, hb]; intro h; omega
      · simp [hb]
    · next hlt =>
      split
      · next he =>
        subst he
        by_cases hv : v = 0
        · simp only [hv, if_true]
          by_cases hb : b = k
          · subst hb
            simp only [if_true]
            exact Memory.read_of_lt m b fun c hc => by simpa using hp.1 c hc
          · have : ¬ k = b := fun h => hb h.symm
            simp [hb, Memory.read, this]
        · simp only [hv, if_false, Memory.read]
          by_cases hb : b = k
          · simp [hb]
          · have : ¬ k = b := fun h => hb h.symm
            simp [hb, this]
      · next hne =>
        by_cases hv : v = 0
        · simp only [hv, if_true]
          by_cases hb : b = a
          · subst hb
            simp only [if_true]
            refine Memory.read_of_lt _ b fun c hc => ?_
            rcases List.mem_cons.1 hc with h | h
            · subst h; simp; omega
            · have := hp.1 c h; simp at this; omega
          · simp [hb]
        · simp only [hv, if_false, Memory.read]
          by_cases hb : b = a
          · simp [hb]
          · have : ¬ a = b := fun h => hb h.symm
            simp [hb, this]

theorem Memory.mem_write (m : List Host.Cell) (a : Nat) (v : Byte) : ∀ c ∈ Memory.write m a v, c ∈ m ∨ (c = (a, v) ∧ v ≠ 0) := by
  induction m with
  | nil => intro c hc; simp only [Memory.write] at hc; split at hc <;> simp_all
  | cons d m ih =>
    intro c hc
    obtain ⟨k, w⟩ := d
    simp only [Memory.write] at hc
    split at hc
    · rcases List.mem_cons.1 hc with h | h
      · simp [h]
      · rcases ih c h with h | h
        · simp [h]
        · exact .inr h
    · split at hc <;> split at hc <;> simp_all <;> tauto

/-- A write keeps the canonical form. -/
theorem Memory.wf_write (m : List Host.Cell) (hm : Memory.wf m) (a : Nat) (v : Byte) : Memory.wf (Memory.write m a v) := by
  refine ⟨?_, fun c hc => ?_⟩
  · induction m with
    | nil => simp only [Memory.write]; split <;> simp
    | cons d m ih =>
      obtain ⟨k, w⟩ := d
      obtain ⟨hp, hz⟩ := hm
      rw [List.pairwise_cons] at hp
      have ih := ih ⟨hp.2, fun c hc => hz c (by simp [hc])⟩
      simp only [Memory.write]
      split
      · next hlt =>
        refine List.pairwise_cons.2 ⟨fun c hc => ?_, ih⟩
        rcases Memory.mem_write m a v c hc with h | ⟨h, _⟩
        · exact hp.1 c h
        · subst h; exact hlt
      · next hlt =>
        split
        · next he =>
          subst he
          split
          · exact hp.2
          · exact List.pairwise_cons.2 ⟨fun c hc => hp.1 c hc, hp.2⟩
        · next hne =>
          split
          · exact List.pairwise_cons.2 hp
          · refine List.pairwise_cons.2 ⟨fun c hc => ?_, List.pairwise_cons.2 hp⟩
            rcases List.mem_cons.1 hc with h | h
            · subst h; simp; omega
            · have := hp.1 c h; simp at this ⊢; omega
  · rcases Memory.mem_write m a v c hc with h | ⟨h, hv⟩
    · exact hm.2 c h
    · subst h; exact hv

theorem Memory.wf_filter (m : List Host.Cell) (hm : Memory.wf m) (p : Host.Cell → Bool) : Memory.wf (m.filter p) :=
  ⟨hm.1.sublist List.filter_sublist, fun c hc => hm.2 c (List.mem_of_mem_filter hc)⟩

/-- Every update keeps memory's canonical form. -/
theorem apply_memWf (s : State) (u : Upd) (h : Memory.wf s.mem) : Memory.wf (Upd.apply s u).mem := by
  cases u with
  | byte k v => exact Memory.wf_write s.mem h k v
  | wipe d => exact Memory.wf_filter s.mem h _
  | _ => exact h

/-- Every action keeps memory's canonical form. -/
theorem after_memWf (s : State) (a : Act) (h : Memory.wf s.mem) : Memory.wf (s.after a).mem :=
  after_inv (P := fun s => Memory.wf s.mem) (fun s u h => apply_memWf s u h) a s h

theorem reset_memWf : Memory.wf State.reset.mem := by simp [State.reset, Memory.wf]

/-- Bytes from a key on, one by one. -/
theorem read_foldl_write (l : List (Nat × Byte)) (m : List Host.Cell) (hm : Memory.wf m) (b : Nat) (h : ∀ c ∈ l, c.1 ≠ b) :
    Memory.read (l.foldl (fun m c => Memory.write m c.1 c.2) m) b = Memory.read m b := by
  induction l generalizing m with
  | nil => rfl
  | cons c l ih =>
    simp only [List.foldl_cons]
    rw [ih _ (Memory.wf_write m hm _ _) fun d hd => h d (by simp [hd]), Memory.read_write m hm]
    rw [if_neg (fun e => h c (by simp) e.symm)]

/-- A store leaves every byte outside it. -/
theorem byte_storeBytes_ne (s : State) (hm : Memory.wf s.mem) (key : Nat) (bs : List Byte) (a : Nat)
    (h : ∀ i < bs.length, s.phys (key + i) ≠ a) : Memory.read (s.after (storeBytes key bs)).mem a = Memory.read s.mem a := by
  rw [after_storeBytes]
  refine read_foldl_write _ _ hm a fun c hc => ?_
  obtain ⟨b, hb, rfl⟩ := List.mem_map.1 hc
  have := List.mem_zipIdx hb
  exact h b.2 (by omega)

end Sys2Proof.Machine
end

