-- ==== Sys2Proof/Laws/Issue.lean ====
section
/-! SUPPORT. Laws/Issue.lean: what the shared operations of an issue leave behind. -/

namespace Sys2Proof.Machine

open Sys2Proof

/-- What writes of registers leave alone: every field of a lane that `write` does not change is that of the lane before. -/
theorem foldl_write_keeps {α : Type} (f : Lane → α) (h : ∀ l c v, f (Lane.write l c v) = f l) (ws : Writes) (l : Lane) :
    f (ws.foldl (fun l v => l.write v.1 v.2) l) = f l := by
  induction ws generalizing l with
  | nil => rfl
  | cons w ws ih => rw [List.foldl_cons, ih, h]

theorem write_cases {α : Type} (f : Lane → α) (hg : ∀ l n v, f (Lane.setReg l n v) = f l) (hp : ∀ l n v, f (Lane.setPred l n v) = f l)
    (l : Lane) (c : Nat) (v : Word) : f (Lane.write l c v) = f l := by
  simp only [Lane.write]
  split
  · exact hg ..
  · split
    · exact hp ..
    · rfl

theorem setPred_keeps {α : Type} (f : Lane → α) (h : ∀ (l : Lane) p, f { l with p := p } = f l) (l : Lane) (n : Nat) (v : Bool) :
    f (Lane.setPred l n v) = f l := by
  simp only [Lane.setPred]
  split
  · rfl
  · exact h ..

@[simp] theorem writes_pc (l : Lane) (ws : Writes) : (l.writes ws).pc = l.pc :=
  foldl_write_keeps (·.pc) (write_cases _ (fun _ _ _ => rfl) (setPred_keeps _ fun _ _ => rfl)) ws _
@[simp] theorem writes_exited (l : Lane) (ws : Writes) : (l.writes ws).exited = l.exited :=
  foldl_write_keeps (·.exited) (write_cases _ (fun _ _ _ => rfl) (setPred_keeps _ fun _ _ => rfl)) ws _
@[simp] theorem writes_parks (l : Lane) (ws : Writes) : (l.writes ws).parks = l.parks :=
  foldl_write_keeps (·.parks) (write_cases _ (fun _ _ _ => rfl) (setPred_keeps _ fun _ _ => rfl)) ws _
@[simp] theorem writes_regions (l : Lane) (ws : Writes) : (l.writes ws).regions = l.regions :=
  foldl_write_keeps (·.regions) (write_cases _ (fun _ _ _ => rfl) (setPred_keeps _ fun _ _ => rfl)) ws _

/-- Retiring one lane moves it past its word. -/
theorem after_retire (s : State) (e : Env) (l : Lane) (hl : s.lanes.get? e.k = some l) :
    s.after (retire [e]) = { s with lanes := s.lanes.set e.k (l.issued (l.pc + 12) e.op.w) } := by
  simp only [retire, after_each_cons, after_each_nil]
  rw [after_updLane _ _ _ _ hl]

/-- Flags are added to those of the lane's crew, when a lane of it is left. -/
theorem after_setFlags (s : State) (k : LaneId) (f : BitVec 7) (cr : Crew) (hc : s.crews.get? (s.crewOf k) = some cr)
    (hk : k.idx ∈ cr.lanes) (hg : s.gone k = false) :
    s.after (setFlags k f) = { s with crews := s.crews.set (s.crewOf k) { cr with flags := cr.flags ||| f } } := by
  by_cases hf : f = 0
  · subst hf
    have h0 : cr.flags ||| 0 = cr.flags := by simp
    rw [h0, Map.set_get? _ _ _ hc]
    rfl
  · have : (cr.lanes.all fun i => s.gone ⟨k.wg, i⟩) = false := by
      rw [List.all_eq_false]; exact ⟨k.idx, hk, by simp [hg]⟩
    simp only [State.after, setFlags, hf, if_false, hc, this]
    rfl

/-- No flags, no change. -/
@[simp] theorem after_setFlags_zero (s : State) (k : LaneId) : s.after (setFlags k 0) = s := rfl

/-- One lane's short-latency result is written, with its flags. -/
theorem after_writeShort (s : State) (e : Env) (ws : Writes) (f : BitVec 7) (hl : s.lanes.get? e.k = some e.l) :
    s.after (writeShort [(e, (ws, f))]) =
      ({ s with lanes := s.lanes.set e.k { e.l.writes ws with shortUntil := s.now + 4 } } : State).after (setFlags e.k f) := by
  simp only [writeShort, after_each_cons, after_each_nil]
  change s.after (Act.all [updLane e.k fun l => { l.writes ws with shortUntil := s.now + 4 }, setFlags e.k f]) = _
  simp only [after_all_cons, after_all_nil]
  rw [after_updLane _ _ _ _ hl]

/-- A short-latency instruction of one lane that sets no flag. -/
theorem after_short (s : State) (e : Env) (run : Env → Result2) (ws : Writes) (hr : run e = (ws, 0)) (hl : s.lanes.get? e.k = some e.l) :
    s.after (issueShort run [e]) = { s with
      lanes := s.lanes.set e.k (({ e.l.writes ws with shortUntil := s.now + 4 } : Lane).issued (e.l.pc + 12) e.op.w) } := by
  simp only [issueShort, List.map_cons, List.map_nil, hr, after_all_cons, after_all_nil]
  rw [after_writeShort _ _ _ _ hl, after_setFlags_zero, after_retire _ _ { e.l.writes ws with shortUntil := s.now + 4 } (by simp)]
  simp only [Map.set_set, writes_pc]

/-- A short-latency instruction of one lane with the flags that it sets. -/
theorem after_short_flags (s : State) (e : Env) (cr : Crew) (run : Env → Result2) (ws : Writes) (f : BitVec 7) (hr : run e = (ws, f))
    (hl : s.lanes.get? e.k = some e.l) (hx : e.l.exited = false) (hc : s.crews.get? (s.crewOf e.k) = some cr) (hk : e.k.idx ∈ cr.lanes) :
    s.after (issueShort run [e]) = { s with
      lanes := s.lanes.set e.k (({ e.l.writes ws with shortUntil := s.now + 4 } : Lane).issued (e.l.pc + 12) e.op.w),
      crews := s.crews.set (s.crewOf e.k) { cr with flags := cr.flags ||| f } } := by
  simp only [issueShort, List.map_cons, List.map_nil, hr, after_all_cons, after_all_nil]
  rw [after_writeShort _ _ _ _ hl]
  rw [after_setFlags ({ s with lanes := s.lanes.set e.k { e.l.writes ws with shortUntil := s.now + 4 } }) e.k f cr hc hk
    (by simp [State.gone, hx])]
  rw [after_retire _ _ { e.l.writes ws with shortUntil := s.now + 4 } (by simp)]
  simp only [Map.set_set, writes_pc]
  rfl

/-- A long-latency instruction of one lane whose value is formed at issue leaves its result outstanding. -/
theorem after_long (s : State) (e : Env) (run : Env → Result2) (hl : s.lanes.get? e.k = some e.l) :
    s.after (issueLong run [e]) = { s with
      fresh := s.fresh + 1,
      lanes := s.lanes.set e.k (({ e.l with results := e.l.results ++ [
        { id := s.fresh, vals := some (run e).1, flags := (run e).2, err := none, readyAt := s.now + 1, req := none, silent := Op.silent e.op }] } : Lane).issued
          (e.l.pc + 12) e.op.w) } := by
  simp only [issueLong, List.map_cons, List.map_nil, after_all_cons, after_all_nil, resultNow]
  have h1 : s.after (withIds [(e, run e)] fun ys => Act.each ys fun y => fun s => addResult y.1.1.k
      { id := y.2, vals := some y.1.2.1, flags := y.1.2.2, err := none, readyAt := s.now + 1, req := none, silent := Op.silent y.1.1.op } s) =
      ({ s with fresh := s.fresh + 1 } : State).after (addResult e.k
        { id := s.fresh, vals := some (run e).1, flags := (run e).2, err := none, readyAt := s.now + 1, req := none, silent := Op.silent e.op }) := by
    change s.after (Act.seq (fun s => [.fresh (s.fresh + 1)]) _) = _
    rw [after_seq]
    change ({ s with fresh := s.fresh + 1 } : State).after _ = _
    simp only [List.zipIdx_cons, List.zipIdx_nil, List.map_cons, List.map_nil, after_each_cons, after_each_nil, Nat.add_zero]
    rfl
  rw [h1, addResult, after_updLane ({ s with fresh := s.fresh + 1 }) _ _ e.l hl, after_retire _ _ { e.l with results := e.l.results ++ [
    { id := s.fresh, vals := some (run e).1, flags := (run e).2, err := none, readyAt := s.now + 1, req := none, silent := Op.silent e.op }] } (by simp)]
  simp only [Map.set_set]

end Sys2Proof.Machine
end

