-- ==== Sys2Proof/Laws/Lines.lean ====
section
/-! SUPPORT. Laws/Lines.lean: what the assembler's check of a word says. -/

namespace Sys2Proof.Machine

open Sys2Proof

/-- A word in which the assembler finds no failing check is one that decodes (R48, R54). -/
theorem decode_of_failingCheck {regs : Nat} {w : BitVec 96} (h : failingCheck regs w = none) : ∃ op, decode regs w = .ok op := by
  unfold failingCheck at h
  unfold decode
  cases hm : Maj.ofCode (fieldsOf w).maj.toNat with
  | none => simp [hm] at h
  | some m =>
    by_cases h6 : minTypOk m (fieldsOf w).min.toNat (Typ.ofCode (fieldsOf w).typ.toNat) = true
    · by_cases h7 : fixedValuesOk m (fieldsOf w) = true
      · cases hx : Opnd.ofCode (fieldsOf w).fx.toNat with
        | none => simp [hm, h6, h7, hx] at h
        | some x => cases hy : Opnd.ofCode (fieldsOf w).fy.toNat with
          | none => simp [hm, h6, h7, hx, hy] at h
          | some y => cases hz : Opnd.ofCode (fieldsOf w).fz.toNat with
            | none => simp [hm, h6, h7, hx, hy, hz] at h
            | some z =>
              by_cases ho : operandsOk m (fieldsOf w) regs x y z = true
              · exact ⟨_, by simp [hm, h6, h7, hx, hy, hz, ho]; rfl⟩
              · simp only [hm, h6, h7, hx, hy, hz, ho] at h
                simp at h
                split at h <;> cases h
      · simp [hm, h6, h7] at h
    · simp [hm, h6] at h

end Sys2Proof.Machine
end

