-- ==== Sys2Proof/Laws/Steps.lean ====
section
/-! SUPPORT. Laws/Steps.lean: what every step has in common, and what the shared operations of records and traps leave behind. -/

namespace Sys2Proof

variable {κ α : Type} [DecidableEq κ]

/-- A key that a map lists has a value. -/
theorem Map.get?_of_mem (m : Map κ α) (e : κ × α) (h : e ∈ m) : ∃ v, Map.get? m e.1 = some v := by
  induction m with
  | nil => simp at h
  | cons x m ih =>
    simp only [Map.get?]
    split
    · exact ⟨_, rfl⟩
    · next hne =>
      rcases List.mem_cons.1 h with h | h
      · subst h; exact absurd rfl hne
      · exact ih h

namespace Machine

open Sys2Proof

/-! ### Steps -/

/-- The updates of an action are made in order; the form in which a definition of an action can be unfolded. -/
theorem after_eq (s : State) (a : Act) : s.after a = applyAll (a s) s := rfl

/-- Every meaning answers a next state: some action's, settled. -/
theorem exec_next (i : Instr) (s : State) : ∃ a : Act, exec i s = .next (s.after a).settled := by
  cases i <;> exact ⟨_, rfl⟩

theorem after_ifUp (s : State) (a : Act) (h : s.dev.up = true) : s.after (ifUp a) = s.after a := by
  simp [after_eq, ifUp, h]
theorem after_ifUp_down (s : State) (a : Act) (h : s.dev.up = false) : s.after (ifUp a) = s := by
  simp [after_eq, ifUp, h]

/-! ### Actions that change nothing -/

theorem after_each_id {α : Type} (s : State) (xs : List α) (f : α → Act) (h : ∀ x ∈ xs, s.after (f x) = s) : s.after (Act.each xs f) = s := by
  induction xs with
  | nil => rfl
  | cons x xs ih => rw [after_each_cons, h x (by simp), ih fun y hy => h y (by simp [hy])]
theorem after_updLane_id (s : State) (k : LaneId) (f : Lane → Lane) (h : ∀ l, s.lanes.get? k = some l → f l = l) : s.after (updLane k f) = s := by
  cases hl : s.lanes.get? k with
  | none => rw [after_updLane_none _ _ _ hl]
  | some l => rw [after_updLane _ _ _ _ hl, h l hl, Map.set_get? _ _ _ hl]
theorem after_updCluster_id (s : State) (n : Nat) (v : Cluster) (hv : s.clusters.get? n = some v) (f : Cluster → Cluster) (h : f v = v) :
    s.after (updCluster n f) = s := by
  have : s.cluster n = v := by simp [State.cluster, Map.getD, hv]
  rw [after_updCluster, this, h, Map.set_get? _ _ _ hv]
theorem after_updCore_id (s : State) (n : Nat) (v : Core) (hv : s.cores.get? n = some v) (f : Core → Core) (h : f v = v) :
    s.after (updCore n f) = s := by
  have : s.core n = v := by simp [State.core, Map.getD, hv]
  rw [after_updCore, this, h, Map.set_get? _ _ _ hv]

/-! ### What actions leave alone -/

theorem after_updLane_frame (s : State) (k : LaneId) (f : Lane → Lane) : s.after (updLane k f) = { s with lanes := (s.after (updLane k f)).lanes } := by
  rw [after_eq]; simp only [updLane]; split <;> rfl
theorem after_updCtx_frame (s : State) (c : Nat) (f : Ctx → Ctx) : s.after (updCtx c f) = { s with ctxs := (s.after (updCtx c f)).ctxs } := by
  rw [after_eq]; simp only [updCtx]; split <;> rfl
theorem after_storeBytes_frame (s : State) (k : Nat) (bs : List Byte) : s.after (storeBytes k bs) = { s with mem := (s.after (storeBytes k bs)).mem } := by
  rw [after_storeBytes]

theorem after_each_updSlice_frame {α : Type} (xs : List α) (n : α → Nat) (f : α → Slice → Slice) (s : State) :
   s.after (Act.each xs fun x => updSlice (n x) (f x)) = { s with slices := (s.after (Act.each xs fun x => updSlice (n x) (f x))).slices } := by
  induction xs generalizing s with
  | nil => rfl
  | cons x xs ih => rw [after_each_cons, ih]; rfl
theorem after_setFlags_frame (s : State) (k : LaneId) (f : BitVec 7) : s.after (setFlags k f) = { s with crews := (s.after (setFlags k f)).crews } := by
  rw [after_eq]; simp only [setFlags]
  split
  · rfl
  · split
    · split <;> rfl
    · rfl
/-- What flags a crew gains depends on its lanes alone. -/
theorem after_setFlags_congr (s t : State) (k : LaneId) (f : BitVec 7) (h1 : t.lanes = s.lanes) (h2 : t.crews = s.crews) (h3 : t.wgs = s.wgs) :
   (t.after (setFlags k f)).crews = (s.after (setFlags k f)).crews := by
  have e : setFlags k f t = setFlags k f s := by
    simp only [setFlags, State.crewOf, State.gone, h1, h2, h3]
    rfl
  rw [after_eq, after_eq, e]
  have : ∀ us : List Upd, ∀ s t : State, t.crews = s.crews → (∀ u ∈ us, ∃ k v, u = .crew k v) → (applyAll us t).crews = (applyAll us s).crews := by
    intro us
    induction us with
    | nil => intro s t h _; exact h
    | cons u us ih =>
      intro s t h hu
      obtain ⟨k, v, rfl⟩ := hu u (by simp)
      exact ih _ _ (by simp [Upd.apply, h]) fun w hw => hu w (by simp [hw])
  refine this _ _ _ h2 ?_
  intro u hu
  simp only [setFlags] at hu
  split at hu
  · simp at hu
  · split at hu
    · split at hu
      · simp at hu
      · simp at hu; exact ⟨_, _, hu⟩
    · simp at hu

/-- A port of a cluster is changed where it is configured, and nothing else. -/
theorem after_updDitch (s : State) (cl p : Nat) (f : Ditch → Ditch) : ∃ ports : Map Nat Ditch,
    s.after (updPort' cl p f) = { s with clusters := s.clusters.set cl { s.cluster cl with ports := ports } } ∧
    ∀ q, ports.get? q = ((s.cluster cl).ports.get? q).map fun d => if q = p then f d else d := by
  refine ⟨_, by simp only [updPort', after_updCluster]; rfl, fun q => ?_⟩
  cases h : (s.cluster cl).ports.get? p with
  | none =>
    simp only []
    by_cases hq : q = p
    · subst hq; simp [h]
    · simp [hq]
  | some d =>
    simp only []
    by_cases hq : q = p
    · subst hq; simp [h]
    · rw [Map.get?_set_ne _ _ hq]; simp [hq]

/-! ### Bytes and numbers -/

@[simp] theorem bytesLE_length (n v : Nat) : (bytesLE n v).length = n := by simp [bytesLE]
theorem natLE_append (a b : List Byte) : natLE (a ++ b) = natLE a + 256 ^ a.length * natLE b := by
  induction a with
  | nil => simp [natLE]
  | cons x a ih => simp only [List.cons_append, natLE, ih, List.length_cons, Nat.pow_succ]; ring
theorem natLE_bytesLE (n v : Nat) : natLE (bytesLE n v) = v % 256 ^ n := by
  induction n generalizing v with
  | zero => simp [bytesLE, natLE, Nat.mod_one]
  | succ n ih =>
    have : bytesLE (n + 1) v = BitVec.ofNat 8 v :: bytesLE n (v / 256) := by
      simp only [bytesLE, List.range_succ_eq_map, List.map_cons, List.map_map, pow_zero, Nat.div_one]
      congr 1
      apply List.map_congr_left; intro i _
      simp [Nat.pow_succ, Nat.mul_comm, Nat.div_div_eq_div_mul]
    rw [this, natLE, ih, Nat.pow_succ, Nat.mul_comm (256 ^ n), Nat.mod_mul]
    simp
/-- Where nothing has been migrated a key leads to itself. -/
theorem phys_id (s : State) (h : s.dev.moved = []) (k : Nat) : s.phys k = k := by simp [State.phys, h]

/-! ### Records -/

/-- A record that has room goes to the producer's slot of its ring. -/
theorem after_writeRecord (s : State) (c : Nat) (v : Ctx) (r : Ring) (n : Nat) (h : s.ctxs.get? c = some v) : s.after (writeRecord c r n) = { s with
    mem := (s.after (storeBytes ((v.ring r).1 + (v.ring r).2.2.1.toNat % 2 ^ (v.ring r).2.1 * 64) (bytesLE 64 n))).mem,
    ctxs := s.ctxs.set c (v.bump r) } := by
  rw [after_eq]; simp only [writeRecord, h]; rw [← after_eq, after_seq, after_storeBytes_frame]
  generalize (s.after (storeBytes ((v.ring r).1 + (v.ring r).2.2.1.toNat % 2 ^ (v.ring r).2.1 * 64) (bytesLE 64 n))).mem = m
  rw [after_updCtx ({ s with mem := m }) c _ v h]

/-- Where no lane has stopped in this cycle, no record of a step comes out of order. -/
theorem recordsFollow_calm (s t : State) (h : s.noneStopped) : s.recordsFollow t = true := by
  simp only [State.recordsFollow, List.all_eq_true, Bool.or_eq_true, Bool.not_eq_true']
  intro c _ f _
  right
  cases hc : s.ctxs.get? c.1 with
  | none => simp
  | some d =>
    simp only [List.any_eq_false, Bool.and_eq_true, Option.isNone_iff_eq_none, beq_iff_eq, decide_eq_true_eq, not_and]
    intro g hg h1 h2
    exact absurd h1.1.2 (h c.1 d hc g hg h1.1.1)
theorem after_recordsInOrder (s : State) (a : Act) (h : s.noneStopped) : s.after (recordsInOrder a) = s.after a := by
  rw [after_eq, after_eq]; simp only [recordsInOrder, recordsFollow_calm _ _ h, if_true]

/-! ### Traps -/

/-- One lane takes a trap that has a handler, with no trap of its crew open. -/
theorem after_crewTrap_one (s : State) (c : CrewId) (r : Raise) (l : Lane) (cr : Crew) (hl : s.lanes.get? r.lane = some l)
    (hc : s.crews.get? c = some cr) (ho : s.trapOpen c = false) (h0 : s.handler (s.ctxOf r.lane) r.cls ≠ 0)
    (h4 : s.handler (s.ctxOf r.lane) r.cls % 4 = 0) :
    s.after (crewTrap c [r]) = { s with
      crews := s.crews.set c { cr with tpc := r.resume, tcause := tcauseOf r.info r.cause r.cls },
      lanes := s.lanes.set r.lane { l with pc := BitVec.ofNat 64 (s.handler (s.ctxOf r.lane) r.cls), latch := none, trapLane := true } } := by
  have hp : s.pcOf r.lane = l.pc := by simp [State.pcOf, hl]
  have hlt : l.pc.toNat ≤ 2 ^ 64 := by have := l.pc.isLt; omega
  have hmin : Nat.min (2 ^ 64) l.pc.toNat = l.pc.toNat := Nat.min_eq_right hlt
  rw [after_eq]
  simp only [crewTrap, List.mergeSort_singleton, ho, Bool.false_eq_true, if_false, h0, h4, ne_eq, not_true_eq_false, or_self, List.map_cons,
    List.map_nil, List.foldl_cons, List.foldl_nil, hp, hmin, List.filter_cons, BEq.rfl, if_true, List.filter_nil, List.headD_cons,
    bne_self_eq_false]
  rw [← after_eq]
  simp only [after_all_cons, after_all_nil, after_each_cons, after_each_nil]
  rw [after_updCrew _ _ _ _ hc]
  rw [after_updLane { s with crews := s.crews.set c { cr with tpc := r.resume, tcause := tcauseOf r.info r.cause r.cls } } _ _ l hl]

/-- One lane raises a trap in its own crew, which takes it, waits or fault-parks. -/
theorem after_raiseTraps_one (s : State) (r : Raise) : s.after (raiseTraps [r]) =
    (s.after (crewTrap (s.crewOf r.lane) [r])).after (faultAll (s.trapFails (s.crewOf r.lane) [r])) := by
  rw [after_eq]
  have : [s.crewOf r.lane].dedup = [s.crewOf r.lane] := by simp
  simp only [raiseTraps, List.map_cons, List.map_nil, this]
  rw [← after_eq]
  simp only [after_all_cons, after_all_nil, after_each_cons, after_each_nil, List.filter_cons, decide_true, if_true, List.filter_nil,
    List.flatMap_cons, List.flatMap_nil, List.append_nil]

/-- Where no lane fault-parks no record is made. -/
@[simp] theorem after_faultAll_nil (s : State) : s.after (faultAll []) = s := by
  rw [after_eq]; simp only [faultAll, List.mergeSort_nil, List.map_nil, List.reverse_nil, List.dedup_nil]
  rfl
/-- One lane that fault-parks has a record of its own. -/
theorem after_faultAll_one (s : State) (f : Parking) : s.after (faultAll [f]) = s.after (faultRecord f.1 f.2.1 [f.2.2]) := by
  rw [after_eq]
  have : [s.recordKey f].dedup = [s.recordKey f] := by simp
  simp only [faultAll, List.mergeSort_singleton, List.map_cons, List.map_nil, List.reverse_cons, List.reverse_nil, List.nil_append, this]
  rw [← after_eq]
  simp only [after_each_cons, after_each_nil, List.filter_cons, decide_true, if_true, List.filter_nil, List.map_cons, List.map_nil,
    State.recordKey]

end Machine
end Sys2Proof
end

