-- ==== Sys2Proof/Machine/Load.lean ====
section
/-! DEFINITION. Machine/Load.lean: the loader of a context (R80, R81, R86 to R91): its checks in their order, and what a load and an
unload write. The loader is system software: where it may choose, the choice is an argument. -/

namespace Sys2Proof.Machine

open Sys2Proof

/-! ### What the loader keeps and chooses -/

/-- A page that a load maps: virtual and global physical address, and the SIZE code of R358. -/
structure Page where
  va : Nat
  pa : Nat
  size : Nat
  deriving DecidableEq, Repr, Inhabited

/-- The choices of one load: an address for each section, pages with their frames, a home die for each section (used where HSET = 0,
R87), and frames of 16 KiB for new page tables. -/
structure Places where
  vas : List Nat
  pages : List Page
  homes : List Nat
  tables : List Nat
  deriving DecidableEq, Repr, Inhabited

/-- A global symbol of a loaded object (R88): its value and, for a kernel, the index K. -/
structure Global where
  name : List Byte
  value : Nat
  kernel : Option Nat
  deriving DecidableEq, Repr, Inhabited

/-- An object that is loaded into a context. -/
structure Loaded where
  ctx : Nat
  pages : List Page
  kds : List Nat
  binds : List Binding
  globals : List Global
  deriving DecidableEq, Repr, Inhabited

/-- A checked load, ready to be installed (R86). -/
structure Install where
  obj : Obj
  places : Places
  contents : List (List Byte)
  binds : List Binding
  ks : List Nat
  globals : List Global
  deriving DecidableEq, Repr

/-- What the loader does in a context (R89): a load, with the next step of R86 that it performs, or an unload whose descriptors are
invalid and which waits for launches, or one whose pages are unmapped and which waits until no translation of them is left (R91). -/
inductive Doing where
  | load (id step : Nat) (i : Install)
  | unload (id : Nat)
  | clear (id : Nat)
  deriving DecidableEq, Repr

/-- What the loader holds: the objects that are loaded, by a number of its own; for each context the encoded Ed25519 and
ML-DSA-65 public keys in its trust list (R85); and for each context what is under way. -/
structure Loader where
  objs : Map Nat Loaded
  trust : Map Nat (List (List Byte) × List (List Byte))
  busy : Map Nat Doing
  deriving DecidableEq, Repr

/-- A loader before its first load. -/
def Loader.init : Loader := { objs := [], trust := [], busy := [] }

/-! ### Placement (R86 step 2, R87) -/

/-- Do two ranges of addresses meet? -/
def meets (a n b m : Nat) : Bool := decide (a < b + m) && decide (b < a + n)
/-- The range of a page. -/
def Page.len (p : Page) : Nat := 2 ^ pageBits p.size
/-- The section shifts of the walk down to the level of a page's leaf entries (R356). -/
def Page.path (p : Page) : List Nat := if p.size ≤ 1 then [46, 36, 26] else [46, 36]
/-- The shift of the index of a page's leaf entries. -/
def Page.leafShift (p : Page) : Nat := if p.size ≤ 1 then 16 else 26
/-- The addresses that a page's leaf entries stand for (R359). -/
def Page.units (p : Page) : List Nat := (List.range (p.len / 2 ^ p.leafShift)).map fun i => p.va + i * 2 ^ p.leafShift

/-- The sections of an object with their addresses and home dies. -/
def Places.secs (c : Places) (o : Obj) : List (OSec × Nat × Nat) := (o.secs.zip (c.vas.zip c.homes)).map fun x =>
  (x.1, x.2.1, if x.1.hset then x.1.home else x.2.2)

/-- The attributes of a section's pages in a leaf entry: TYP, SOFF, HOME and the rights of R87. -/
def OSec.attrs (x : OSec) (home : Nat) : Nat × Nat × Nat × Nat :=
  (x.typ, x.soff, home, match x.kind with | 0 => 5 | 2 => 1 | _ => 3)

/-- The leaf entry of a page for the section that lies on it. -/
def leafEntry (p : Page) (x : OSec) (home : Nat) : Nat :=
  let (typ, soff, die, rwx) := x.attrs home
  fieldsNat [(0, 1), (1, 1), (2, p.size), (4, rwx), (7, 1), (52, p.pa / 2 ^ 16), (97, die), (100, typ), (104, soff)]

/-- Is an address of a context mapped? -/
def State.mapped (s : State) (ctx va : Nat) : Bool := (s.walk ctx (BitVec.ofNat 64 va)).isSome
/-- Is any page of a range mapped? -/
def State.rangeMapped (s : State) (ctx va n : Nat) : Bool :=
  (List.range ((va + n + 65535) / 65536 - va / 65536)).any fun i => s.mapped ctx ((va / 65536 + i) * 65536)

/-- Do the tables from one on, or the frames that their leaf entries name, meet a range of physical addresses? The shifts of the levels
are listed (R356, R358). -/
def tablesMeet (s : State) (pa n : Nat) : List Nat → Nat → Bool
  | [], _ => false
  | sh :: rest, table => meets table 16384 pa n || (List.range 1024).any fun i =>
    let e := s.num (table + 16 * i) 16
    let k := pageBits (bits e 3 2)
    if e % 2 = 0 then false
    else if bits e 1 1 = 1 then leafOk sh e 0 && bits e 8 8 == 0 && meets (bits e 87 52 * 2 ^ 16 / 2 ^ k * 2 ^ k) (2 ^ k) pa n
    else tablesMeet s pa n rest (bits e 87 50 * 2 ^ 14)

/-- Is a frame free: mapped by no context, no page table, and taken by no load (R86 step 5)? -/
def Loader.free (l : Loader) (s : State) (pa n : Nat) : Bool :=
  !(s.ctxs.any fun c => c.2.state != 0 && tablesMeet s pa n [46, 36, 26, 16] c.2.ptroot.toNat) &&
  ((l.objs.map (·.2)).all fun x => x.pages.all fun p => !meets pa n p.pa p.len) &&
  (l.busy.map (·.2)).all fun d => match d with
    | .load _ _ i => (i.places.pages.all fun p => !meets pa n p.pa p.len) && i.places.tables.all fun t => !meets pa n t 16384
    | .unload _ | .clear _ => true

/-- Are the placements such as R86 and R87 allow? (log 46, DEDUCED; log 63, DESIGN CHOICE) -/
def Places.ok (c : Places) (l : Loader) (s : State) (ctx : Nat) (o : Obj) : Bool :=
  let xs := c.secs o
  c.vas.length == o.secs.length && c.homes.length == o.secs.length && c.homes.all (fun h => decide (h ≤ 5)) &&
    xs.all (fun x => x.2.1 % 2 ^ x.1.align == 0 && decide (x.2.1 + x.1.size ≤ 0xFFFF0000000000) && (!o.linked || x.2.1 == x.1.addr) &&
      (!(x.1.pset || x.1.hset) || x.2.1 % 65536 == 0)) &&
    allApart (xs.map fun x => (x.2.1, x.1.size)) &&
    -- pages
    c.pages.all (fun p => decide (p.size ≤ 3) && p.va % p.len == 0 && p.pa % p.len == 0 && p.pa / 2 ^ 44 == s.dev.devno.toNat &&
      backed (p.pa % 2 ^ 44) && backed (p.pa % 2 ^ 44 + p.len - 1) && decide (p.pa % 2 ^ 44 + p.len ≤ 0x80000000000) &&
      p.units.all fun u => !s.mapped ctx u) &&
    allApart (c.pages.map fun p => (p.va, p.len)) &&
    allApart ((c.pages.map fun p => (p.pa, p.len)) ++ c.tables.map fun t => (t, 16384)) &&
    c.pages.all (fun p => l.free s p.pa p.len) &&
    c.tables.all (fun t => t % 16384 == 0 && t / 2 ^ 44 == s.dev.devno.toNat && backed (t % 2 ^ 44) && l.free s t 16384) &&
    -- every section is covered, and sections that share a page are alike
    xs.all (fun x => (List.range ((x.2.1 + x.1.size + 65535) / 65536 - x.2.1 / 65536)).all fun i =>
      let u := (x.2.1 / 65536 + i) * 65536
      c.pages.any fun p => decide (p.va ≤ u) && decide (u < p.va + p.len)) &&
    c.pages.all fun p =>
      let on := xs.filter fun x => meets p.va p.len x.2.1 x.1.size
      match on with
      | [] => false
      | x :: rest => rest.all fun y => y.1.kind == x.1.kind && y.1.attrs y.2.2 == x.1.attrs x.2.2 && !(x.1.pset || x.1.hset || y.1.pset || y.1.hset)

/-- The global physical address of a virtual address on the load's pages. -/
def Places.frameOf (c : Places) (va : Nat) : Nat := match c.pages.find? fun p => decide (p.va ≤ va) && decide (va < p.va + p.len) with
  | some p => p.pa + (va - p.va)
  | none => 0

/-! ### Symbols, relocations, bindings (R80, R81, R84, R88) -/

/-- The global symbols of a context. -/
def Loader.globals (l : Loader) (ctx : Nat) : List Global := (l.objs.map (·.2)).flatMap fun x => if x.ctx = ctx then x.globals else []

/-- The value of a symbol, and K for one of KIND 2; none where it is external and no loaded object has it. -/
def symVal (l : Loader) (ctx : Nat) (o : Obj) (vas ks : List Nat) (y : OSym) : Option (Nat × Option Nat) :=
  if y.bind = 2 then ((Loader.globals l ctx).find? fun g => g.name == nameAt o.strs y.name).map fun g => (g.value, g.kernel)
  else some (
    if y.sect = 0xFFFF then y.value else ((vas[y.sect - 1]?).getD 0 + y.value) % 2 ^ 64,
    if y.kind = 2 then ks[y.kdx]? else none)

/-- Is a relocation type one that patches LIT? -/
def isLitRel (t : Nat) : Bool := decide (6 ≤ t) && decide (t ≤ 11)
/-- The bytes that a relocation patches: from an offset of its section, and how many. -/
def ORel.place (r : ORel) : Nat × Nat :=
  if r.type = 0 then (r.offset, 0) else if isLitRel r.type then (r.offset + 2, 4) else (r.offset, if r.type = 1 then 8 else 4)

/-- Does the word accept a LIT relocation (R81)? -/
def litRelOk (t : Nat) (w : BitVec 96) : Bool :=
  let f := fieldsOf w
  match Maj.ofCode f.maj.toNat with
  | none => false
  | some m =>
    if t = 9 then m.fmt == .m
    else if t = 10 then m == .bra || m == .call || m == .rbegin
    else m.fmt == .e || m.fmt == .s || (m.fmt == .t && (f.fy == 0x3FF#10 || f.fz == 0x3FF#10))

/-- The form of one relocation (R81). -/
def ORel.formOk (o : Obj) (r : ORel) : Bool :=
  match o.secs[r.sect - 1]? with
  | none => false
  | some x =>
    if r.type = 0 then true
    else if isLitRel r.type then x.kind == 0 && r.offset % 12 == 0 && litRelOk r.type (BitVec.ofNat 96 (natLE ((x.data.drop r.offset).take 12)))
    else x.kind != 0

/-- The forms of all of them: no two patch overlapping bytes. -/
def relsOk (o : Obj) : Bool :=
  o.rels.all (ORel.formOk o) && (List.range o.secs.length).all fun i => allApart ((o.rels.filter fun r => r.sect == i + 1).map ORel.place)

/-- The value that a relocation writes, and whether it meets its check (R80). -/
def ORel.value (r : ORel) (s : Nat) (k : Option Nat) (p : Nat) : Nat × Bool :=
  let t := signed 64 ((s + r.addend) % 2 ^ 64)
  let n32 (v : Int) : Nat := (v % 2 ^ 32).toNat
  match r.type with
  | 0 => (0, true)
  | 1 => ((s + r.addend) % 2 ^ 64, decide ((s + r.addend) % 2 ^ 64 < 2 ^ 56))
  | 2 => (n32 t, decide (0 ≤ t) && decide (t < 2 ^ 32))
  | 3 | 7 => (n32 t, true)
  | 4 | 8 => ((s + r.addend) % 2 ^ 64 / 2 ^ 32, true)
  | 5 => (n32 (t - p), decide (-2 ^ 31 ≤ t - p) && decide (t - p < 2 ^ 31))
  | 6 => (n32 t, decide (-2 ^ 31 ≤ t) && decide (t < 2 ^ 32))
  | 9 => (n32 t, decide (-2 ^ 31 ≤ t) && decide (t < 2 ^ 31))
  | 10 =>
    let d := t - (p + 12)
    (n32 d, decide (d % 4 = 0) && decide (-2 ^ 31 ≤ d) && decide (d < 2 ^ 31))
  | _ => match k with
    | some k => let v : Int := k + signed 64 r.addend; (n32 v, decide (0 ≤ v) && decide (v < 65536))
    | none => (0, false)

/-- Bytes with others in place of those from an offset on. -/
def patch (bs : List Byte) (off : Nat) (xs : List Byte) : List Byte := bs.take off ++ xs ++ bs.drop (off + xs.length)

/-- The address that a symbol, or none, and an addend give (R84). -/
def bindAddr (vals : List (Nat × Option Nat)) (sym add : Nat) : Nat :=
  if sym = 0xFFFFFFFF then add else (((vals[sym]?).getD (0, none)).1 + add) % 2 ^ 64

/-- The bindings of an object. -/
def Obj.bindings (o : Obj) (vals : List (Nat × Option Nat)) : List Binding := o.binds.map fun b =>
  { sluice := BitVec.ofNat 64 (bindAddr vals b.slsym b.sladd), start := BitVec.ofNat 64 (bindAddr vals b.rgsym b.rgadd),
    len := BitVec.ofNat 32 b.len }

/-- A descriptor in loaded form (R82). RESX has 16 bits; an index past them keeps its low 16. (log 57, DESIGN CHOICE) -/
def OKd.loaded (k : OKd) (vas : List Nat) (stack base : Nat) : OKd :=
  { k with entry := (vas[k.esect - 1]?).getD 0 + k.entry, esect := 0, name := 0, stack := stack, resx := (base + k.resx) % 65536 }

/-! ### Pages (R356 to R359) -/

/-- A frame of a page table with every entry 0. -/
def clearTable (t : Nat) : Act := fun s => (s.mem.filter fun c => c.1 / 16384 == t / 16384).map fun c => .byte c.1 0

/-- Walk to the table that holds an entry, making tables where there are none: the updates, the table, and the frames left. None where
a leaf entry stands in the way, or no frame is left. -/
def tableFor (va : Nat) : List Nat → Nat → List Nat → State → Option (List Upd × Nat × List Nat)
  | [], table, frames, _ => some ([], table, frames)
  | sh :: rest, table, frames, s =>
    let at_ := table + 16 * (va / 2 ^ sh % 1024)
    let e := s.num at_ 16
    if e % 2 = 1 then (if bits e 1 1 = 1 then none else tableFor va rest (bits e 87 50 * 2 ^ 14) frames s)
    else match frames with
      | [] => none
      | t :: ts =>
        let us := Act.seq (clearTable t) (storeBytes at_ (bytesLE 16 (1 + t / 2 ^ 14 * 2 ^ 50))) s
        match tableFor va rest t ts (applyAll us s) with
        | some (vs, table, left) => some (us ++ vs, table, left)
        | none => none

/-- Write the entries of pages: for each unit an entry. -/
def writeEntries (root : Nat) : List (Nat × List Nat × Nat × Nat) → List Nat → State → Option (List Upd)
  | [], _, _ => some []
  | (u, path, sh, e) :: rest, frames, s =>
    match tableFor u path root frames s with
    | none => none
    | some (us, table, left) =>
      let us := us ++ storeBytes (table + 16 * (u / 2 ^ sh % 1024)) (bytesLE 16 e) (applyAll us s)
      match writeEntries root rest left (applyAll us s) with
      | some vs => some (us ++ vs)
      | none => none

/-- The entries of a load's pages. -/
def Places.entries (c : Places) (o : Obj) : List (Nat × List Nat × Nat × Nat) := c.pages.flatMap fun p =>
  match (c.secs o).find? fun x => meets p.va p.len x.2.1 x.1.size with
  | some x => p.units.map fun u => (u, p.path, p.leafShift, leafEntry p x.1 x.2.2)
  | none => []

/-! ### Loading (R86, R90) -/

/-- The descriptor indices of a context that are free: not in use by a loaded object, and not valid. (log 46, DEDUCED) -/
def freeKds (l : Loader) (s : State) (ctx : Nat) : List Nat :=
  let held := (l.objs.map (·.2)).flatMap fun x => if x.ctx = ctx then x.kds else []
  (List.range (s.ctx ctx).kdn.toNat).filter fun k => (s.desc ctx k).isNone && !held.contains k

/-- What a load answers: the index of each kernel and the address of each section. -/
structure LoadResult where
  ks : List Nat
  vas : List Nat
  deriving DecidableEq, Repr, Inhabited

/-- Does the context's trust list hold keys under which both signatures of an object verify (R85)? -/
def Loader.trusts (l : Loader) (ctx : Nat) (o : Obj) (file : List Byte) : Bool :=
  let t := Map.getD l.trust ctx ([], [])
  o.trusted file t.1 t.2

/-- Steps 1 to 4 of R86: every check, in the order of R90; `places` are the placements chosen, none where there are no placement or
frames. (log 46, DEDUCED; log 63, DESIGN CHOICE) -/
def checkLoad (l : Loader) (s : State) (ctx : Nat) (file : List Byte) (places : Option Places) : Except Cause Install :=
  if (s.ctx ctx).state ≠ 1 then .error .notOpen
  else match readObj file with
  | .error c => .error c
  | .ok o =>
    if (s.ctx ctx).sigreq && !l.trusts ctx o file then .error .sigFail
    else match places with
    | none => .error .noSpace
    | some c =>
      if o.linked && o.secs.any (fun x => s.rangeMapped ctx x.addr x.size) then .error .addrBusy
      else if !c.ok l s ctx o then .error .noSpace
      else match writeEntries (s.ctx ctx).ptroot.toNat (c.entries o) c.tables s with
      | none => .error .noSpace
      | some _ =>
        let ks := (freeKds l s ctx).take o.kds.length
        match o.syms.mapM (symVal l ctx o c.vas ks) with
        | none => .error .unresolved
        | some vals =>
          let exported := o.syms.filter fun y => y.bind == 1
          if exported.any (fun y => (Loader.globals l ctx).any fun g => g.name == nameAt o.strs y.name) then .error .dupSym
          else if !relsOk o then .error .relForm
          else
            let val (r : ORel) : Nat × Bool :=
              let v := (vals[r.sym]?).getD (0, none)
              r.value v.1 v.2 ((c.vas[r.sect - 1]?).getD 0 + r.offset)
            -- a kernel of this object whose index is not found leaves its relocations to the last check
            let kdLate (r : ORel) : Bool := (r.type == 11 || r.type == 12) && decide (ks.length < o.kds.length) &&
              (match o.syms[r.sym]? with | some y => y.kind == 2 && y.bind != 2 | none => false)
            if o.rels.any (fun r => !kdLate r && !(val r).2) then .error .relRange
            else
              let bs := o.bindings vals
              let old := (s.ctx ctx).binds.filter (·.v)
              if bs.any (fun b => b.sluice.toNat % 16 ≠ 0 || b.start.toNat % 128 ≠ 0) then .error .bindAlign
              else if !allApart (bs.map fun b => (b.start.toNat, b.len.toNat)) ||
                  bs.any (fun b => old.any fun x => meets b.start.toNat b.len.toNat x.start.toNat x.len.toNat) then .error .bindOverlap
              else if 4096 < old.length + bs.length then .error .bindFull
              else if ks.length < o.kds.length then .error .kdFull
              else
                let contents := o.secs.zipIdx.map fun x =>
                  let start := if x.1.kind = 3 then List.replicate x.1.size 0 else x.1.data
                  (o.rels.filter fun r => r.sect == x.2 + 1 && r.type != 0).foldl (fun d r => patch d r.place.1 (bytesLE r.place.2 (val r).1)) start
                .ok {
                  obj := o, places := c, contents := contents, binds := bs, ks := ks,
                  globals := (o.syms.zip vals).filterMap fun y => if y.1.bind = 1 then
                    some { name := nameAt o.strs y.1.name, value := y.2.1, kernel := y.2.2 } else none }

/-- Step 5: write the contents in frames that are not yet mapped. -/
def Install.write (i : Install) : Act := Act.each (i.contents.zip i.places.vas) fun x => fun s =>
  x.1.zipIdx.map fun b => .byte (s.phys (i.places.frameOf (x.2 + b.2))) b.1

/-- Step 6: map the pages. -/
def Install.map (i : Install) (ctx : Nat) : Act := fun s =>
  (writeEntries (s.ctx ctx).ptroot.toNat (i.places.entries i.obj) i.places.tables s).getD []

/-- Step 7: each binding that the table still takes. (log 63, DESIGN CHOICE) -/
def bindLoaded (bs : List Binding) (b : Binding) : List Binding :=
  if bs.any (fun x => x.v && meets b.start.toNat b.len.toNat x.start.toNat x.len.toNat) || 4096 ≤ (bs.filter (·.v)).length then bs
  else addBinding bs b

/-- Steps 5 to 9 of R86, by number. (log 46, DEDUCED) -/
def Install.act (i : Install) (ctx : Nat) : Nat → Act
  | 5 => i.write
  | 6 => i.map ctx
  | 7 => updCtx ctx fun c => { c with binds := i.binds.foldl bindLoaded c.binds }
  | 8 => dropCode (fun _ => true)
  | _ => fun s => Act.all [
      updCtx ctx fun c => { c with resl := c.resl ++ i.obj.res.map fun x => BitVec.ofNat 128 x.num },
      Act.each (i.obj.kds.zip i.ks) fun k =>
        storeBytes ((s.ctx ctx).kdtab.toNat + 64 * k.2)
          (k.1.loaded i.places.vas (s.ctx ctx).stack.toNat (s.ctx ctx).resl.length).bytes] s

/-- A load is requested (R86): while nothing else is under way in the context (R89), its checks are made, and it begins with step 5 or is
refused, which changes nothing. A request that finds something under way waits and is made again. (log 46, DEDUCED) -/
def loadBegin (l : Loader) (s : State) (id ctx : Nat) (file : List Byte) (places : Option Places) : Option (Except Cause Loader) :=
  if (Map.get? l.busy ctx).isSome then none
  else some (match checkLoad l s ctx file places with
    | .error c => .error c
    | .ok i => .ok { l with busy := Map.set l.busy ctx (.load id 5 i) })

/-- The next step of the load that is under way in a context; lanes run between the steps. After step 9 it answers with its result, and
the object counts as loaded. (log 63, DESIGN CHOICE) -/
def loadStep (l : Loader) (s : State) (ctx : Nat) : State × Loader × Option LoadResult :=
  match Map.get? l.busy ctx with
  | some (.load id n i) =>
    let t := s.after (i.act ctx n)
    if n < 9 then (t, { l with busy := Map.set l.busy ctx (.load id (n + 1) i) }, none)
    else (t,
      { l with
        busy := Map.del l.busy ctx,
        objs := Map.set l.objs id { ctx := ctx, pages := i.places.pages, kds := i.ks, binds := i.binds, globals := i.globals } },
      some { ks := i.ks, vas := i.places.vas })
  | _ => (s, l, none)

/-! ### Unloading (R91) -/

/-- Step 1: the descriptors of an object become invalid: LANES = 0 (R367). While something else is under way in its context, the request
waits (R89). -/
def unloadBegin (l : Loader) (s : State) (id : Nat) : Option (State × Loader) :=
  match Map.get? l.objs id with
  | none => none
  | some x =>
    if (Map.get? l.busy x.ctx).isSome then none
    else some (s.after (Act.each x.kds fun k => storeBytes ((s.ctx x.ctx).kdtab.toNat + 64 * k + 8) [0, 0]),
      { l with busy := Map.set l.busy x.ctx (.unload id) })

/-- Step 2: have all launches that name one of its kernels completed? -/
def unloadReady (x : Loaded) (s : State) : Bool := s.launches.all fun v => v.2.ctx != x.ctx || !x.kds.contains v.2.kdi

/-- Step 3: the bindings go, the pages are unmapped and their translations invalidated (R361). -/
def unloadAct (x : Loaded) : Act := fun s =>
  let root := (s.ctx x.ctx).ptroot.toNat
  let off (u : Nat × List Nat × Nat) : Act := fun t => match tableFor u.1 u.2.1 root [] t with
    | some (_, table, _) => storeBytes (table + 16 * (u.1 / 2 ^ u.2.2 % 1024)) (bytesLE 16 0) t
    | none => []
  Act.all [
    updCtx x.ctx fun c => { c with binds := c.binds.map fun b => if x.binds.contains b then { b with v := false } else b },
    Act.each (x.pages.flatMap fun p => p.units.map fun u => (u, p.path, p.leafShift)) off,
    Act.each x.pages fun p => stepInvalidate x.ctx (BitVec.ofNat 64 p.va) (BitVec.ofNat 64 p.len)] s

/-- Have the invalidations of an object's pages completed (R361)? -/
def unloadClear (x : Loaded) (s : State) : Bool := (s.ctx x.ctx).invals.all fun v =>
  x.pages.all fun p => v.start.toNat != p.va || v.len.toNat != p.len

/-- The unload that is under way in a context goes on, once it may: step 3, and when the invalidations that it asked for have completed, the
object's indices, frames and addresses are free for reuse. (log 46, DEDUCED) -/
def unloadEnd (l : Loader) (s : State) (ctx : Nat) : State × Loader :=
  match Map.get? l.busy ctx with
  | some (.unload id) => match Map.get? l.objs id with
    | some x =>
      if unloadReady x s then (s.after (unloadAct x), { l with busy := Map.set l.busy ctx (.clear id) }) else (s, l)
    | none => (s, { l with busy := Map.del l.busy ctx })
  | some (.clear id) =>
    if (match Map.get? l.objs id with | some x => unloadClear x s | none => true) then
      (s, { l with objs := Map.del l.objs id, busy := Map.del l.busy ctx })
    else (s, l)
  | _ => (s, l)

end Sys2Proof.Machine
end

