-- ==== Sys2Proof/Tests/Slice0.lean ====
section
/-! SUPPORT. Tests/Slice0.lean: words of the spec that decode to the instructions they stand for, ill-formed terms that the checks refuse, small
steps, and for every statement with hypotheses a state that meets them. -/

namespace Sys2Proof.Tests

open Sys2Proof Sys2Proof.Machine

set_option Elab.async false

/-! ### Words written out in the spec, each from its table of fields -/

/-- 02_instruction_word.md: `!p1: IADD.WRAP.S32 g7, g3, 100 ~bp3`. -/
theorem test_decode_iadd : decode 32 (wordOfParcels 0x00648803 0x0FFF0000 0x00004070) =
    .ok { maj := .iadd, min := 0, typ := .s32, fx := .g 7, fy := .g 3, fz := .lit, lit := 100, grd := 0b10001, hnt := 3 } := by decide +kernel
/-- 02_instruction_word.md: `FFMA.RNE.F32 g10, g11, g12, g13 ~hy`. -/
theorem test_decode_ffma : decode 32 (wordOfParcels 0x000D0200 0x2C0C0000 0x330240A0) =
    .ok { maj := .ffma, min := 0, typ := .f32, fx := .g 10, fy := .g 11, fz := .g 12, lit := 13, grd := 0, hnt := 0x200 } := by decide +kernel
/-- 02_instruction_word.md: `LD.CA.N32 g20, [g4 + g9 + 16] ~w ~el`. -/
theorem test_decode_ld : decode 32 (wordOfParcels 0x00100480 0x10090000 0x80008140) =
    .ok { maj := .ld, min := 0, typ := .n32, fx := .g 20, fy := .g 4, fz := .g 9, lit := 16, grd := 0, hnt := 0x480 } := by decide +kernel
/-- 02_instruction_word.md: `CALL g252, helper`. -/
theorem test_decode_call : decode 32 (wordOfParcels 0x00600000 0xFBFE0000 0x72000FCF) =
    .ok { maj := .call, min := 0, typ := .b32, fx := .g 252, fy := .z, fz := .z, lit := 0x60, grd := 0, hnt := 0 } := by decide +kernel
/-- 02_instruction_word.md: `p2: MZERO m2 ~bp5`. -/
theorem test_decode_mzero : decode 32 (wordOfParcels 0x00001005 0xFBFE0000 0xA200182F) =
    .ok { maj := .mzero, min := 0, typ := .b32, fx := .m 2, fy := .z, fz := .z, lit := 0, grd := 2, hnt := 5 } := by decide +kernel
/-- 02_instruction_word.md: `SLEEP 500`. -/
theorem test_decode_sleep : decode 32 (wordOfParcels 0x01F40000 0xFBFE0000 0x78003FEF) =
    .ok { maj := .sleep, min := 0, typ := .b32, fx := .z, fy := .z, fz := .z, lit := 500, grd := 0, hnt := 0 } := by decide +kernel
/-- 08_float_instructions.md: `CVT.F32RTZ.S32 g5, g2`. -/
theorem test_decode_cvt : decode 32 (wordOfParcels 0x00000000 0x0BFE0000 0x50944050) =
    .ok { maj := .cvt, min := 37, typ := .s32, fx := .g 5, fy := .g 2, fz := .z, lit := 0, grd := 0, hnt := 0 } := by decide +kernel
/-- 09_census_and_control.md: `LRED.ADD.S32 g5, g4, tag=7 ~w`. -/
theorem test_decode_lred : decode 32 (wordOfParcels 0x00000400 0x13FE0070 0x66004050) =
    .ok { maj := .lred, min := 0, typ := .s32, fx := .g 5, fy := .g 4, fz := .z, lit := 0x700000, grd := 0, hnt := 0x400 } := by decide +kernel
/-- 11_matrix_instructions.md: `MLOOP m2, g16, g24, ks=4`. -/
theorem test_decode_mloop : decode 32 (wordOfParcels 0x00040000 0x40180000 0xA3001820) =
    .ok { maj := .mloop, min := 0, typ := .b32, fx := .m 2, fy := .g 16, fz := .g 24, lit := 4, grd := 0, hnt := 0 } := by decide +kernel
/-- 11_matrix_instructions.md: `MOUT.RNE.BF16 m2, g30, g29, row=0, n=32, bnd=3, be=1`. -/
theorem test_decode_mout : decode 32 (wordOfParcels 0x9C000000 0x781D0000 0xA602D820) =
    .ok { maj := .mout, min := 0, typ := .bf16, fx := .m 2, fy := .g 30, fz := .g 29, lit := 0x9C00, grd := 0, hnt := 0 } := by decide +kernel
/-- 12_memory_instructions.md: `ACAS.B32 g8, [g4 + g10 + 64] ~w`. -/
theorem test_decode_acas : decode 32 (wordOfParcels 0x00400400 0x100A0000 0x87000080) =
    .ok { maj := .acas, min := 0, typ := .b32, fx := .g 8, fy := .g 4, fz := .g 10, lit := 64, grd := 0, hnt := 0x400 } := by decide +kernel
/-- 15_ditches_and_merge.md: `!p2: SMERGE.KEEPZ.F32 g8, g1, g1, op=0, osel=1`. -/
theorem test_decode_smerge : decode 32 (wordOfParcels 0x00209000 0x04010000 0xB4024080) =
    .ok { maj := .smerge, min := 0, typ := .f32, fx := .g 8, fy := .g 1, fz := .g 1, lit := 0x20, grd := 0b10010, hnt := 0 } := by decide +kernel
/-- 16_gather_engine.md: `SGATH.RAW s0, z, g3, arr=1, aoff=0`. -/
theorem test_decode_sgath : decode 32 (wordOfParcels 0x00000000 0xF8038000 0xB100190F) =
    .ok { maj := .sgath, min := 0, typ := .b32, fx := .s 0, fy := .z, fz := .g 3, lit := 0x80000000, grd := 0, hnt := 0 } := by decide +kernel
/-- 17_work_queues_and_launch.md: `TSPAWN.TRY p4, g32`. -/
theorem test_decode_tspawn : decode 32 (wordOfParcels 0x00000000 0x83FE0000 0xC8041040) =
    .ok { maj := .tspawn, min := 1, typ := .b32, fx := .p 4, fy := .g 32, fz := .z, lit := 0, grd := 0, hnt := 0 } := by decide +kernel
/-- 18_tables.md: `SLBIND g10, g12, g14`. -/
theorem test_decode_slbind : decode 32 (wordOfParcels 0x00000000 0x300E0000 0x930000A0) =
    .ok { maj := .slbind, min := 0, typ := .b32, fx := .g 10, fy := .g 12, fz := .g 14, lit := 0, grd := 0, hnt := 0 } := by decide +kernel
/-- 19_counters_and_weirs.md: `WWAIT [g6 - 0x100], g20`. -/
theorem test_decode_wwait : decode 32 (wordOfParcels 0xFF000000 0x1BFEFFFF 0x9C000140) =
    .ok { maj := .wwait, min := 0, typ := .b32, fx := .g 20, fy := .g 6, fz := .z, lit := 0xFFFFFF00, grd := 0, hnt := 0 } := by decide +kernel
/-- 19_counters_and_weirs.md: `BAR 3`. -/
theorem test_decode_bar : decode 32 (wordOfParcels 0x00030000 0xFBFE0000 0x96003FEF) =
    .ok { maj := .bar, min := 0, typ := .b32, fx := .z, fy := .z, fz := .z, lit := 3, grd := 0, hnt := 0 } := by decide +kernel
/-- 21_recovery_regions.md: `RBEGIN g30, retry`. -/
theorem test_decode_rbegin : decode 32 (wordOfParcels 0x00540000 0x7BFE0000 0xC0003FE0) =
    .ok { maj := .rbegin, min := 0, typ := .b32, fx := .z, fy := .g 30, fz := .z, lit := 0x54, grd := 0, hnt := 0 } := by decide +kernel

/-! ### Ill-formed words, one for each check of R48 (02_instruction_word.md) -/

/-- The first worked word, well-formed. -/
def good : Op := { maj := .iadd, min := 0, typ := .s32, fx := .g 7, fy := .g 3, fz := .lit, lit := 100, grd := 17, hnt := 3 }

theorem test_wf_good : good.wf 32 = true := by decide +kernel
/-- IADD has no TYP F32 (R129). -/
theorem test_wf_typ : Op.minTypOk { good with typ := .f32 } = false := by decide +kernel
/-- IADD has no MIN 2 (R129). -/
theorem test_wf_min : Op.minTypOk { good with min := 2 } = false := by decide +kernel
/-- LIT of an IADD that names no literal must be 0 (R42). -/
theorem test_wf_fixed : Op.fixedOk { good with fz := .g 4 } = false := by decide +kernel
/-- BAR takes no guard (R35). -/
theorem test_wf_guard : Op.fixedOk { maj := .bar, min := 0, typ := .b32, fx := .z, fy := .z, fz := .z, lit := 3, grd := 1, hnt := 0 } = false := by
  decide +kernel
/-- IADD does not write a k register (R30). -/
theorem test_wf_operand : Op.operandsOk 32 { good with fx := .k 7 } = false := by decide +kernel
/-- An odd register is no 64-bit pair (R31). -/
theorem test_wf_pair : Op.operandsOk 32 { good with typ := .s64 } = false := by decide +kernel
/-- g7 is outside the allocation of a kernel of 8 registers, of which g0 to g3 are its own (R124). -/
theorem test_wf_allocation : Op.operandsOk 1 good = false := by decide +kernel
/-- MAJ 0xFF is no instruction (R46). -/
theorem test_decode_illegal : decode 32 (wordOfParcels 0 0 0xFF000000) = .error causeIllegalInstruction := by decide +kernel
/-- A k destination of IADD is an illegal operand (R48, order 9). -/
theorem test_decode_illegal_operand : decode 32 (wordOfParcels 0x00648803 0x0FFF0000 0x00005070) = .error causeIllegalOperand := by decide +kernel

/-! ### Steps that name a unit that the part does not have (R9, R253, R259, R366, R431) -/

theorem test_wf_steps : Instr.wf (.census 2304) = false ∧ Instr.wf (.l2FillArrival 96 0 none) = false ∧ Instr.wf (.softRepairStart 6 0 0) = false ∧
    Instr.wf (.softRepairEnd 0 384) = false ∧ Instr.wf (.bankDrainDone 0 32) = false ∧ Instr.wf (.weirRetire 0 8) = false ∧
    Instr.wf (.matrixCommandAccept 576) = false ∧ Instr.wf (.tileCommandReached 0 16) = false ∧ Instr.wf (.matrixKStep 0 16) = false ∧
    Instr.wf (.moutRow 0 16) = false ∧ Instr.wf (.ditchControllerOp 144 0) = false ∧ Instr.wf (.engineCommandFire 144 0) = false ∧
    Instr.wf (.engineRow 144 0 0) = false ∧ Instr.wf (.engineCommandComplete 144 0) = false ∧ Instr.wf (.headgateWrite 2048 0 [0]) = false := by
  decide +kernel
theorem test_wf_more_steps : Instr.wf (.launchAccept 6 none) = false ∧ Instr.wf (.gangPlace 0 144 [] [] []) = false ∧
    Instr.wf (.quantumTick 576 []) = false ∧ Instr.wf (.contextOpen 4096) = false ∧ Instr.wf (.contextClose 4096) = false ∧
    Instr.wf (.contextFree 4096) = false ∧ Instr.wf (.ringRecordWrite 4096 .fault) = false ∧ Instr.wf (.contextCiWrite 4096 .fault 0) = false ∧
    Instr.wf (.quantumWrite 576 0) = false ∧ Instr.wf (.cisthwWrite 144 0) = false ∧ Instr.wf (.workQueueConfigWrite 2048 0) = false ∧
    Instr.wf (.routeWrite 256 0) = false ∧ Instr.wf (.flitCrcFailure 18) = false ∧ Instr.wf (.linkTrainingAttempt 18 true) = false ∧
    Instr.wf (.linkUp 18) = false ∧ Instr.wf (.census 2303) = true := by decide +kernel

/-! ### A small state: one launch, one gang, one workgroup of one lane, placed in peloton 0 of core 0 -/

/-- A descriptor of one lane. -/
def desc : Desc := { entry := 0x1000, lanes := 1, gang := 1, regs := 256, scratch := 0, undo := 0, tiles := 0, stack := 0, resx := 0, resn := 0 }
/-- Its workgroup, number 3. -/
def wg : Wg :=
  { ctx := 0, gang := 2, idx := 0, core := 0, kdi := 0, desc := desc, active := true, begun := true, place := [(0, 0)], crewOf := [0],
    parkedAt := 0, activeAt := 0, parking := false, exited := false, freed := false, sregs := [], weirs := [], retiring := [], phases := [],
    answers := [], saddleOwed := [], exitMark := 0 }
/-- Its gang, number 2. -/
def gang : Gang :=
  { launch := 1, ctx := 0, idx := 0, relaunch := 0, cluster := 0, wgs := [3], started := true, startedAt := 0, kill := none, ended := false, phases := [] }
/-- Its launch, number 1. -/
def launch : Launch :=
  { ctx := 0, lnum := 0, kdi := 0, desc := desc, prio := 0, limit := 2, args := [], grid := 1, side := 0, cdone := 0, conds := [], next := 1, again := [],
    finished := 0, reln := 0, abandoned := false, order := 0 }
/-- Its context: open. -/
def ctx : Ctx := { Ctx.start with state := 1 }
/-- Its lane. -/
def lane : Lane := { Lane.start 0x1000 0 0 0 with asked := some (0, 0x1000) }
/-- The lane's name. -/
abbrev k0 : LaneId := ⟨3, 0⟩
/-- The state, with firmware running. -/
def base : State :=
  { State.reset with
    now := 2000000000, fresh := 10, lanes := [(k0, lane)], crews := [(⟨3, 0⟩, Crew.start [] [0])], wgs := [(3, wg)], gangs := [(2, gang)],
    launches := [(1, launch)], ctxs := [(0, ctx)], ready := [⟨3, 0⟩], dev := { Dev.reset with up := true } }
/-- The state with another lane in its place. -/
def withLane (l : Lane) : State := { base with lanes := [(k0, l)] }
/-- The lane's environment for a word. -/
def env (l : Lane) (o : Op) : Env := { s := withLane l, k := k0, l := l, op := o }
/-- A word of a major, its registers g2, g4 and g6. -/
def word (m : Maj) (t : Typ) : Op := { maj := m, min := 0, typ := t, fx := .g 2, fy := .g 4, fz := .g 6, lit := 0, grd := 0, hnt := 0 }
/-- The lane with a word latched. -/
def latched (o : Op) : Lane := { lane with asked := none, latch := some { raw := encode o, op := o } }

theorem get_one {κ α : Type} [DecidableEq κ] {k j : κ} {v x : α} (h : Map.get? [(k, v)] j = some x) : j = k ∧ x = v := by
  simp only [Map.get?] at h
  split at h
  · next e => exact ⟨e.symm, (Option.some.inj h).symm⟩
  · cases h

theorem base_calm (s : State) (c : Nat) (v : Ctx) (h : s.ctxs = [(c, v)]) (hv : v.faults = []) : s.noneStopped := by
  intro n x hx f hf
  rw [h] at hx
  obtain ⟨-, rfl⟩ := get_one hx
  rw [hv] at hf
  exact absurd hf List.not_mem_nil

/-! ### What the statements assume can hold -/

theorem witness_step_agenda : ∃ (s : State) (d : Nat) (i : Instr) (rest : List (Nat × Instr)), s.agenda = (d, i) :: rest :=
  ⟨{ base with agenda := [(5, .census 0)] }, 5, .census 0, [], rfl⟩
theorem witness_step_free : base.agenda = [] := rfl
/-- The small state, with a step to take, has the invariant. -/
theorem base_inv : Inv { base with agenda := [(5, .attestationReportReady)] } := by constructor <;> decide
theorem witness_step_next : ∃ s s' : State, Inv s ∧ step s = .next s' := ⟨_, _, base_inv, rfl⟩
theorem witness_exec_next : ∃ s', exec (.census 0) base = .next s' := ⟨_, rfl⟩
theorem witness_quiet : Quiet base where
  waits k l h w hw := by obtain ⟨rfl, rfl⟩ := get_one h; exact absurd hw List.not_mem_nil
  lanes := by decide
  words e he _ := by rw [List.mem_singleton.1 he]; exact ⟨0, rfl⟩
  sluices := by decide
  bits_ := rfl
  cores_ e he := absurd he List.not_mem_nil
  clusters e he := absurd he List.not_mem_nil
  wgs e he w hw := by
    rw [List.mem_singleton.1 he] at hw ⊢
    obtain ⟨-, rfl⟩ := get_one hw
    decide
  wgsParking := by decide
  gangs e he g hg := by
    rw [List.mem_singleton.1 he] at hg
    obtain ⟨-, rfl⟩ := get_one hg
    exact ⟨rfl, 3, by decide, wg, rfl, rfl⟩
  ctxs := by decide
  conds := by decide
  replies := by decide
theorem witness_illegal : ((0xFF#8 ++ 0#88 : BitVec 96)).extractLsb' 88 8 = 0xFF#8 := by decide
theorem witness_decodes : ∃ o, decode 32 (wordOfParcels 0x00648803 0x0FFF0000 0x00004070) = .ok o := ⟨_, test_decode_iadd⟩
theorem witness_predicate : 0 < 15 ∧ 15 < 16 ∧ 0 < 16 := by decide

/-- A lone lane with a word latched. -/
theorem lone (o : Op) (h : parityHit (latched o) o = none)
    (hp : ∀ s : State, s = withLane (latched o) → s.portPassed 0 = false ∧ s.pickSlot 0 = some 0 ∧ s.wanting (0 / 4) 0 = [(k0, latched o)]) :
    LoneLane (withLane (latched o)) 0 0 k0 (latched o) { raw := encode o, op := o } where
  port_ := by decide
  fresh := by simp [withLane, State.port, Map.getD, base, Port.init, State.reset]
  turn := (hp _ rfl).1
  picked := (hp _ rfl).2.1
  alone := (hp _ rfl).2.2
  here := rfl
  noPark := rfl
  latched := rfl
  noParity := h
  noSpawn e he := by rw [List.mem_singleton.1 he]; exact ⟨rfl, rfl⟩
  notOverdue := rfl
  started := ⟨gang, rfl, rfl⟩
  calm c v hv f hf := by obtain ⟨-, rfl⟩ := get_one hv; exact absurd hf List.not_mem_nil

theorem witness_lone : ∃ s port slot k l x l', LoneLane s port slot k l x ∧ guardOf l x.op = true ∧
    (s.after (issueMaj x.op.maj [{ s := s, k := k, l := l, op := x.op }])).lanes.get? k = some l' ∧ l'.parks.fault = false ∧ l'.parks.trap = false :=
  ⟨_, 0, 0, k0, latched (word .fneg .f32), _, _, lone (word .fneg .f32) (by decide +kernel) (by rintro _ rfl; decide +kernel), by decide +kernel,
    rfl, by decide +kernel, by decide +kernel⟩
theorem witness_guard_false : ∃ s port slot k l x, LoneLane s port slot k l x ∧ guardOf l x.op = false :=
  ⟨_, 0, 0, k0, latched { word .fneg .f32 with grd := 1 }, _, lone { word .fneg .f32 with grd := 1 } (by decide +kernel)
    (by rintro _ rfl; decide +kernel), by decide +kernel⟩
theorem witness_vote : winner [(k0, latched (word .fneg .f32))] [] = some (word .fneg .f32).key := by decide +kernel
theorem witness_overdue : (k0, latched (word .fneg .f32)) ∈ [(k0, latched (word .fneg .f32))] ∧
    ([(k0, latched (word .fneg .f32))].map (·.1)).Nodup := by decide +kernel

theorem witness_fneg : ∃ (s : State) (e : Env) (b : Bool), e.s = s ∧ s.lanes.get? e.k = some e.l ∧ e.op.maj = (if b then .fneg else .fabs) ∧ b = true :=
  ⟨_, env lane (word .fneg .f32), true, rfl, rfl, rfl, rfl⟩
theorem witness_fabs : ∃ (s : State) (e : Env) (b : Bool), e.s = s ∧ s.lanes.get? e.k = some e.l ∧ e.op.maj = (if b then .fneg else .fabs) ∧ b = false :=
  ⟨_, env lane (word .fabs .f32), false, rfl, rfl, rfl, rfl⟩
theorem witness_isel : ∃ (s : State) (e : Env), e.s = s ∧ s.lanes.get? e.k = some e.l ∧ e.op.maj = .isel ∧ (e.op.typ = .b32 ∨ e.op.typ = .n64) :=
  ⟨_, env lane (word .isel .n64), rfl, rfl, rfl, .inr rfl⟩
theorem witness_fsel : ∃ (s : State) (e : Env), e.s = s ∧ s.lanes.get? e.k = some e.l ∧ e.op.maj = .fsel := ⟨_, env lane (word .fsel .f32), rfl, rfl, rfl⟩
theorem witness_lea : ∃ (s : State) (e : Env), e.s = s ∧ s.lanes.get? e.k = some e.l ∧ e.op.maj = .lea ∧ (e.op.typ = .s32 ∨ e.op.typ = .n32) :=
  ⟨_, env lane (word .lea .s32), rfl, rfl, rfl, .inl rfl⟩
theorem witness_isub : ∃ (s : State) (e : Env) (cr : Crew) (sub : Bool), e.s = s ∧ s.lanes.get? e.k = some e.l ∧ e.l.exited = false ∧
    s.crews.get? (s.crewOf e.k) = some cr ∧ e.k.idx ∈ cr.lanes ∧ e.op.maj = (if sub then .isub else .iadd) ∧ (e.op.typ = .s32 ∨ e.op.typ = .n32) ∧
    e.op.min.toNat ≤ 1 :=
  ⟨_, env lane { word .isub .s32 with min := 1 }, Crew.start [] [0], true, rfl, rfl, rfl, rfl, by decide, rfl, .inl rfl, by decide⟩
theorem witness_shift : ∃ (s : State) (e : Env), e.s = s ∧ s.lanes.get? e.k = some e.l ∧ (e.op.maj = .shl ∨ e.op.maj = .shr ∨ e.op.maj = .sar) ∧
    minTypOk e.op.maj e.op.min.toNat e.op.typ = true ∧ e.op.typ.is64 = false :=
  ⟨_, env lane (word .sar .s32), rfl, rfl, .inr (.inr rfl), by decide, by decide⟩
theorem witness_div : ∃ (s : State) (e : Env) (rem : Bool), e.s = s ∧ s.lanes.get? e.k = some e.l ∧ e.op.maj = (if rem then .irem else .idiv) ∧
    e.op.typ.isW = true ∧ e.val e.op.typ e.op.fz = 0 :=
  ⟨_, env lane (word .idiv .s32), false, rfl, rfl, rfl, by decide, by decide⟩
theorem witness_ea : ∃ (e : Env) (base index : DWord), (∃ n, e.op.fy = .g n ∧ base = e.l.reg (n.val + 1) ++ e.l.reg n.val) ∧
    ∃ n, e.op.fz = .g n ∧ index = (e.l.reg n.val).signExtend 64 :=
  ⟨env lane (word .ld .b32), _, _, ⟨4, rfl, rfl⟩, 6, rfl, rfl⟩
theorem witness_ea_z : ∃ (e : Env) (base index : DWord), e.op.fy = .z ∧ base = 0 ∧ e.op.fz = .z ∧ index = 0 :=
  ⟨env lane { word .ld .b32 with fy := .z, fz := .z }, 0, 0, rfl, rfl, rfl, rfl⟩
theorem witness_high_address : 0 < 4 ∧ (0x0100000000000000#64).toNat % 4 = 0 ∧ (0x0100000000000000#64).extractLsb' 56 8 ≠ 0#8 := by decide

/-- The context with one open fault record of the lane. -/
def record : FaultRec := { num := 9, fid := some 0, kind := 4, gang := 2, wg := 3, held := [(k0, 0, 0x55, 3)], pc := 0x1000, cmd := none, head := 0, detail := [] }
/-- A ring of 64 entries that has room. -/
def ringed (v : Ctx) : Ctx := { v with fqs := 6, eqs := 6, cqs := 6, fqb := 0x10000, eqb := 0x20000, cqb := 0x30000 }
/-- The state with another context 0. -/
def withCtx (v : Ctx) : State := { base with ctxs := [(0, v)] }
/-- An empty part with context 0. -/
def vacant (v : Ctx) : State := { State.reset with now := 2000000000, ctxs := [(0, v)], dev := { Dev.reset with up := true } }

theorem vacant_vacant (v : Ctx) : Vacant (vacant v) 0 where
  wgs _ h := absurd h List.not_mem_nil
  gangs _ h := absurd h List.not_mem_nil
  launches _ h := absurd h List.not_mem_nil
  clusters _ h := absurd h List.not_mem_nil
  seqs _ h := absurd h List.not_mem_nil

theorem witness_settings : base.dev.up = true ∧ 575 < 576 ∧ 143 < 144 ∧ 255 < 256 ∧ State.reset.dev.up = false := by decide
theorem witness_queue_new : base.dev.up = true ∧ 2047 < 2048 ∧ (base.wq 2047).en = false ∧ (base.wq 2047).recs = [] := by decide
theorem witness_queue_off : ({ base with queues := [(0, { base.wq 0 with cfg := 0x80000000 })] } : State).dev.up = true ∧ 0 < 2048 ∧
    (({ base with queues := [(0, { base.wq 0 with cfg := 0x80000000 })] } : State).wq 0).en = true ∧ (0#128).getLsbD 31 = false := by decide
theorem witness_control_hole : regAt 0x1001 [0#8, 0#8].length = none ∧ regAt 0x1000 [0#8].length = none := by decide +kernel
theorem witness_report : ({ base with dev := { base.dev with attStatus := 0 } } : State).dev.up = true ∧
    ({ base with dev := { base.dev with attStatus := 0 } } : State).dev.attStatus = 0 := by decide
theorem witness_context_free : base.dev.up = true ∧ 4095 < 4096 ∧ (base.ctx 4095).state = 0 := by decide
theorem witness_context_close : ∃ (s : State) (c : Nat) (v : Ctx), s.ctxs.get? c = some v ∧ Vacant s c ∧ v.state = 1 ∧ v.faults = [] ∧ s.dev.up = true :=
  ⟨vacant ctx, 0, ctx, rfl, vacant_vacant _, rfl, rfl, rfl⟩
theorem witness_context_freed : ∃ (s : State) (c : Nat) (v : Ctx), s.ctxs.get? c = some v ∧ Vacant s c ∧ v.state = 2 :=
  ⟨vacant { ctx with state := 2 }, 0, _, rfl, vacant_vacant _, rfl⟩
theorem witness_preempt_start : base.ctxs.get? 0 = some ctx ∧ ctx.state = 1 ∧ base.dev.up = true ∧ ctx.preempt = 0 := by decide
theorem witness_preempt_resume : (withCtx { ctx with preempt := 1 }).ctxs.get? 0 = some { ctx with preempt := 1 } ∧ (1#2) ≠ 0 ∧
    (withCtx { ctx with preempt := 1 }).dev.up = true := by decide
theorem witness_preempt_t1 : ∃ (s : State) (c : Nat) (v : Ctx) (t0 t1 t2 : Nat), s.ctxs.get? c = some v ∧ v.state = 1 ∧ v.pre = some (t0, t1, t2) ∧
    v.preempt = 1 ∧ t0 + 1200 * t1 ≤ s.now ∧ (∀ w ∈ s.wgs, ∀ x, s.wgs.get? w.1 = some x → x.ctx = c → x.active = false ∧ x.parking = false) ∧
    (Map.keys s.wgs).Nodup :=
  ⟨{ withCtx { ctx with preempt := 1, pre := some (0, 10, 20) } with wgs := [(3, { wg with active := false })] }, 0, _, 0, 10, 20, rfl, rfl, rfl, rfl,
    by decide, fun w hw x hx _ => by obtain ⟨-, rfl⟩ := get_one hx; exact ⟨rfl, rfl⟩, by decide⟩
theorem witness_preempt_t2 : ∃ (s : State) (c : Nat) (v : Ctx) (t0 t1 t2 : Nat), s.ctxs.get? c = some v ∧ v.state = 1 ∧ v.pre = some (t0, t1, t2) ∧
    v.preempt = 2 ∧ t0 + 1200 * t2 ≤ s.now ∧ Vacant s c ∧ v.faults = [] :=
  ⟨vacant { ctx with preempt := 2, pre := some (0, 10, 20) }, 0, _, 0, 10, 20, rfl, rfl, rfl, rfl, by decide, vacant_vacant _, rfl⟩

theorem witness_records : (withCtx (ringed ctx)).ctxs.get? 0 = some (ringed ctx) ∧ (ringed ctx).room .error = true ∧
    ({ ecode := 0x30, ctx := 0, cnt := 0 } : ErrRec).ctx = 0 ∧
    Ctx.room { ringed ctx with eqpi := 64 } .error = false := by decide
theorem witness_record_waits : ∃ (s : State) (c : Nat) (v : Ctx) (x : BitVec 512) (rest : List (BitVec 512)), s.ctxs.get? c = some v ∧ v.cwait = x :: rest ∧
    v.room .completion = true := ⟨withCtx { ringed ctx with cwait := [7] }, 0, _, 7, [], rfl, rfl, by decide⟩
theorem witness_fault_waits : ∃ (s : State) (c : Nat) (v : Ctx) (f : FaultRec), s.ctxs.get? c = some v ∧ v.faults.find? (fun f => f.fid.isNone) = some f ∧
    v.room .fault = true ∧ Memory.wf s.mem ∧ s.dev.moved = [] :=
  ⟨withCtx { ringed ctx with faults := [{ record with fid := none }] }, 0, _, { record with fid := none }, rfl, rfl, by decide, by decide, rfl⟩

/-- The context with the record open. -/
def faulted : Ctx := { ringed ctx with faults := [record] }
theorem witness_answer : ∃ (s : State) (c : Nat) (v : Ctx) (f : FaultRec) (fid : Word) (w : Wg), s.dev.up = true ∧ s.ctxs.get? c = some v ∧
    v.faults.find? (fun f => f.fid == some fid) = some f ∧ f.cmd = none ∧ s.wgs.get? f.wg = some w ∧ w.active = true ∧ f.kind ≠ 8 :=
  ⟨withCtx faulted, 0, faulted, record, 0, wg, rfl, rfl, rfl, rfl, rfl, rfl, by decide⟩
theorem witness_answer_kill : ∃ (s : State) (f : FaultRec) (amask : DWord) (g : Gang), f.answered amask ≠ [] ∧ s.gangs.get? f.gang = some g ∧ g.ended = false ∧
    g.kill = none := ⟨withCtx faulted, record, 1, gang, by decide, rfl, rfl, rfl⟩
theorem witness_answer_misaligned : record.answered 1 = [(k0, 3)] ∧ (0x1001#64).toNat % 4 ≠ 0 := by decide
/-- A trap table at 0x40000 whose handler of class 3 is at 0x50000, as bytes of memory. -/
def traps : State := { withCtx { faulted with traptab := 0x40000 } with mem := [(0x4001A, 5)] }
theorem witness_answer_trap : ∃ (s : State) (c : Nat) (f : FaultRec) (amask : DWord) (k : LaneId) (cause : Nat) (l : Lane) (cr : Crew), f.kind < 7 ∧
    f.answered amask = [(k, cause)] ∧ s.lanes.get? k = some l ∧ s.crews.get? (s.crewOf k) = some cr ∧ s.ctxOf k = c ∧ s.trapOpen (s.crewOf k) = false ∧
    s.handler c 3 ≠ 0 ∧ s.handler c 3 % 4 = 0 :=
  ⟨traps, 0, record, 1, k0, 3, lane, Crew.start [] [0], by decide, by decide, rfl, rfl, rfl, by decide, by decide +kernel, by decide +kernel⟩

theorem witness_invalidation : (0x10000#64).toNat % 65536 = 0 ∧ (0x20000#64).toNat % 65536 = 0 ∧ (0#64).toNat % 65536 = 0 ∧ base.dev.up = true := by decide
theorem witness_invalidates (a : Option (List Nat)) : ∃ (s : State) (c : Nat) (v : Ctx) (i : Inval) (rest : List Inval), s.ctxs.get? c = some v ∧
    v.invals = i :: rest ∧ i.after = a := ⟨withCtx { ctx with invals := [{ start := 0, len := 0x10000, after := a }] }, 0, _, _, [], rfl, rfl, rfl⟩
theorem witness_headgate : base.dev.up = true ∧ 2047 < 2048 ∧ 4095 < 4096 := by decide

theorem witness_link_fails : ∃ (s : State) (n : Nat), s.dev.up = true ∧ n < 18 ∧ (s.link n).up = true :=
  ⟨{ base with links := [(17, { Link.init with up := true })] }, 17, rfl, by decide, rfl⟩
theorem witness_link_trains : base.dev.up = true ∧ 17 < 18 ∧ (base.link 17).up = false ∧ (base.link 17).cleanSince = none ∧
    (base.link 17).triedAt + 1200000 ≤ base.now := by decide
theorem witness_link_up : ∃ (s : State) (n t : Nat), s.dev.up = true ∧ n < 18 ∧ (s.link n).up = false ∧ (s.link n).cleanSince = some t ∧ t + 120000 ≤ s.now :=
  ⟨{ base with links := [(0, { Link.init with cleanSince := some 5 })] }, 0, 5, rfl, by decide, rfl, rfl, by decide⟩
/-- A request of the lane. -/
def access (op : AccOp) : Access := { lane := k0, slot := 0, pc := 0x1000, seq := 0, va := 0x40000, key := 0x40000, size := 4, ch := 0, op := op }
/-- A request of the lane. -/
def req (home : Home) (st : ReqSt) (op : AccOp) : Req :=
  { id := 8, ctx := 0, cluster := 0, line := 0x800, home := home, st := st, acc := [access op], reply := true, cache := false, also := [],
    after := [], acceptedAt := 0, order := 0 }
theorem witness_remote : ∃ (s : State) (r : Req) (d : Nat), s.reqs.find? (fun q => q.id == r.id) = some r ∧ r.home = .remote d ∧ r.st = .held ∧
    s.reach (.remote d) = false ∧ r.acceptedAt + 12000000 ≤ s.now :=
  ⟨{ base with reqs := [req (.remote 7) .held .prefetch] }, req (.remote 7) .held .prefetch, 7, by decide, rfl, rfl, by decide, by decide⟩
theorem witness_power : base.dev.up = true ∧ ∀ t, base.dev.powerAt = some t → t + 12000 ≤ base.now := ⟨rfl, fun t h => by cases h⟩
theorem witness_power_early : ∃ (s : State) (t : Nat), s.dev.powerAt = some t ∧ s.now < t + 12000 :=
  ⟨{ base with dev := { base.dev with powerAt := some base.now } }, base.now, rfl, by decide⟩

theorem witness_fault_record : ∃ (s : State) (k : LaneId) (l : Lane) (c : Nat) (v : Ctx), s.lanes.get? k = some l ∧ s.ctxOf k = c ∧ s.ctxs.get? c = some v ∧
    (∀ f ∈ v.faults, f.num < s.fresh) ∧ v.room .fault = true ∧ ∀ g ∈ v.faults, g.fid ≠ none :=
  ⟨withCtx faulted, k0, lane, 0, faulted, rfl, rfl, rfl, by decide, by decide, by decide⟩
theorem witness_fault_record_waits : ∃ (s : State) (k : LaneId) (l : Lane) (c : Nat) (v : Ctx), s.lanes.get? k = some l ∧ s.ctxOf k = c ∧
    s.ctxs.get? c = some v ∧ (∀ f ∈ v.faults, f.num < s.fresh) ∧ v.room .fault = false :=
  ⟨withCtx { faulted with fqpi := 64 }, k0, lane, 0, { faulted with fqpi := 64 }, rfl, rfl, rfl, by decide, by decide⟩

/-- A trap raised by the lane. -/
def raise (cls : Nat) : Raise := { lane := k0, cls := cls, info := 0, cause := 0, resume := 0x100C }
theorem witness_trap : ∃ (s : State) (r : Raise) (l : Lane) (cr : Crew), s.lanes.get? r.lane = some l ∧ s.crews.get? (s.crewOf r.lane) = some cr ∧
    s.trapOpen (s.crewOf r.lane) = false ∧ s.handler (s.ctxOf r.lane) r.cls ≠ 0 ∧ s.handler (s.ctxOf r.lane) r.cls % 4 = 0 :=
  ⟨traps, raise 3, lane, Crew.start [] [0], rfl, rfl, by decide, by decide +kernel, by decide +kernel⟩
theorem witness_trap_unhandled : base.lanes.get? k0 = some lane ∧ base.crews.get? (base.crewOf k0) = some (Crew.start [] [0]) ∧
    base.trapOpen (base.crewOf k0) = false ∧ base.handler (base.ctxOf k0) 1 = 0 := by decide +kernel
theorem witness_trap_misaligned : ∃ (s : State) (r : Raise) (l : Lane) (cr : Crew), s.lanes.get? r.lane = some l ∧ s.crews.get? (s.crewOf r.lane) = some cr ∧
    s.trapOpen (s.crewOf r.lane) = false ∧ s.handler (s.ctxOf r.lane) r.cls % 4 ≠ 0 :=
  ⟨{ traps with mem := [(0x40018, 2)] }, raise 3, lane, Crew.start [] [0], rfl, rfl, by decide, by decide +kernel⟩
/-- A second lane of the crew, as a trap lane. -/
def trapped : State := { traps with
  lanes := [(k0, lane), (⟨3, 1⟩, { lane with trapLane := true })], crews := [(⟨3, 0⟩, Crew.start [] [0, 1])] }
theorem witness_trap_pending : ∃ (s : State) (r : Raise) (l : Lane) (cr : Crew), s.lanes.get? r.lane = some l ∧ s.crews.get? (s.crewOf r.lane) = some cr ∧
    s.trapOpen (s.crewOf r.lane) = true ∧ l.trapLane = false :=
  ⟨trapped, raise 1, lane, Crew.start [] [0, 1], rfl, rfl, by decide, rfl⟩
theorem witness_trap_again : trapped.lanes.get? ⟨3, 1⟩ = some { lane with trapLane := true } ∧ trapped.trapOpen (trapped.crewOf ⟨3, 1⟩) = true ∧
    trapped.crews.get? (trapped.crewOf ⟨3, 1⟩) = some (Crew.start [] [0, 1]) := by decide
/-- The lane as a trap lane or not, its crew's TPC at `pc`. -/
def returning (b : Bool) (pc : DWord) : State :=
  { base with lanes := [(k0, { lane with trapLane := b })], crews := [(⟨3, 0⟩, { Crew.start [] [0] with tpc := pc })] }
theorem witness_tret : ∃ (s : State) (e : Env) (l : Lane) (cr : Crew), e.s = s ∧ s.lanes.get? e.k = some l ∧ s.crews.get? (s.crewOf e.k) = some cr ∧
    e.op.w = false ∧ l.trapLane = true ∧ cr.tpc.toNat % 4 = 0 :=
  ⟨_, Env.mk (returning true 0x1000) k0 lane (word .tret .b32), _, _, rfl, rfl, rfl, by decide, rfl, by decide⟩
theorem witness_tret_misaligned : ∃ (s : State) (e : Env) (l : Lane) (cr : Crew), e.s = s ∧ s.lanes.get? e.k = some l ∧
    s.crews.get? (s.crewOf e.k) = some cr ∧ e.op.w = false ∧ l.trapLane = true ∧ cr.tpc.toNat % 4 ≠ 0 :=
  ⟨_, Env.mk (returning true 0x1001) k0 lane (word .tret .b32), _, _, rfl, rfl, rfl, by decide, rfl, by decide⟩
theorem witness_tret_outside : ∃ (s : State) (e : Env) (l : Lane) (cr : Crew), e.s = s ∧ s.lanes.get? e.k = some l ∧ s.crews.get? (s.crewOf e.k) = some cr ∧
    e.op.w = false ∧ l.trapLane = false :=
  ⟨_, Env.mk (returning false 0x1000) k0 lane (word .tret .b32), _, _, rfl, rfl, rfl, by decide, rfl⟩

/-- A state in which the lane's page is mapped: four levels of tables, and the first worked word at the lane's PC, 0x1000. -/
def mapped : State := { withCtx { ctx with ptroot := 0x100000 } with mem := [
  (0x100000, 1), (0x100006, 4), (0x100007, 1), (0x104000, 1), (0x104006, 8), (0x104007, 1), (0x108000, 1), (0x108006, 12), (0x108007, 1),
  (0x10C000, 0x73), (0x10C007, 2), (0x201000, 0x03), (0x201001, 0x88), (0x201002, 0x64), (0x201006, 0xFF), (0x201007, 0x0F), (0x201008, 0x70),
  (0x201009, 0x40)] }
theorem mapped_located : ∀ i < 3, (mapped.locate 0 2 (0x1000 + BitVec.ofNat 64 (4 * i))).map (·.key) = some (0x201000 + 4 * i) := by decide +kernel
theorem witness_fetch : ∃ (s : State) (k : LaneId) (key : Nat → Nat) (op : Op), s.fetches k = true ∧
    (∀ e ∈ s.ctxs, ∀ f ∈ e.2.faults, f.num < s.fresh) ∧ s.pcBad (s.ctxOf k) (s.gangOf k) (s.pcOf k) = none ∧
    ((s.port (s.portOf k)).front.1 = s.now → (s.port (s.portOf k)).front.2 < 4) ∧
    (∀ i < 3, (s.locate (s.ctxOf k) (s.gangOf k) (s.pcOf k + BitVec.ofNat 64 (4 * i))).map (·.key) = some (key i)) ∧
    ∀ j, (s.fetches j && s.pcOf j == s.pcOf k && s.ctxOf j == s.ctxOf k && s.portOf j == s.portOf k) = true →
      ∃ w, s.wgs.get? j.wg = some w ∧ decode (w.desc.regs / 8) (wordOfParcels (BitVec.ofNat 32 (s.num (key 0) 4)) (BitVec.ofNat 32 (s.num (key 1) 4))
        (BitVec.ofNat 32 (s.num (key 2) 4))) = .ok op := by
  refine ⟨mapped, k0, fun i => 0x201000 + 4 * i, good, by decide +kernel, by decide, by decide +kernel, by decide +kernel, mapped_located, fun j h => ?_⟩
  have hj : j = k0 := by
    cases hl : mapped.lanes.get? j with
    | none => simp [State.fetches, State.laneIs, hl] at h
    | some l => exact (get_one hl).1
  subst hj
  exact ⟨wg, rfl, by decide +kernel⟩

theorem witness_fetch_fault : ∃ (s : State) (k : LaneId) (kind cause : Nat), s.fetches k = true ∧ s.noneStopped ∧
    s.pcBad (s.ctxOf k) (s.gangOf k) (s.pcOf k) = some (kind, cause) ∧ (Map.keys s.lanes).Nodup ∧
    ((s.port (s.portOf k)).front.1 = s.now → (s.port (s.portOf k)).front.2 < 4) ∧
    ∀ j, s.fetches j = true → s.pcOf j = s.pcOf k → s.ctxOf j = s.ctxOf k → s.portOf j = s.portOf k → j = k := by
  refine ⟨base, k0, 0, 3, by decide +kernel, base_calm _ 0 ctx rfl rfl, by decide +kernel, by decide, by decide +kernel, fun j h _ _ _ => ?_⟩
  cases hl : base.lanes.get? j with
  | none => simp [State.fetches, State.laneIs, hl] at h
  | some l => exact (get_one hl).1

/-- A result of the lane that is known. -/
def known : Result := { id := 5, vals := some [(7, 1)], flags := 1, err := none, readyAt := 0, req := none }
theorem witness_result : ∃ (s : State) (k : LaneId) (l : Lane) (cr : Crew) (x : Result) (vs : List (Nat × Word)), s.lanes.get? k = some l ∧ l.exited = false ∧
    s.crews.get? (s.crewOf k) = some cr ∧ k.idx ∈ cr.lanes ∧ l.results.find? (fun y => y.id == x.id) = some x ∧ x.vals = some vs ∧ x.late = [] ∧
    x.readyAt ≤ s.now :=
  ⟨withLane { lane with results := [known] }, k0, { lane with results := [known] }, Crew.start [] [0], known, [(7, 1)], rfl, rfl, rfl, by decide, by decide,
    rfl, rfl, by decide⟩
/-- The lane in a park. -/
def parked (p : Parks) : Lane := { lane with parks := p }
theorem witness_sleep : ∃ (s : State) (k : LaneId) (l : Lane) (t : Nat), s.lanes.get? k = some l ∧ l.parks.sleep = some t ∧ l.parks.yield = none :=
  ⟨withLane (parked { Parks.none with sleep := some 7 }), k0, _, 7, rfl, rfl, rfl⟩
theorem witness_yield : ∃ (s : State) (k : LaneId) (l : Lane) (t : Nat), s.lanes.get? k = some l ∧ l.parks.sleep = none ∧ l.parks.yield = some t ∧ t < s.now ∧
    (s.peloton (s.coreOf k) (s.pslot k)).busyUntil ≤ s.now ∧ ∀ w ∈ s.wanting (s.coreOf k) (s.pslot k), w.1 = k :=
  ⟨withLane (parked { Parks.none with yield := some 7 }), k0, _, 7, rfl, rfl, rfl, by decide, by decide, by decide +kernel⟩
theorem witness_fence : ∃ (s : State) (k : LaneId) (l : Lane) (scope : Nat) (after : List Nat) (issued : Nat), s.lanes.get? k = some l ∧
    l.parks.wait = [.fence scope after issued] ∧ s.allPerformed after = true ∧ 4 ≤ scope :=
  ⟨withLane (parked { Parks.none with wait := [.fence 4 [] 0] }), k0, _, 4, [], 0, rfl, rfl, by decide, by decide⟩

/-- A crew of two lanes at collectives. -/
def meeting (a b : Op) : State :=
  let at_ (o : Op) (res : Nat) : Lane := parked { Parks.none with coll := some { op := o, a := 1, b := 0, after := [], res := some res } }
  { base with
    lanes := [(k0, at_ a 5), (⟨3, 1⟩, at_ b 6)], crews := [(⟨3, 0⟩, Crew.start [] [0, 1])],
    wgs := [(3, { wg with desc := { desc with lanes := 2 } })] }
theorem witness_collective : ∃ (s : State) (c : CrewId) (cr : Crew), s.crews.get? c = some cr ∧ cr.lanes.Nodup ∧ s.meets c = true ∧
    (∀ p ∈ s.parts c, s.allPerformed p.c.after = true) ∧ s.parts c ≠ [] :=
  ⟨meeting (word .lvote .b32) (word .lvote .b32), ⟨3, 0⟩, Crew.start [] [0, 1], rfl, by decide, by decide +kernel, by decide +kernel, by decide +kernel⟩
theorem witness_mismatch : ∃ (s : State) (c : CrewId) (cr : Crew), s.crews.get? c = some cr ∧ cr.lanes.Nodup ∧ s.parts c ≠ [] ∧ s.meets c = false ∧ s.noneStopped :=
  ⟨meeting (word .lvote .b32) (word .lball .b32), ⟨3, 0⟩, Crew.start [] [0, 1], rfl, by decide, by decide +kernel, by decide +kernel, base_calm _ 0 ctx rfl rfl⟩
/-- A participant. -/
def part (o : Op) : Part := { lane := k0, rank := 0, c := { op := o, a := 0xFFFFFFFF, b := 0, after := [], res := none } }
theorem witness_values : (part (word .lvote .b32)).c.op.maj = .lvote ∧ (part (word .lvote .b32)).c.op.min = 0 ∧
    (part { word .lvote .b32 with min := 1 }).c.op.min = 1 ∧ (part (word .lrdv .b32)).c.op.maj = .lrdv ∧ (part (word .lred .n32)).c.op.maj = .lred ∧
    (part (word .lred .n32)).c.op.typ = .n32 ∧ ∀ p ∈ [part (word .lred .n32)], p.c.a.toNat < 2 ^ 32 := by decide
theorem witness_ballot : (part (word .lball .b32)).c.op.maj = .lball ∧ (part { word .lvote .b32 with min := 2 }).c.op.min = 2 ∧
    ([part (word .lball .b32)].map (·.rank)).Nodup ∧ ∀ p ∈ [part (word .lball .b32)], p.rank < 64 := by decide

theorem witness_memory : Memory.wf base.mem ∧ base.dev.moved = [] := by decide
theorem witness_store : ∃ (s : State) (a : Access) (l : Lane) (bs : List Byte), s.controlOff a.key = none ∧ s.poisoned a.key = false ∧ s.lanes.get? a.lane = some l ∧
    a.lane ≠ outsider ∧ a.op = .store bs := ⟨base, access (.store [1, 2, 3, 4]), lane, _, by decide, by decide, rfl, by decide, rfl⟩
theorem witness_join (up : Bool) : ∃ (s : State) (a : Access) (l : Lane), s.controlOff a.key = none ∧ s.poisoned a.key = false ∧
    s.lanes.get? a.lane = some l ∧ a.lane ≠ outsider ∧ a.op = if up then .joinInc else .joinDec :=
  ⟨base, access (if up then .joinInc else .joinDec), lane, by cases up <;> decide, by cases up <;> decide, rfl, by cases up <;> decide, rfl⟩
theorem witness_rmw : ∃ (s : State) (a : Access) (l : Lane) (op : Rmw) (t : Typ) (x y : DWord) (res reg : Nat), s.controlOff a.key = none ∧
    s.poisoned a.key = false ∧ s.lanes.get? a.lane = some l ∧ a.lane ≠ outsider ∧ op ≠ .fadd ∧ a.op = .rmw op t x y (some (res, reg)) ∧
    s.launches = [] ∧ ∀ e ∈ s.lanes, e.2.parks.queue = none :=
  ⟨{ base with launches := [] }, access (.rmw .add .n32 1 0 (some (5, 7))), lane, .add, .n32, 1, 0, 5, 7, by decide, by decide, rfl, by decide, by decide,
    rfl, rfl, by decide⟩
theorem witness_load : ∃ (s : State) (a : Access) (l : Lane) (t : Typ) (reg res : Nat), s.controlOff a.key = none ∧ s.poisoned a.key = false ∧
    s.lanes.get? a.lane = some l ∧ a.lane ≠ outsider ∧ a.op = .load (.raw t reg) [] res ∧ a.fill = false ∧
    ∀ i < a.size, s.poisoned (a.key + i) = false ∧ s.keyReach (a.key + i) = true :=
  ⟨base, access (.load (.raw .n32 7) [] 5), lane, .n32, 7, 5, by decide, by decide, rfl, by decide, rfl, rfl, by decide⟩
theorem witness_atomic : 0xFFFFFFFF < 2 ^ (if Typ.s32.is64 then 64 else 32) ∧ 0 < 2 ^ (if Typ.n64.is64 then 64 else 32) := by decide

/-- The state with one request. -/
def requested (r : Req) : State := { base with reqs := [r] }
theorem witness_bank : ∃ (s : State) (r : Req) (b : Nat), s.reqs.find? (fun q => q.id == r.id) = some r ∧ r.st = .flying ∧ s.allPerformed r.after = true ∧
    s.behind r = false ∧ r.home = .bank b :=
  ⟨requested (req (.bank 0) .flying .prefetch), req (.bank 0) .flying .prefetch, 0, by decide, rfl, by decide, by decide, rfl⟩
theorem witness_slice_full : ∃ (s : State) (r : Req) (n : Nat), s.reqs.find? (fun q => q.id == r.id) = some r ∧ r.home = .slice n ∧
    s.controlOff (r.line * 128) = none ∧ 32 ≤ (s.slice n).queue.length :=
  ⟨{ requested (req (.slice 0) .flying .prefetch) with slices := [(0, { Slice.init with queue := List.range 32 })] }, req (.slice 0) .flying .prefetch, 0,
    by decide, rfl, by decide, by decide⟩
theorem witness_slice_miss : ∃ (s : State) (r : Req) (n : Nat), s.reqs = [r] ∧ r.st = .flying ∧ s.allPerformed r.after = true ∧ s.behind r = false ∧
    r.home = .slice n ∧ s.controlOff (r.line * 128) = none ∧ (s.slice n).queue = [] ∧ (s.slice n).waiting = [] ∧ (s.slice n).miss = [] ∧
    (s.slice n).held = [] ∧ (s.slice n).lines.get? r.line = none ∧ s.pieceMoves r.line = false ∧ s.repairing r.line = false ∧ s.dev.hostCopies = [] ∧
    (∀ x ∈ s.slices, x.2.dram = []) ∧ s.slreqs = [] ∧ s.slrels = [] :=
  ⟨requested (req (.slice 0) .flying .prefetch), req (.slice 0) .flying .prefetch, 0, rfl, rfl, by decide, by decide, rfl, by decide, rfl, rfl, rfl, rfl, rfl,
    by decide, by decide, rfl, fun x hx => absurd hx List.not_mem_nil, rfl, rfl⟩
/-- A slice with a line at its controller: a fill, or a write-back. -/
def atDram (fill : Bool) : Slice :=
  { Slice.init with queue := [8], miss := [{ line := 0x800, reqs := [8] }], dram := [{ line := 0x800, fill := fill, slot := true }] }
theorem witness_fill : ∃ (s : State) (n line : Nat) (d : Dram) (m : Miss), (s.slice n).dram.find? (fun d => d.line == line) = some d ∧ d.slot = true ∧
    d.fill = true ∧ (s.slice n).miss.find? (fun m => m.line == line) = some m ∧ s.repairing line = false :=
  ⟨{ requested (req (.slice 0) .attached .prefetch) with slices := [(0, atDram true)] }, 0, 0x800, _, _, rfl, rfl, rfl, rfl, by decide⟩
theorem witness_line_written : ∃ (s : State) (n line : Nat) (d : Dram), (s.slice n).dram.find? (fun d => d.line == line) = some d ∧ d.slot = true ∧
    d.fill = false ∧ s.repairing line = false :=
  ⟨{ requested (req (.slice 0) .attached .prefetch) with slices := [(0, atDram false)] }, 0, 0x800, _, rfl, rfl, rfl, by decide⟩
theorem witness_place_line : ∃ (s : State) (n line : Nat), (s.slice n).victim line = none :=
  ⟨base, 0, 9, by simp [Slice.victim, State.slice, base, State.reset, Map.getD, Slice.init]⟩
theorem witness_recall : 9 ∈ ({ base with dev := { base.dev with hostCopies := [9] } } : State).dev.hostCopies := by decide
theorem witness_host : base.dev.up = true ∧ base.hdm 0x4007F 1 = some 0x4007F ∧ 2047 < 2048 ∧ 4 + 4 ≤ 4096 ∧ 2 ^ 52 - 1 + [(0 : Byte)].length ≤ 2 ^ 52 := by
  decide
theorem witness_host_hit : ∃ (s : State) (la n key : Nat), s.hdm la n = some key ∧ s.reqs = [] ∧ s.slreqs = [] ∧ s.slrels = [] ∧ (s.slice (s.sliceFor (lineOf key))).queue.length < 32 ∧
    (s.slice (s.sliceFor (lineOf key))).waiting = [] ∧ (∀ m ∈ (s.slice (s.sliceFor (lineOf key))).miss, m.line ≠ lineOf key) ∧
    (s.slice (s.sliceFor (lineOf key))).lines.get? (lineOf key) ≠ none ∧ s.pieceMoves (lineOf key) = false ∧ s.launches = [] ∧
    ∀ e ∈ s.lanes, e.2.parks.queue = none :=
  ⟨{ base with launches := [], slices := [(0, { Slice.init with lines := [(0x800, .n)] })] }, 0x40000, 128, 0x40000, by decide, rfl, rfl, rfl, by decide, rfl,
    fun m hm => absurd (show m ∈ ([] : List Miss) from hm) List.not_mem_nil, by decide, by decide, rfl, by decide⟩
theorem witness_device : ∃ (s : State) (dev la : Nat) (x : DeviceAccess) (key : Nat), s.dev.up = true ∧ dev ≠ s.dev.devno.toNat ∧ dev < 256 ∧
    (∃ i < 18, (s.link i).up = true) ∧ s.own la (deviceSize x) = some key ∧ ∀ mn ty a b ret, x = .atom mn ty a b ret → la % deviceSize x = 0 :=
  ⟨{ base with links := [(17, { Link.init with up := true })] }, 255, 0x40000, .load 128, 0x40000, rfl, by decide, by decide, ⟨17, by decide, rfl⟩,
    by decide, fun _ _ _ _ _ h => by cases h⟩
theorem witness_piece : base.dev.up = true ∧ 0 ≠ 1 ∧ ∀ p, p = 0 ∨ p = 1 → p * 65536 / 2 ^ 44 = base.dev.devno.toNat ∧ backed (p * 65536 % 2 ^ 44) = true ∧
    p * 65536 % 2 ^ 44 < 0xF0000000000 ∧ (∀ m ∈ base.dev.migrating, m.1 ≠ p ∧ m.2 ≠ p) ∧ ∀ m ∈ base.dev.moved, m.1 ≠ p := by
  refine ⟨rfl, by decide, ?_⟩
  rintro p (rfl | rfl) <;> decide
theorem witness_piece_end : ({ base with dev := { base.dev with migrating := [(0, 1)] } } : State).dev.migrating.find? (fun m => m.1 == 0) = some (0, 1) := by decide
theorem witness_ecc : 7 * 128 < 2 ^ 52 ∧ 7 * 128 / 2 ^ 44 = base.dev.devno.toNat ∧ 7 * 128 % 2 ^ 44 < 0x80000000000 ∧ 2 ^ 54 ≤ 2 ^ 47 * 128 := by decide
theorem witness_parity : base.lanes.get? k0 = some lane ∧ 255 < 256 ∧ 575 < 576 ∧ 15 < 16 ∧ 31 < 32 := by decide
/-- The part with rows reported, repaired and under repair. -/
def repairs (soft : List (Nat × Nat × Nat)) : State :=
  { base with dev := { base.dev with reported := [(5, 383, 9)], softRepaired := soft, repairs := [(5, 2, 4, 7)] } }
theorem witness_repair_again : (repairs [(5, 383, 9)]).dev.up = true ∧ (5, 383, 9) ∈ (repairs [(5, 383, 9)]).dev.reported ∧
    (5, 383, 9) ∈ (repairs [(5, 383, 9)]).dev.softRepaired := by decide
theorem witness_repair : (5, 383, 9) ∈ (repairs []).dev.reported ∧ (5, 383, 9) ∉ (repairs []).dev.softRepaired ∧
    (∀ x ∈ (repairs []).dev.repairs, x.1 = 5 → x.2.1 % 4 ≠ 383 % 4) ∧ (Map.keys (repairs []).slices).Nodup := by decide
theorem witness_repair_end : (repairs []).dev.repairs.find? (fun x => x.1 == 5 && x.2.1 == 2) = some (5, 2, 4, 7) ∧ 7 + 240000 ≤ (repairs []).now := by decide
theorem witness_scrub : base.dev.up = true ∧ 0 < 1 ∧ ∀ l ∈ base.dev.correctable, decide (0 ≤ l) = false := by decide

/-- A sluice request of the lane that arrives. -/
def slreq (t : Option (Nat × Nat)) : SlReq := { id := 4, lane := k0, va := 0x40000, key := 0x40000, excl := true, try_ := t, waiting := false, slot := 0 }
/-- The state with that request. -/
def asking (t : Option (Nat × Nat)) (mem : List Host.Cell) : State := { base with slreqs := [slreq t], mem := mem }
theorem witness_sluice : ∃ (s : State) (r : SlReq), s.slreqs.find? (fun x => x.id == r.id && !x.waiting) = some r ∧ s.keyReach r.key = true ∧
    (∀ x ∈ s.slreqs, x.waiting = false → x.key = r.key → s.coreOf x.lane = s.coreOf r.lane → x.lane ≠ outsider → r.id ≤ x.id) ∧
    (∀ x ∈ s.slrels, x.lane = r.lane → r.id ≤ x.id) ∧ s.touching r.lane r.id r.key = false ∧ s.pieceMoves (lineOf r.key) = false ∧
    s.sluiceWaits r.home r.key none = false ∧ s.controlOff r.key = none ∧ r.lane ≠ outsider ∧ r.held = none ∧ r.try_ = none :=
  ⟨asking none [], slreq none, rfl, by decide, fun x hx _ _ _ _ => by rw [List.mem_singleton.1 hx], fun x hx => absurd hx List.not_mem_nil, by decide,
    by decide, by decide, by decide, by decide, rfl, rfl⟩
theorem witness_sluice_try : ∃ (s : State) (r : SlReq), s.slreqs.find? (fun x => x.id == r.id && !x.waiting) = some r ∧ s.keyReach r.key = true ∧
    (∀ x ∈ s.slreqs, x.waiting = false → x.key = r.key → s.coreOf x.lane = s.coreOf r.lane → x.lane ≠ outsider → r.id ≤ x.id) ∧
    (∀ x ∈ s.slrels, x.lane = r.lane → r.id ≤ x.id) ∧ s.touching r.lane r.id r.key = false ∧ s.pieceMoves (lineOf r.key) = false ∧
    s.sluiceWaits r.home r.key none = false ∧ s.controlOff r.key = none ∧ r.lane ≠ outsider ∧ r.held = none ∧ ∃ res reg l, r.try_ = some (res, reg) ∧ s.lanes.get? r.lane = some l :=
  ⟨asking (some (5, 7)) [], slreq (some (5, 7)), rfl, by decide, fun x hx _ _ _ _ => by rw [List.mem_singleton.1 hx], fun x hx => absurd hx List.not_mem_nil,
    by decide, by decide, by decide, by decide, by decide, rfl, 5, 7, lane, rfl, rfl⟩
theorem witness_sluice_free : ((asking (some (5, 7)) []).sluice 0x40000).grants true = true ∧
    ∀ x ∈ (asking (some (5, 7)) []).slreqs, x.waiting = true → x.key ≠ 0x40000 := by decide +kernel
theorem witness_sluice_held : ((asking (some (5, 7)) [(0x40000, 1)]).sluice 0x40000).grants true = false := by decide +kernel
/-- A release of the lane. -/
def slrel : SlRel := { id := 4, lane := k0, key := 0x40000, va := 0x40000, excl := true, publish := true }
theorem witness_release : ∃ (s : State) (r : SlRel), s.slrels.find? (fun x => x.id == r.id) = some r ∧ r.lane ≠ outsider ∧ s.reqs = [] ∧
    (∀ x ∈ s.slrels, ¬ x.id < r.id) ∧ s.touching r.lane r.id r.key = false ∧ s.keyReach r.key = true ∧ s.pieceMoves (lineOf r.key) = false ∧
    r.held = none ∧ s.sluiceWaits r.home r.key none = false ∧ s.controlOff r.key = none :=
  ⟨{ base with slrels := [slrel] }, slrel, rfl, by decide, rfl, by decide, by decide, by decide, by decide, rfl, by decide, by decide⟩
/-- An earlier release of the same sluice, and a store of the lane to the release's range that has not been performed. -/
theorem witness_release_waits : ({ slrel with id := 3 } : SlRel) ∈ [{ slrel with id := 3 }, slrel] ∧ (3 : Nat) < slrel.id ∧
    (req (.slice 0) .flying (.store [1])).done = false ∧ AccOp.own (.store [1]) = true ∧ (AccOp.store [1]) ≠ .prefetch := by decide
theorem witness_sluice_fields : (65535 : Nat) < 2 ^ 16 ∧ (0 : Nat) < 2 ^ 64 := by decide
theorem witness_drain : ∃ (s : State) (cl bank : Nat) (d : Drain) (l : Lane), (s.cluster cl).drains.find? (fun d => d.bank == bank) = some d ∧
    (∀ l ∈ (s.cluster cl).l1, l.bank = bank → ∀ b ∈ l.bytes, b.2.dirty = false) ∧ d.res = some (5, 7) ∧ s.lanes.get? d.lane = some l :=
  ⟨{ base with clusters := [(0, { Cluster.init with drains := [{ bank := 31, mode := 1, lane := k0, res := some (5, 7) }] })] }, 0, 31, _, lane, rfl,
    fun _ h => absurd h List.not_mem_nil, rfl, rfl⟩
theorem witness_drain_quiet : ∃ (s : State) (cl bank : Nat) (d : Drain), (s.cluster cl).drains.find? (fun d => d.bank == bank) = some d ∧
    (∀ l ∈ (s.cluster cl).l1, l.bank = bank → ∀ b ∈ l.bytes, b.2.dirty = false) ∧ d.res = none :=
  ⟨{ base with clusters := [(0, { Cluster.init with drains := [{ bank := 0, mode := 0, lane := k0, res := none }] })] }, 0, 0, _, rfl,
    fun _ h => absurd h List.not_mem_nil, rfl⟩

/-- A workgroup with a retiring weir and lanes in a weir park on it: the retirer, and perhaps a waiter. -/
def retiring (w : Bool) : State :=
  let p (r : Bool) : Lane := parked { Parks.none with weir := some { key := scratchKey 3 16, gen := 0, ret := r } }
  { base with
    wgs := [(3, { wg with weirs := [16], retiring := [16], desc := { desc with lanes := 2, scratch := 64 } })],
    lanes := [(k0, p true), (⟨3, 1⟩, if w then p false else lane)] }
theorem witness_weir : ∃ (s : State) (wg off : Nat) (w : Wg) (k : LaneId) (l : Lane), s.wgs.get? wg = some w ∧ off ∈ w.weirs ∧ off ∈ w.retiring ∧ s.noneStopped ∧
    s.named (scratchKey wg off) = false ∧ s.weirWaiters (scratchKey wg off) true = [k] ∧ s.lanes.get? k = some l ∧ s.weirWaiters (scratchKey wg off) false = [] :=
  ⟨retiring false, 3, 16, _, k0, _, rfl, by decide, by decide, base_calm _ 0 ctx rfl rfl, by decide +kernel, by decide +kernel, rfl, by decide +kernel⟩
theorem witness_weir_waiter : ∃ (s : State) (wg off : Nat) (w : Wg) (k j : LaneId) (l m : Lane), s.wgs.get? wg = some w ∧ off ∈ w.weirs ∧ off ∈ w.retiring ∧ s.noneStopped ∧
    s.named (scratchKey wg off) = false ∧ s.weirWaiters (scratchKey wg off) true = [k] ∧ s.lanes.get? k = some l ∧ s.weirWaiters (scratchKey wg off) false = [j] ∧
    s.lanes.get? j = some m ∧ j ≠ k :=
  ⟨retiring true, 3, 16, _, k0, ⟨3, 1⟩, _, _, rfl, by decide, by decide, base_calm _ 0 ctx rfl rfl, by decide +kernel, by decide +kernel, rfl, by decide +kernel, rfl, by decide⟩
/-- A gang of two lanes, one at a barrier of the workgroup and the other at one of the gang. -/
def stuck : State := { base with
  wgs := [(3, { wg with desc := { desc with lanes := 2 } })],
  lanes := [(k0, { parked { Parks.none with bar := some { gang := false, bar := 3, again := false, wait := true } } with arrived := [(false, 3)] }),
    (⟨3, 1⟩, parked { Parks.none with bar := some { gang := true, bar := 3, again := false, wait := true } })] }
theorem witness_stuck : ∃ (s : State) (gang : Bool) (id : Nat) (k : LaneId) (l : Lane) (p : BarPark), s.stuck gang id = true ∧ s.noneStopped ∧ k ∈ s.barLanes gang id ∧
    (s.barLanes gang id).Nodup ∧ s.lanes.get? k = some l ∧ l.parks.bar = some p ∧ p.gang = gang ∧
    ∀ j ∈ s.barLanes gang id, j ≠ k → ∀ m, s.lanes.get? j = some m → ∀ q, m.parks.bar = some q → q.gang ≠ gang := by
  refine ⟨stuck, false, 3, k0, _, _, by decide +kernel, base_calm _ 0 ctx rfl rfl, by decide, by decide, rfl, rfl, rfl, ?_⟩
  intro j hj hk m hm q hq
  have hj' : j ∈ [k0, (⟨3, 1⟩ : LaneId)] := hj
  rcases List.mem_cons.1 hj' with rfl | h
  · exact absurd rfl hk
  · rw [List.mem_singleton.1 h] at hm
    cases hm
    cases hq
    decide

/-- A row whose mantissas are 0. -/
def zeros : TRow := { TRow.none with empty := false }
theorem witness_kstep : zeros.empty = false ∧ 0 ≤ zeros.h ∧ (∃ p ∈ ([[(3, -2)]] : List (List Product)), ∃ x ∈ p, x.1 ≠ 0) ∧
    ∀ p ∈ ([[(3, -2)]] : List (List Product)), ∀ x ∈ p, x.1 ≠ 0 → x.2 + (bitlen x.1.natAbs : Int) + (0 : Nat) ≤ zeros.e + 63 := by
  refine ⟨rfl, by decide, ⟨_, List.mem_singleton.2 rfl, _, List.mem_singleton.2 rfl, by decide⟩, ?_⟩
  intro p hp x hx _
  rw [List.mem_singleton.1 hp] at hx
  rw [List.mem_singleton.1 hx]
  decide
/-- A tile command of the lane on tile 15. -/
def tileCmd (kind : MKind) (accepted : Bool) : MCmd :=
  { id := 8, lane := k0, crew := ⟨3, 0⟩, pc := 0x1000, seq := 0, ch := 0, tile := 15, kind := kind, after := [], accepted := accepted, queued := accepted, prog := 0,
    begun := false, stopped := none, dropped := false }
/-- The state with that command. -/
def tiled (m : MCmd) : State :=
  { mapped with
    cores := [(0, { Core.init with mq := [m], saddle := some ⟨3, 0⟩ })],
    lanes := [(k0, parked { Parks.none with queue := some (.matrix 8) })] }
theorem witness_tile_accept : ∃ (s : State) (core : Nat) (m : MCmd) (h : CrewId) (l : Lane), (s.core core).mq.find? (fun m => !m.accepted) = some m ∧
    (s.core core).load < 32 ∧ (s.core core).passing = none ∧ (s.core core).saddle = some h ∧ s.crewLive h ≠ [] ∧
    s.lanes.get? m.lane = some l ∧ l.parks.queue = some (.matrix m.id) :=
  ⟨tiled (tileCmd .zero false), 0, tileCmd .zero false, ⟨3, 0⟩, _, rfl, by decide, rfl, rfl, by decide, rfl, rfl⟩
theorem witness_tile_reached : ((tiled (tileCmd .zero true)).core 0).head? 15 = some (tileCmd .zero true) ∧
    ((tiled (tileCmd .ren true)).core 0).head? 15 = some (tileCmd .ren true) ∧
    ∀ r ∈ (((tiled (tileCmd .ren true)).core 0).tile 15).rows, r.fails = false := by decide +kernel
theorem witness_tile_free : ((tiled (tileCmd .free true)).core 0).head? 15 = some (tileCmd .free true) := by decide +kernel

/-- A loop of two steps whose operands are zeros of format F16 at 0. -/
def loop : Loop := { a := 0, b := 0, aStride := 0, bStride := 0, aInc := 0, bInc := 0, ks := 2, gate := none, sparse := none, fa := .f16, fb := .f16 }
/-- The line of the operands, when it has arrived. -/
def line0 : Fetched := [(0, (List.replicate 128 0, 0))]
/-- Its command, its operands arrived. -/
def loopCmd : MCmd := { tileCmd (.loop loop) true with got := line0 }
/-- The state with that loop, and the page of its operands: 64 MiB that begin at 0, tables and all. -/
def looping : State := { tiled loopCmd with
  ctxs := [(0, { ctx with ptroot := 0x4000 })],
  mem := [(0x4000, 1), (0x4006, 8), (0x8000, 1), (0x8006, 12), (0xC000, 0x7B), (0xC00C, 0xA0)] }
theorem looping_readable : ∀ n < 32, ∃ l, looping.readable k0 8 (some .f16) (BitVec.ofNat 64 (2 * n)) = .ok [l] ∧ looping.arrived line0 l = true := by
  have h : ∀ n < 32, (match looping.readable k0 8 (some .f16) (BitVec.ofNat 64 (2 * n)) with | .ok [l] => looping.arrived line0 l | _ => false) = true := by
    decide +kernel
  intro n hn
  have := h n hn
  split at this
  · next l e => exact ⟨l, e, this⟩
  · cases this
/-- What the loop's first step reads. -/
def loopReads : List (Option Typ × DWord) := (loop.reads looping loopCmd).all loop
theorem looping_places : (loopReads.all fun x => x.1 == some .f16 && decide (x.2.toNat < 64) && decide (x.2.toNat % 2 = 0)) = true := by decide +kernel
theorem looping_found (x : Option Typ × DWord) (hx : x ∈ loopReads) : ∃ l, looping.readable k0 8 x.1 x.2 = .ok [l] ∧ looping.arrived line0 l = true := by
  obtain ⟨t, a⟩ := x
  have h := List.all_eq_true.1 looping_places _ hx
  simp only [Bool.and_eq_true, beq_iff_eq, decide_eq_true_eq] at h
  obtain ⟨⟨rfl, h1⟩, h2⟩ := h
  have e : a = BitVec.ofNat 64 (2 * (a.toNat / 2)) := by apply BitVec.eq_of_toNat_eq; rw [BitVec.toNat_ofNat]; omega
  rw [e]
  exact looping_readable _ (by omega)
theorem places_good (s : State) (k : LaneId) (mark : Nat) (got : Fetched) (xs : List (Option Typ × DWord))
    (h : ∀ x ∈ xs, ∃ l, s.readable k mark x.1 x.2 = .ok [l] ∧ s.arrived got l = true) :
    failures ((xs.map fun x => (x.2, s.readable k mark x.1 x.2)).map (·.2)) = [] ∧
      (okPlaces (xs.map fun x => (x.2, s.readable k mark x.1 x.2))).filter (fun c => !s.arrived got c.1) = [] := by
  induction xs with
  | nil => exact ⟨rfl, rfl⟩
  | cons x xs ih =>
    obtain ⟨l, h1, h2⟩ := h x (by simp)
    obtain ⟨i1, i2⟩ := ih fun y hy => h y (by simp [hy])
    simp only [failures, okPlaces] at i1 i2 ⊢
    refine ⟨by simp only [List.map_cons, List.filterMap_cons, h1, i1], ?_⟩
    simp only [List.map_cons, List.flatMap_cons, List.filter_append, h1, i2, List.append_nil]
    simp [h2]
theorem tile_good (s : State) (t : Tile) (m : MCmd) (l : Loop) (r : StepReads) (h : ∀ x ∈ t.rows, x.empty = true) : (tileStep s t m l r).2.2 = [] := by
  unfold tileStep
  simp only [List.filterMap_eq_nil_iff]
  intro x hx
  obtain ⟨y, hy, e⟩ := List.mem_map.1 (List.of_mem_zip hx).2
  rw [← e, if_neg]
  have hb : ∀ g ps, (y.1.step g ps).bad = false := by
    intro g ps
    unfold TRow.step
    simp only [h _ (List.fst_mem_of_mem_zipIdx hy), if_true]
    split <;> rfl
  rw [hb]
  exact Bool.false_ne_true
theorem witness_loop : ∃ (s : State) (core : Nat) (m : MCmd) (l : Loop), (s.core core).head? m.tile = some m ∧ m.kind = .loop l ∧ s.loopReady m = true ∧
    l.fault s m = none ∧ l.lacks s m = [] ∧ (s.core core).stepAt ≠ some s.now ∧ s.cutNow (core / 4) = false ∧
    (∀ x ∈ (s.core core).mq.takeWhile (fun x => x.id != m.id), x.accepted = true → (s.core core).head? x.tile = some x → s.stepReady x = false) ∧
    (tileStep s ((s.core core).tile m.tile) m l (l.reads s m)).2.2 = [] ∧ ((s.core core).tile m.tile).arm = none ∧ ¬ m.prog + 1 ≥ l.ks := by
  obtain ⟨o1, o2⟩ := places_good looping k0 8 line0 loopReads looping_found
  have e : loop.found looping loopCmd = loopReads.map fun x => (x.2, looping.readable k0 8 x.1 x.2) := if_pos (by decide +kernel)
  exact ⟨looping, 0, loopCmd, loop, rfl, rfl, rfl, by rw [Loop.fault, e, o1]; rfl, by rw [Loop.lacks, e]; exact o2, by decide, by decide,
    fun x hx => absurd (show x ∈ ([] : List MCmd) from hx) List.not_mem_nil, tile_good _ _ _ _ _ (by decide +kernel), rfl, by decide⟩
/-- The loop with no operand line yet. -/
def asks : MCmd := { loopCmd with got := [] }
/-- The state with it. -/
def loopAsks : State := { looping with cores := [(0, { Core.init with mq := [asks] })] }
theorem witness_loop_asks : ∃ (s : State) (core : Nat) (m : MCmd) (l : Loop), (s.core core).head? m.tile = some m ∧ m.kind = .loop l ∧
    s.loopReady m = true ∧ l.fault s m = none ∧ l.lacks s m ≠ [] := by
  have h : (loop.lacks loopAsks asks).isEmpty = false := by decide +kernel
  exact ⟨loopAsks, 0, asks, loop, rfl, rfl, rfl, by decide +kernel, fun e => by rw [e] at h; cases h⟩
theorem witness_loop_faults : ∃ (s : State) (core : Nat) (m : MCmd) (l : Loop) (cause : Nat) (addr : DWord), (s.core core).head? m.tile = some m ∧
    m.kind = .loop l ∧ s.loopReady m = true ∧ l.fault s m = some (cause, addr) :=
  ⟨{ looping with ctxs := [(0, ctx)] }, 0, loopCmd, loop, 3, 0, rfl, rfl, rfl, by decide +kernel⟩
/-- A readout of a row to the same page. -/
def readOut : Out := { base := 0, stride := 64, row := 31, n := 1, typ := .f16, mode := 0, bnd := none }
/-- Its command. -/
def outCmd : MCmd := tileCmd (.out readOut) true
/-- The state with that readout. -/
def reading : State := { looping with cores := [(0, { Core.init with mq := [outCmd] })] }
theorem witness_readout : ∃ (s : State) (core : Nat) (m : MCmd) (o : Out), let t := (s.core core).tile m.tile
    let rows := if m.begun then m.snap else (t.rows.drop o.row).take o.n
    (s.core core).head? m.tile = some m ∧ m.kind = .out o ∧ m.stopped = none ∧ s.allPerformed m.after = true ∧ m.prog < o.n ∧
      (∀ r ∈ rows, r.fails = false) ∧ (outRow o ((rows[m.prog]?).getD TRow.none) (List.range 32)).2.2 = false ∧
      firstCause (failures ((List.range 32).map fun j => s.writable m.lane m.id o.typ (o.elem m.prog j))) = none :=
  ⟨reading, 0, outCmd, readOut, rfl, rfl, rfl, rfl, by decide, by decide +kernel, by decide +kernel, by decide +kernel⟩
theorem witness_readout_over : readOut.n ≤ ({ outCmd with prog := 1 } : MCmd).prog := by decide

/-- A ditch of one-word entries, of two blocks' room, that holds `n` entries. -/
def ditch (n : Nat) : Ditch :=
  { gang := 2, lgn := 4, esz := 0, pptr := BitVec.ofNat 32 n, cptr := 0, rsv := 0, ord := false, slots := [(0, [7]), (1, [8])], store := [(0, 0)] }
/-- The state with an operation at its controller. -/
def ditching (n : Nat) (kind : DKind) : State := { base with clusters := [(0, { Cluster.init with
  ports := [(31, ditch n)], dops := [{ id := 8, lane := k0, pc := 0x1000, port := 31, kind := kind }] })] }
theorem witness_push : ∃ (s : State) (cl : Nat) (o : DOp) (d : Ditch) (l : Lane) (ws : List Word), (s.cluster cl).dops.find? (fun x => x.id == o.id) = some o ∧
    s.dopReady cl o = true ∧ (s.cluster cl).ports.get? o.port = some d ∧ s.lanes.get? o.lane = some l ∧ o.kind = .push ws :=
  ⟨ditching 0 (.push [5]), 0, { id := 8, lane := k0, pc := 0x1000, port := 31, kind := .push [5] }, ditch 0, lane, [5], by decide, by decide +kernel, rfl, rfl, rfl⟩
theorem witness_ditch_reset : (ditching 1 .reset).dopReady 0 { id := 8, lane := k0, pc := 0x1000, port := 31, kind := .reset } = true := by decide +kernel
theorem witness_pop : ∃ (s : State) (cl : Nat) (o : DOp) (d : Ditch) (l : Lane) (reg n res : Nat), (s.cluster cl).dops.find? (fun x => x.id == o.id) = some o ∧
    s.dopReady cl o = true ∧ (s.cluster cl).ports.get? o.port = some d ∧ s.lanes.get? o.lane = some l ∧ o.kind = .pop false reg n none res ∧
    (s.cluster cl).can { o with kind := .pop false reg n none res } = true :=
  ⟨ditching 1 (.pop false 7 1 none 5), 0, { id := 8, lane := k0, pc := 0x1000, port := 31, kind := .pop false 7 1 none 5 }, ditch 1, lane, 7, 1, 5, by decide,
    by decide +kernel, rfl, rfl, rfl, by decide +kernel⟩
theorem witness_pop_empty : ∃ (s : State) (cl : Nat) (o : DOp) (d : Ditch) (l : Lane) (reg n res : Nat), (s.cluster cl).dops.find? (fun x => x.id == o.id) = some o ∧
    s.dopReady cl o = true ∧ (s.cluster cl).ports.get? o.port = some d ∧ s.lanes.get? o.lane = some l ∧ o.kind = .pop true reg n (some 4) res ∧
    (s.cluster cl).can { o with kind := .pop false reg n (some 4) res } = false :=
  ⟨ditching 0 (.pop true 7 1 (some 4) 5), 0, { id := 8, lane := k0, pc := 0x1000, port := 31, kind := .pop true 7 1 (some 4) 5 }, ditch 0, lane, 7, 1, 5, by decide,
    by decide +kernel, rfl, rfl, rfl, by decide +kernel⟩
theorem witness_ditch_calm : ∀ e ∈ (ditching 0 .reset).ctxs, ∀ f ∈ e.2.faults, f.num < (ditching 0 .reset).fresh := by decide
theorem witness_ditch : (ditch 15).lgn < 32 ∧ (ditch 15).held < 2 ^ (ditch 15).lgn ∧ 0 < (ditch 15).held := by decide

/-- An engine command: a gather of one row of 4 bytes whose index comes from a ditch, into the scratchpad. -/
def command (fired : Bool) (rows : List Nat) : Cmd :=
  { id := 8, arr := 0, lane := k0, crew := ⟨3, 0⟩, pc := 0x1000, seq := 0, ch := 0, kind := .gath 0 4 1 4 (.ditch 31) (.scratch 0) none (some .f16), after := [],
    gate := none, arrive := none, count := none, queued := true, submitted := true, fired := fired, ins := [[0]], ins2 := [], rows := rows, out := [],
    stopped := none, dropped := false, got := [(1, line0)], checked := true }
/-- The state with that command. -/
def engine (m : Cmd) : State := { looping with cores := [], clusters := [(0, { Cluster.init with ports := [(31, ditch 1)], cmds := [m] })] }
theorem witness_fire : ∃ (s : State) (cl : Nat) (m : Cmd), (s.cluster cl).cmds.find? (fun x => x.id == m.id) = some m ∧ s.fireable cl m = true ∧
    (∀ o ∈ (s.cluster cl).dops, o.id < m.id → o.port ∈ m.ports (s.cluster cl) → (s.cluster cl).can o = false) ∧
    ∃ p n rest d, m.inputs (s.cluster cl) = (p, n) :: rest ∧ (s.cluster cl).ports.get? p = some d :=
  ⟨engine (command false []), 0, command false [], by decide, by decide +kernel, fun o ho => absurd (show o ∈ ([] : List DOp) from ho) List.not_mem_nil,
    31, 1, [], ditch 1, by decide +kernel, rfl⟩
/-- A state, a command of its cluster 0 that has fired, and a row of it that has not been delivered. -/
def RowAt (s : State) (m : Cmd) (row : Nat) : Prop := (s.cluster 0).cmds.find? (fun x => x.id == m.id) = some m ∧
  m.fired = true ∧ m.stopped = none ∧ m.dropped = false ∧ row < m.kind.total ∧ row ∉ m.rows ∧ s.expAhead m = false
/-- What the first row of a command does now: 0 it is delivered, 1 it asks for lines, 2 it faults. -/
def rowNow (s : State) (m : Cmd) : Nat := match s.rowOf m 0 with
  | .goes r => if r.add = none then 0 else 3
  | .asks _ _ => 1
  | .stops _ => 2
  | .waits => 3
/-- The command with no line yet. -/
def asking0 : Cmd := { command true [] with got := [] }
theorem witness_row : ∃ (s : State) (m : Cmd) (row : Nat) (r : RowEffect), RowAt s m row ∧ m.count = none ∧ s.rowOf m row = .goes r ∧ r.add = none := by
  have h : rowNow (engine (command true [])) (command true []) = 0 := by decide +kernel
  unfold rowNow at h
  split at h
  · next r e => exact ⟨_, command true [], 0, r, by unfold RowAt; decide, rfl, e, by by_contra h1; rw [if_neg h1] at h; cases h⟩
  all_goals cases h
theorem witness_row_asks : ∃ (s : State) (m : Cmd) (row slot : Nat) (ls : List (Loc × DWord)), RowAt s m row ∧ s.rowOf m row = .asks slot ls := by
  have h : rowNow (engine asking0) asking0 = 1 := by decide +kernel
  unfold rowNow at h
  split at h
  · split at h <;> cases h
  · next k ls e => exact ⟨_, asking0, 0, k, ls, by unfold RowAt; decide, e⟩
  all_goals cases h
theorem witness_row_faults : ∃ (s : State) (m : Cmd) (row cause : Nat) (addr : DWord), RowAt s m row ∧ s.rowOf m row = .stops (cause, addr) := by
  have h : rowNow { engine asking0 with ctxs := [(0, ctx)] } asking0 = 2 := by decide +kernel
  unfold rowNow at h
  split at h
  · split at h <;> cases h
  · cases h
  · next f e => exact ⟨_, asking0, 0, f.1, f.2, by unfold RowAt; decide, e⟩
  · cases h
theorem witness_command_done : ∃ (s : State) (cl : Nat) (m : Cmd), (s.cluster cl).cmds.find? (fun x => x.id == m.id) = some m ∧ m.fired = true ∧
    m.stopped = none ∧ m.rows.length = m.kind.total ∧ s.cmdDone cl m = true ∧ m.arrive = none ∧ (∀ a b n p y g r f w, m.kind ≠ .nz a b n p y g r f w) ∧
    (∀ v, s.ctxs.get? (s.ctxOf m.lane) = some v → v.binds = []) ∧ ∀ x ∈ (s.cluster cl).cmds, x.fired = true → m.arr ≤ x.arr :=
  ⟨engine (command true [0]), 0, command true [0], by decide, rfl, rfl, by decide, by decide, rfl, fun _ _ _ _ _ _ _ _ _ h => (by cases h),
    fun v hv => by obtain ⟨-, rfl⟩ := get_one hv; rfl, fun x hx _ => by rw [List.mem_singleton.1 (show x ∈ [command true [0]] from hx)]⟩

/-- A region with retries left, or with none. -/
def region (tries : Half) : Region := { restart := 0x2000, rlim := 1, rtry := tries, umark := 0, tiles := 0, cmdMark := 0 }
/-- The lane with an error pending inside two regions, the inner of them spent. -/
def failing : Lane := { lane with regions := [region 1, region 0], err := some { source := 2, code := 7, pc := 0x1000 } }
theorem witness_rollback : ∃ (s : State) (k : LaneId) (l : Lane) (w : Wg) (g : Gang) (e : DetErr) (inner outer : List Region) (r : Region),
    s.lanes.get? k = some l ∧ s.wgs.get? k.wg = some w ∧ w.active = true ∧ l.exited = false ∧ l.err = some e ∧ s.gangs.get? w.gang = some g ∧
    g.kill = none ∧ g.ended = false ∧ l.regions = inner ++ r :: outer ∧ (∀ y ∈ inner, y.rlim.toNat ≤ y.rtry.toNat) ∧ r.rtry.toNat < r.rlim.toNat ∧
    l.results = [] ∧ (∀ m ∈ (s.cluster (s.clusterOf k)).cmds, m.lane = k → m.seq < r.cmdMark) ∧
    (∀ m ∈ (s.core (s.coreOf k)).mq, m.lane = k → m.seq < r.cmdMark) ∧ (∀ q ∈ s.reqs, ∀ a ∈ q.acc, a.lane ≠ k) ∧
    (∀ t < 16, ∀ d, ((s.core (s.coreOf k)).tile t).bound = some (k, d) → d ≤ outer.length) ∧ l.undoUse ≤ r.umark ∧
    (s.peloton (s.coreOf k) (s.pslot k)).rolledAt ≠ some s.now :=
  ⟨withLane failing, k0, failing, wg, gang, _, [region 1], [], region 0, rfl, rfl, rfl, rfl, rfl, rfl, rfl, rfl, rfl, by decide, by decide, rfl,
    fun x h => absurd (show x ∈ ([] : List Cmd) from h) List.not_mem_nil, fun x h => absurd (show x ∈ ([] : List MCmd) from h) List.not_mem_nil,
    fun x h => absurd (show x ∈ ([] : List Req) from h) List.not_mem_nil, fun _ _ _ h => absurd h (by simp [withLane, base, State.core, State.reset, Core.tile, Map.getD, Core.init, Tile.none]), by decide, by decide⟩

/-- The gang with its kill decided, and its lane. -/
def killed (l : Lane) : State := { withLane l with gangs := [(2, { gang with kill := some 0x1000 })] }
theorem witness_kill_live : (killed lane).gangs.get? 2 = some { gang with kill := some 0x1000 } ∧
    ({ gang with kill := some 0x1000 } : Gang).reported = false ∧ ({ gang with kill := some 0x1000 } : Gang).ended = false := by decide
/-- The gang with its kill reported, its lane gone. -/
def reported (c : Cluster) : State := { killed { lane with exited := true } with
  gangs := [(2, { gang with kill := some 0x1000, reported := true })], clusters := [(0, c)] }
theorem witness_kill_drains : let s := reported { Cluster.init with cmds := [command false []] }
    s.gangs.get? 2 = some { gang with kill := some 0x1000, reported := true } ∧ s.drainAll (fun k => [3].contains k.wg) 0 ≠ [] :=
  ⟨by decide, fun h => by have := congrArg List.length h; revert this; decide +kernel⟩
theorem witness_kill_ends : let s := reported Cluster.init; s.gangs.get? 2 = some { gang with kill := some 0x1000, reported := true } ∧
    s.drainAll (fun k => [3].contains k.wg) 0 = [] ∧ s.commandsLeft (fun k => [3].contains k.wg) 0 = false := by
  refine ⟨by decide, rfl, by decide +kernel⟩
theorem witness_relaunch : base.launches.get? 1 = some launch ∧ gang.relaunch < launch.limit ∧ ¬ ({ gang with relaunch := 2 } : Gang).relaunch < launch.limit := by decide
theorem witness_free : Memory.wf base.mem ∧ base.wgs.get? 3 = some wg ∧ ∀ t < 16, ((base.core wg.core).tile t).owner ≠ some 3 := by decide +kernel
theorem witness_end : base.lanes.get? k0 = some lane ∧ lane.exited = false := by decide

/-- A context with one kernel descriptor, at 0x60000: one lane, one workgroup, 8 registers, entry 0x1000. -/
def kernelCtx : Ctx := { ctx with kdn := 1, kdtab := 0x60000 }
/-- The descriptor as loaded. -/
def kernel : Desc := { desc with regs := 8 }
/-- An idle part with that context, a record in a launch queue and one that a lane has passed on. -/
def waiting : State := { (vacant kernelCtx) with
  mem := [(0x60001, 0x10), (0x60008, 1), (0x6000A, 1), (0x6000B, 1)],
  queues := [(0, { cfg := 0x80600000, recs := [(0x100000000, [])], drops := 0 })],
  seqs := [(0, { Sequencer.init with given := [(0, k0, 0x1000, 0x100000000, [])] })] }
theorem witness_launch_queue : ∃ (s : State) (die q : Nat) (v : BitVec 512), s.mayServe die q = true ∧ s.headRec q = some v :=
  ⟨waiting, 0, 0, 0x100000000, by decide +kernel, by decide +kernel⟩
theorem witness_launch_given : ∃ (s : State) (die ctx : Nat) (k : LaneId) (pc : DWord) (v : BitVec 512) (after : List Nat),
    (s.seqr die).given.find? (fun x => s.isOpen x.1) = some (ctx, k, pc, v, after) ∧ s.allPerformed after = true :=
  ⟨waiting, 0, 0, k0, 0x1000, 0x100000000, [], by rfl, by decide⟩
theorem witness_launch_refused : waiting.ctxs.get? 0 = some kernelCtx ∧ waiting.refusal 0 kernelCtx 0 = some 0x20 := by decide +kernel
theorem witness_launch_accepted : waiting.refusal 0 kernelCtx 0x100000000 = none ∧ waiting.desc 0 (0x100000000 % 65536) = some kernel ∧
    waiting.sidecar 0 (bits 0x100000000 127 64) = some 0 := by decide +kernel
theorem witness_condition : ∃ (s : State) (n : Nat) (l : Launch), s.launches.get? n = some l ∧ ∃ c ∈ l.conds, c.seen = true ∧ c.met = false :=
  ⟨{ base with launches := [(1, { launch with conds := [{ addr := 0, value := 1, seen := true, met := false }] })] }, 1, _, rfl, _, List.mem_singleton.2 rfl, rfl, rfl⟩
/-- The launch's one gang has exited. -/
def done : State := { base with
  launches := [(1, { launch with finished := 1 })], gangs := [(2, { gang with ended := true })],
  wgs := [(3, { wg with exited := true, freed := true, active := false })], lanes := [(k0, { lane with exited := true })] }
theorem witness_launch_over : ∃ (s : State) (n : Nat) (l : Launch), s.launches.get? n = some l ∧ l.grid ≤ l.finished ∧ s.isOpen l.ctx = true ∧ l.closing = none ∧
    s.traces (fun k => ((s.gangs.filter fun x => x.2.launch == n).flatMap fun g => g.2.wgs).contains k.wg) = false ∧
    (∀ w ∈ (s.gangs.filter fun x => x.2.launch == n).flatMap fun g => g.2.wgs, ∀ v, s.wgs.get? w = some v → v.freed = true) ∧
    (∀ g ∈ s.gangs.filter fun x => x.2.launch == n, ∀ p ∈ (s.cluster g.2.cluster).ports, p.2.gang ≠ g.1) ∧ l.cdone = 0 :=
  ⟨done, 1, { launch with finished := 1 }, rfl, by decide, by decide, rfl, by decide +kernel, fun w _ v hv => (by obtain ⟨-, rfl⟩ := get_one hv; rfl), by decide, rfl⟩
theorem witness_launch_closes (b : Bool) : ∃ (s : State) (n : Nat) (l : Launch) (rs : List Nat), s.launches.get? n = some l ∧ l.grid ≤ l.finished ∧
    s.isOpen l.ctx = true ∧ l.closing = some (b, rs) ∧ s.allPerformed rs = true :=
  ⟨{ done with launches := [(1, { launch with finished := 1, closing := some (b, [9]) })] }, 1, _, [9], rfl, by show 1 ≤ 1; decide, rfl, rfl, rfl⟩
theorem witness_launch_counts : ∃ (s : State) (l : Launch) (x : Loc), l.cdone ≠ 0 ∧ s.locate l.ctx s.fresh l.cdone = some x := by
  have h : (looping.locate 0 looping.fresh 0x100).isSome = true := by decide +kernel
  obtain ⟨x, hx⟩ := Option.isSome_iff_exists.1 h
  exact ⟨looping, { launch with cdone := 0x100 }, x, by decide, hx⟩

/-- A launch of one gang that has not been placed, and room for it. -/
def unplaced : State := { (vacant ctx) with launches := [(1, { launch with next := 0 })] }
theorem witness_place : ∃ (s : State) (n cl idx rel : Nat) (cores stk und : List Nat) (l : Launch) (c : Ctx), s.launches.get? n = some l ∧
    s.ctxs.get? l.ctx = some c ∧ l.nextGang = some (idx, rel) ∧ s.dev.up = true ∧ cl < 144 ∧ s.placeable l = true ∧ s.fits l cl = true ∧
    (∀ m ∈ s.launches, m.2.before l = true → s.placeable m.2 = true → ∀ i < 144, s.fits m.2 i = false) ∧ cores.length = l.desc.gang ∧ cores.Nodup ∧
    (∀ i ∈ cores, i < 4 ∧ 0 < s.freeSlots (4 * cl + i)) ∧ stk.length = l.desc.gang * l.desc.lanes ∧
    piecesOk (c.stksz.toNat * 65536) l.desc.stack 16 (s.stacks l.ctx c) stk = true ∧ und.length = l.desc.gang * l.desc.lanes ∧
    piecesOk (c.undosz.toNat * 65536) l.desc.undo 1 (s.undos l.ctx c) und = true ∧ ∀ x ∈ c.weirs l.desc, x.1 < 2 ^ 22 :=
  ⟨unplaced, 1, 143, 0, 0, [3], [0], [0], { launch with next := 0 }, ctx, rfl, rfl, by decide +kernel, rfl, by decide, by decide +kernel, by decide +kernel,
    fun m hm hb => (by rw [List.mem_singleton.1 hm] at hb; exact absurd hb (by decide)), rfl, by decide, by decide +kernel, rfl, by decide +kernel, rfl,
    by decide +kernel, by decide +kernel⟩
/-- The workgroup parked, begun or not. -/
def idle (b : Bool) : State := { base with wgs := [(3, { wg with active := false, begun := b })] }
theorem witness_activate (b : Bool) : ∃ (s : State) (n : Nat) (place : List (Nat × Nat)) (w : Wg), s.wgs.get? n = some w ∧ s.eligible w = true ∧
    ((s.core w.core).swap = some n ∨ (s.core w.core).swap = none ∧ ∀ x ∈ s.wgs, x.2.core = w.core → s.eligible x.2 = true →
      s.goesBefore x.2 w = true → x.2.couldJoin (s.activeOn w.core) = false) ∧
    w.placeOk (s.activeOn w.core) place = true ∧ w.answers = [] ∧ w.saddleOwed = [] ∧ w.begun = b ∧
    ∀ k ∈ s.wgLanes n, ∀ l, s.lanes.get? k = some l → l.err = none := by
  refine ⟨idle b, 3, [(15, 3)], { wg with active := false, begun := b }, rfl, ?_, .inr ⟨rfl, ?_⟩, ?_, rfl, rfl, rfl, ?_⟩
  · cases b <;> decide +kernel
  · intro x hx _ _ h
    rw [List.mem_singleton.1 hx] at h
    exact absurd h (by cases b <;> decide +kernel)
  · cases b <;> decide +kernel
  · intro k _ l hl
    obtain ⟨-, rfl⟩ := get_one hl
    rfl
theorem witness_tick : (base.core 0).lastTick + 1200 * (base.core 0).quantum.toNat ≤ base.now ∧
    ∀ w ∈ base.wgs, w.2.core = 0 → base.eligible w.2 = true → base.now ≤ w.2.parkedAt + 1200 * (base.core 0).quantum.toNat := by decide +kernel
theorem witness_tick_early : ({ base with now := 5 } : State).now < (base.core 0).lastTick + 1200 * (base.core 0).quantum.toNat := by decide

/-! ### Single steps; each expected value is worked out by hand from the rule named -/

/-- The state after a step. -/
def run (i : Instr) (s : State) : State := match exec i s with | .next t => t | _ => State.reset
/-- The lane, with the registers g4 and g6 given and a word latched, after a census of its port. -/
def issued (o : Op) (a b : Word) : Lane :=
  ((run (.census 0) (withLane ((({ latched o with g := [(4, a), (6, b)] } : Lane))))).lanes.get? k0).getD lane
/-- The crew after that census. -/
def crewAfter (o : Op) (a b : Word) : Crew :=
  ((run (.census 0) (withLane ((({ latched o with g := [(4, a), (6, b)] } : Lane))))).crews.get? ⟨3, 0⟩).getD (Crew.start [] [])

/-- R130: IADD.WRAP wraps and sets no flag. -/
theorem test_add_wraps : (issued (word .iadd .s32) 0x7FFFFFFF 1).reg 2 = 0x80000000 ∧ (issued (word .iadd .s32) 0x7FFFFFFF 1).pc = 0x100C ∧
    (crewAfter (word .iadd .s32) 0x7FFFFFFF 1).flags = 0 := by decide +kernel
/-- R130: IADD.SAT writes the nearest end of the range and sets SAT. -/
theorem test_add_saturates : (issued { word .iadd .s32 with min := 1 } 0x7FFFFFFF 1).reg 2 = 0x7FFFFFFF ∧
    (crewAfter { word .iadd .s32 with min := 1 } 0x7FFFFFFF 1).flags = 1 := by decide +kernel
/-- R130: ISUB.SAT.N32 stops at 0. -/
theorem test_sub_saturates : (issued { word .isub .n32 with min := 1 } 3 5).reg 2 = 0 := by decide +kernel
/-- R135: a clamped shift by 32 gives 0; by 33 modulo 32 it shifts by 1. -/
theorem test_shift : (issued (word .shl .b32) 1 32).reg 2 = 0 ∧ (issued { word .shl .b32 with min := 1 } 1 33).reg 2 = 2 := by decide +kernel
/-- R135: SAR by 40 copies the sign. -/
theorem test_sar : (issued (word .sar .s32) 0x80000000 40).reg 2 = 0xFFFFFFFF := by decide +kernel
/-- R133: −7 / 2 is −3, outstanding until it is written. -/
theorem test_div : (issued (word .idiv .s32) 0xFFFFFFF9 2).results.map (·.vals) = [some [(2, 0xFFFFFFFD)]] ∧
    (issued (word .idiv .s32) 0xFFFFFFF9 2).reg 2 = 0 := by decide +kernel
/-- R133: the remainder of −7 by 2 is −1. -/
theorem test_rem : (issued (word .irem .s32) 0xFFFFFFF9 2).results.map (·.vals) = [some [(2, 0xFFFFFFFF)]] := by decide +kernel
/-- R151: FNEG of a signalling NaN inverts bit 31 alone. -/
theorem test_fneg : (issued { word .fneg .f32 with fz := .z } 0x7F800001 0).reg 2 = 0xFF800001 ∧
    (crewAfter { word .fneg .f32 with fz := .z } 0x7F800001 0).flags = 0 := by decide +kernel
/-- R149: 1.5 + 2.25 is 3.75. -/
theorem test_fadd : (issued (word .fadd .f32) 0x3FC00000 0x40100000).reg 2 = 0x40700000 := by decide +kernel
/-- The first row of the examples of 08_float_instructions.md: the largest finite value doubled is infinite, with OVF (R149, R107). -/
theorem test_fadd_overflow : (issued (word .fadd .f32) 0x7F7FFFFF 0x7F7FFFFF).reg 2 = 0x7F800000 ∧
    (crewAfter (word .fadd .f32) 0x7F7FFFFF 0x7F7FFFFF).flags = 2 := by decide +kernel
/-- R34: under a false guard nothing is written and the lane moves on. -/
theorem test_guard : (issued { word .iadd .s32 with grd := 1 } 1 2).reg 2 = 0 ∧ (issued { word .iadd .s32 with grd := 1 } 1 2).pc = 0x100C := by decide +kernel
/-- R101, R105, R67: 105 lies between the DS8 weights 96 and 128, and 96 is nearer; its smallest byte is 0x56. -/
theorem test_ds8_nearest : ds8Encode 0 (.fin false 105 0) = (0x56, 0) ∧ ds8Weight 0x56 = 96 := by decide +kernel
/-- R177: EXIT ends the lane. -/
theorem test_exit : (issued { word .exit .b32 with fx := .z, fy := .z, fz := .z } 0 0).exited = true := by decide +kernel
/-- R394: TRAP without a handler fault-parks the lane. -/
theorem test_trap : (issued { word .trap .b32 with fx := .z, fy := .z, fz := .z, lit := 9 } 0 0).parks.fault = true := by decide +kernel
/-- R427: QUANTUM 0 is taken as 1. -/
theorem test_quantum : ((run (.quantumWrite 575 0) base).core 575).quantumSet = 1 := by decide +kernel
/-- R366: a free context opens. -/
theorem test_open : ((run (.contextOpen 4095) base).ctx 4095).state = 1 := by decide +kernel
/-- R436: a reset without an image that is a container leaves the device down. -/
theorem test_reset : (run (.deviceReset none (some { file := [0x52, 0x48] })) base).dev.up = false := by decide +kernel

/-! ### What the clauses on issue, registers, answers and contexts assume can hold -/

/-- An environment of the lane, its g4 and g5 an address, for a word. -/
def at4 (l : Lane) (a : Word) (o : Op) : Env := env ((l.setReg 4 a).setReg 5 0) o
theorem witness_special : ∃ (e : Env) (w : Wg) (g : Gang) (l : Launch) (cr : Crew), e.s.wgs.get? e.k.wg = some w ∧ e.s.gangs.get? w.gang = some g ∧
    e.s.launches.get? g.launch = some l ∧ e.s.crews.get? (e.s.crewOf e.k) = some cr ∧ e.l.regions = [] ∧
    (cr.lanes.map fun i => e.s.slot ⟨(e.s.crewOf e.k).wg, i⟩).Nodup :=
  ⟨env lane (word .mov .b32), wg, gang, launch, Crew.start [] [0], rfl, rfl, rfl, rfl, rfl, by decide⟩
theorem witness_mov (r : SReg) : ∃ (e : Env) (cr : Crew), e.s.lanes.get? e.k = some e.l ∧ e.s.crews.get? (e.s.crewOf e.k) = some cr ∧ e.op.maj = .mov ∧
    e.op.fx = .sr r := ⟨env lane { word .mov .b32 with fx := .sr r }, Crew.start [] [0], rfl, by cases r <;> rfl, rfl, rfl⟩
theorem witness_shared : base.crews.get? ⟨3, 0⟩ = some (Crew.start [] [0]) ∧ k0 ∈ [k0] ∧ base.crewOf k0 = ⟨3, 0⟩ ∧ base.crewOf k0 ≠ ⟨3, 1⟩ := by decide
/-- A word of CSRW or CSRR. -/
def csr (m : Maj) (c : Word) : Env := env lane { word m .b32 with lit := c }
theorem witness_csrw : (csr .csrw 0x2000).op.l 15 0 = 0x2000 ∧ (csr .csrw 0x3000).op.l 15 0 = 0x3000 ∧ (csr .csrr 0x1000).op.l 15 0 = 0x1000 ∧
    (csr .csrw 0x2000).s.lanes.get? k0 = some lane ∧ (csr .csrw 0x2000).s.crews.get? (base.crewOf k0) = some (Crew.start [] [0]) ∧
    ∀ n, (csr .csrr 0x1000).op.fx ≠ .p n := ⟨by decide, by decide, by decide, by decide, by decide, fun _ h => by cases h⟩
theorem witness_csr_values : base.wgs.get? k0.wg = some wg ∧ base.crews.get? (base.crewOf k0) = some (Crew.start [] [0]) ∧ base.ctxs.get? wg.ctx = some ctx := by
  decide

/-- R427: CISTHW is held to 1 to 4,095, at both ends. -/
theorem test_cisthw_bounds : ((run (.cisthwWrite 143 0) base).cluster 143).cisthwSet = 1 ∧ ((run (.cisthwWrite 0 4095) base).cluster 0).cisthwSet = 4095 ∧
    ((run (.cisthwWrite 0 4096) base).cluster 0).cisthwSet = 4095 := by decide +kernel
/-- R429: LGDEPTH is held to 6 to 15 from below; its 4 bits hold no more than 15. -/
theorem test_lgdepth_bounds : ((run (.workQueueConfigWrite 0 0x80100000) base).wq 0).depth = 64 ∧ ((run (.workQueueConfigWrite 0 0x80600000) base).wq 0).depth = 64 ∧
    ((run (.workQueueConfigWrite 2047 0x80F00000) base).wq 2047).depth = 32768 := by decide +kernel

theorem witness_page : ∀ c, c = 0 ∨ c = 4095 → c < 4096 := by omega
theorem witness_state_writes : base.ctxs.get? 4095 = none ∧ base.ctxs.get? 0 = some ctx ∧ ctx.state = 1 ∧ ctx.state ≠ 0 ∧ base.dev.up = true := by decide
theorem witness_read_only : (regAt 0 64).map (·.1) = some .identity ∧ (regAt 0x100 3) = none := by decide +kernel

theorem witness_close_active : base.ctxs.get? 0 = some ctx ∧ ctx.state = 1 ∧ base.dev.up = true ∧ (3, wg) ∈ base.wgs ∧ wg.ctx = 0 ∧ wg.active = true := by decide
theorem witness_t2_active : ∃ (s : State) (c : Nat) (v : Ctx) (t0 t1 t2 : Nat), s.ctxs.get? c = some v ∧ v.state = 1 ∧ v.pre = some (t0, t1, t2) ∧ v.preempt = 2 ∧
    t0 + 1200 * t2 ≤ s.now ∧ ∃ w ∈ s.wgs, w.2.ctx = c ∧ w.2.active = true :=
  ⟨withCtx { ctx with preempt := 2, pre := some (0, 10, 20) }, 0, _, 0, 10, 20, rfl, rfl, rfl, rfl, by decide, (3, wg), by decide, rfl, rfl⟩
/-- R401: T2's expiry with a workgroup active ends its lanes and makes the context resetting. -/
theorem test_t2 : (((run (.preemptT2Expiry 0) (withCtx { ctx with preempt := 2, pre := some (0, 10, 20) })).ctxs.get? 0).map (·.state)) = some 2 ∧
    (((run (.preemptT2Expiry 0) (withCtx { ctx with preempt := 2, pre := some (0, 10, 20) })).lanes.get? k0).all (·.exited)) = true := by decide +kernel

/-- The record of a command whose issuer has exited. -/
def orphan : FaultRec := { record with fid := none, kind := 6, held := [], cmd := some (0, 8), issuer := some k0 }
theorem witness_issuer : ({ base with lanes := [(k0, { lane with exited := true })] } : State).gone k0 = true ∧
    orphan.issuer.any ({ base with lanes := [(k0, { lane with exited := true })] } : State).gone = true ∧ orphan.issuer.any base.gone = false := by decide

/-- The lane fault-parked, as record 9 holds it. -/
def stopped (trap : Bool) : Lane := { lane with heldBy := some 9, trapLane := trap, parks := { Parks.none with fault := true } }
theorem witness_answer_trap_lane : ∃ (s : State) (c : Nat) (v : Ctx) (f : FaultRec) (fid : Word) (amask : DWord) (w : Wg) (k : LaneId) (cause : Nat) (l : Lane),
    s.dev.up = true ∧ s.ctxs.get? c = some v ∧ v.faults.find? (fun f => f.fid == some fid) = some f ∧ f.cmd = none ∧ s.wgs.get? f.wg = some w ∧
    w.active = true ∧ (∀ h ∈ f.held, s.ctxOf h.1 = c) ∧ f.kind = 8 ∧ f.answered amask = [(k, cause)] ∧ s.lanes.get? k = some l ∧ l.trapLane = true :=
  ⟨{ withCtx { faulted with faults := [{ record with kind := 8 }] } with lanes := [(k0, stopped true)] }, 0, _, { record with kind := 8 }, 0, 1, wg, k0, 3,
    _, rfl, rfl, rfl, rfl, rfl, rfl, by decide, rfl, by decide, rfl, rfl⟩
theorem witness_answer_command : ∃ (s : State) (c : Nat) (v : Ctx) (f : FaultRec) (fid : Word) (unit id : Nat) (g : Gang), s.dev.up = true ∧
    s.ctxs.get? c = some v ∧ v.faults.find? (fun f => f.fid == some fid) = some f ∧ f.cmd = some (unit, id) ∧ s.gangs.get? f.gang = some g ∧
    g.ended = false ∧ g.kill = none :=
  ⟨withCtx { faulted with faults := [{ orphan with fid := some 0 }] }, 0, _, { orphan with fid := some 0 }, 0, 0, 8, gang, rfl, rfl, rfl, rfl, rfl, rfl, rfl⟩
theorem witness_answer_closed : ∀ v, (withCtx faulted).ctxs.get? 0 = some v → ∀ f ∈ v.faults, f.fid ≠ some 1 := by
  intro v hv f hf
  obtain ⟨-, rfl⟩ := get_one hv
  rw [List.mem_singleton.1 hf]
  decide
theorem witness_answer_parked : ∃ (s : State) (c : Nat) (v : Ctx) (f : FaultRec) (fid : Word) (w : Wg), s.dev.up = true ∧ s.ctxs.get? c = some v ∧
    v.faults.find? (fun f => f.fid == some fid) = some f ∧ f.cmd = none ∧ s.wgs.get? f.wg = some w ∧ w.active = false :=
  ⟨{ withCtx faulted with wgs := [(3, { wg with active := false })] }, 0, faulted, record, 0, _, rfl, rfl, rfl, rfl, rfl, rfl⟩
/-- R395, R391: RESUMEAT of a trap lane's KIND 8 record ends its trap. -/
theorem test_resumeat : let t := run (.faultAnswerResumeat 0 0 1 0x2000) { withCtx { faulted with faults := [{ record with kind := 8 }] } with
      lanes := [(k0, stopped true)] }
    ((t.lanes.get? k0).map fun l => (l.pc, l.trapLane, l.parks.fault)) = some (0x2000, false, false) ∧ ((t.ctxs.get? 0).map (·.faults)) = some [] := by
  decide +kernel

theorem witness_over : (withCtx { ctx with invals := [{ start := 0, len := 0, after := some [8] }] }).over_ [8] = true ∧
    (requested (req (.slice 0) .flying (.store [1]))).over_ [8] = false := by decide
theorem witness_fault_record_behind : ∃ (v : Ctx) (g : FaultRec), v.room .fault = true ∧ v.faults.find? (fun g => g.fid.isNone) = some g ∧
    ∀ f ∈ v.faults, f.num < base.fresh :=
  ⟨{ faulted with faults := [{ record with fid := none }] }, { record with fid := none }, by decide, rfl, by decide⟩

/-- A transfer of the lane. -/
def jump (m : Maj) (fx : Opnd) (lit a : Word) : Env := at4 lane a { word m .b32 with fx := fx, lit := lit }
theorem witness_transfers : (jump .brx .z 0 0x2001).op.maj ∈ [Maj.bra, .brx, .call, .callx, .ret] ∧ ((jump .brx .z 0 0x2001).src64 .n64 (.g 4)).toNat % 4 ≠ 0 ∧
    ((jump .callx (.g 252) 0 0x2000).src64 .n64 (.g 4)).toNat % 4 = 0 ∧ (jump .callx (.g 252) 0 0x2000).op.fx = .g 252 ∧ (jump .bra .z 0x60 0).op.fx = .z ∧
    ((jump .bra .z 0x60 0).l.pc + 12 + (jump .bra .z 0x60 0).op.lit.signExtend 64).toNat % 4 = 0 := by decide
theorem witness_exit : lane.exited = false ∧ lane.holds = [] ∧ lane.regions = [] ∧ lane.trapLane = false ∧ (∀ x ∈ lane.results, x.err = none) ∧
    (∀ r ∈ base.slreqs, r.lane ≠ k0) ∧ (env lane { word .exit .b32 with hnt := 0x400 }).op.w = true ∧ (env lane (word .exit .b32)).op.w = false := by decide
/-- R176: CALL writes the link and goes on at its target. -/
theorem test_call : (issued { word .call .b32 with fx := .g 252, fy := .z, fz := .z, lit := 0x60 } 0 0).pc = 0x106C ∧
    (issued { word .call .b32 with fx := .g 252, fy := .z, fz := .z, lit := 0x60 } 0 0).reg 252 = 0x100C := by decide +kernel

/-- The state whose 64 MiB from 0 are one page, of a format and with flags of its leaf entry. -/
def paged (typ flags : Byte) (l : Lane) : State := { withCtx { ctx with ptroot := 0x4000 } with
  lanes := [(k0, l)], mem := [(0x4000, 1), (0x4006, 8), (0x8000, 1), (0x8006, 12), (0xC000, flags), (0xC00C, typ)] }
/-- Its lane's environment for a word that names an address. -/
def accessing (typ flags : Byte) (a : Word) (o : Op) : Env :=
  { s := paged typ flags (lane.setReg 4 a), k := k0, l := lane.setReg 4 a, op := { o with fz := .z } }
theorem witness_access_stops : (accessing 0 0x7B 0x101 (word .ld .b32)).s.probeAligned 0 2 (accessing 0 0x7B 0x101 (word .ld .b32)).ea 4
      { rd := true, wr := false } = some (0x01, 0x101) ∧
    (accessing 0 0x7B 0x4000000 (word .atom .b32)).s.probeAligned 0 2 (accessing 0 0x7B 0x4000000 (word .atom .b32)).ea 4 atomNeed = some (0x03, 0x4000000) := by
  decide +kernel
/-- What an access that passes its probe assumes, at the last word of the page. -/
def Passes (e : Env) (probe : Option (Nat × DWord)) (typ : Typ) (cache : Bool) : Prop := probe = none ∧
  ((e.s.locate (e.s.ctxOf e.k) (e.s.gangOf e.k) e.ea).map fun x => (x.key, x.typ, x.cache)) = some (e.ea.toNat, typ, cache) ∧
  (e.s.cluster e.cl).line? (lineOf e.ea.toNat) = none ∧ e.s.reqs = []
theorem witness_access_load : let e := accessing 0 0xFB 0x3FFFFFC (word .ld .b32)
    Passes e (e.s.probeAligned 0 2 e.ea 4 { rd := true, wr := false }) .b32 true ∧ 0 < ldSize e.op := by unfold Passes; decide +kernel
theorem witness_access_store : let e := accessing 0 0x7B 0x3FFFFFC { word .st .b32 with min := 1 }
    Passes e (e.s.probeAligned 0 2 e.ea 4 { rd := false, wr := true }) .b32 false ∧ e.op.min.toNat % 2 = 1 := by unfold Passes; decide +kernel
theorem witness_access_lde : let e := accessing 0xA0 0x7B 0x3FFFFFE (word .lde .f32)
    Passes e (e.s.probeElem 0 2 e.ea false false) .f16 false ∧ Typ.f16.scaled = false ∧ 0 < elemSize .f16 := by unfold Passes; decide +kernel
theorem witness_access_ste : let e := accessing 0xA0 0x7B 0x3FFFFFE (word .ste .f32)
    Passes e (e.s.probeElem 0 2 e.ea true false) .f16 false ∧ Typ.f16.scaled = false ∧ Typ.f16 ≠ .mx4 ∧ steBound e.op = none := by unfold Passes; decide +kernel
theorem witness_access_atomic : let e := accessing 0 0x7B 0x3FFFFFC { word .atom .n32 with min := 32 }
    Passes e (e.s.probeAligned 0 2 e.ea (atomSize e.op) atomNeed) .b32 false ∧ ¬ e.op.min.toNat < 32 := by unfold Passes; decide +kernel
theorem witness_store_whole : (req (.slice 0) .replying (.store [1])).parent = none := by decide

theorem witness_attached : (requested (req (.slice 0) .attached .prefetch)).conflicts (req (.slice 0) .attached .prefetch) = false ∧
    ∀ q ∈ (requested (req (.slice 0) .attached .prefetch)).reqs, q.st ≠ .waiting := by decide
/-- The part with a link up. -/
def linked : State := { base with links := [(17, { Link.init with up := true })] }
theorem witness_device_sluice : linked.dev.up = true ∧ linked.own 0x40000 (deviceSize (.acquire true false)) = some 0x40000 ∧
    deviceAligned (.acquire true false) = true ∧ 0x40000 % deviceSize (.acquire true false) = 0 ∧ 0x40000 / 65536 ∉ linked.dev.retired := by decide
/-- A host's read whose reply may leave. -/
def hostReply : Req := { req (.slice 95) .replying (.unitRead (.host true)) with data := [5, 6] }
theorem witness_host_reply : let s : State := { requested hostReply with slices := [(95, { Slice.init with queue := [8] })] }
    s.reqs.find? (fun q => q.id == 8 && q.st == .replying) = some hostReply ∧ s.reqs.find? (fun q => q.id == 8) = some hostReply ∧ hostReply.id = 8 ∧
    8 ∈ (s.slice 95).queue ∧ hostReply.reply = true ∧ hostReply.acceptedAt + 64 ≤ s.now ∧ ∀ e ∈ s.lanes, ∀ x ∈ e.2.results, x.req ≠ some 8 := by decide
theorem witness_sluices_free : (∀ x ∈ linked.slreqs, x.held = none) ∧ ∀ x ∈ linked.slrels, x.held = none := by decide

/-! ### What the clauses on recovery regions, tasks and queues assume can hold -/

/-- The lane with `n` regions open, at its undo store. -/
def regional (n : Nat) : Lane := { lane with regions := List.replicate n (region 0), undoBase := 0x900000, undoUse := 48 }
/-- The state with it, its workgroup with undo room and a scratchpad. -/
def undoing (l : Lane) (room : Nat) : State := { withLane l with wgs := [(3, { wg with desc := { desc with undo := room, scratch := 65536 } })] }
theorem witness_region : (8 : Nat) ≤ (regional 8).regions.length ∧ ¬ 8 ≤ (regional 7).regions.length ∧ (regional 0).regions = [] ∧
    (undoing (regional 1) 4096).lanes.get? k0 = some (regional 1) := by decide
theorem witness_preserve : ∃ (e : Env) (n : Fin 256), e.s.lanes.get? e.k = some e.l ∧ e.op.maj = .rpres ∧ e.op.fy = .g n ∧ n.val = 4 ∧
    ∃ m : Fin 256, e.op.fz = .g m ∧ m.val = 6 :=
  ⟨{ s := undoing (regional 1) 4096, k := k0, l := regional 1, op := { word .rpres .b32 with min := 2 } }, 4, rfl, rfl, rfl, rfl, 6, rfl, rfl⟩
/-- The lane at an RPRESM of `n` bytes at the start of its scratchpad or at 0. -/
def snapping (n : Word) (high : Word) (room : Nat) : Env :=
  let l := ((regional 1).setReg 5 high).setReg 6 n
  { s := undoing l room, k := k0, l := l, op := word .rpresm .b32 }
theorem witness_snap : let e := snapping 300 0xFFFF00 4096
    e.s.probe (e.s.ctxOf e.k) (e.s.gangOf e.k) (e.src64 .n64 (.g 4)) 300 { rd := true, wr := true } = none ∧ (e.src (.g 6)).toNat = 300 ∧
    e.l.undoUse + snapSize 300 ≤ e.undo ∧ ¬ e.l.undoUse + snapSize 300 ≤ (snapping 300 0xFFFF00 64).undo := by decide +kernel
theorem witness_snap_stops : let e := snapping 300 0 4096
    e.s.probe (e.s.ctxOf e.k) (e.s.gangOf e.k) (e.src64 .n64 (.g 4)) 300 { rd := true, wr := true } = some (0x03, 0) := by decide +kernel
/-- The lane in the wait park of an REND. -/
def closing (e : Option DetErr) (b : Bool) : Lane := { regional 1 with
  err := e, parks := { Parks.none with wait := [.rend 0] }, results := [{ known with silent := b }] }
theorem witness_rend : (closing none true).regions = [region 0] ∧ (closing none true).parks.wait = [.rend 0] ∧ (∀ x ∈ (closing none true).results, x.silent = true) ∧
    ((withLane (closing none true)).setD k0 0).cmds = [] ∧ (∃ x ∈ (closing none false).results, x.silent = false) ∧
    (closing (some { source := 1, code := 0, pc := 0 }) true).err ≠ none ∧ (region 0).tiles = 0 := by
  refine ⟨rfl, rfl, by decide, rfl, by decide, by decide, rfl⟩
theorem witness_rend_tiles : ((withLane (closing none true)).setD k0 0).tiles = [] := rfl
theorem witness_snap_over : ({ regional 1 with parks := { Parks.none with wait := [.snap 0x123 20 [7]] } } : Lane).parks.wait = [.snap 0x123 20 [7]] ∧
    ∀ r ∈ base.reqs, r.id ∉ [7] := by decide
/-- R415, R418: RBEGIN opens a region whose label is 0x60 bytes on, and REND closes it. -/
theorem test_region : (issued { word .rbegin .b32 with fx := .z, fz := .z, lit := 0x60 } 5 0).regions.map (fun r => (r.restart, r.rlim)) = [(0x106C, 5)] ∧
    (((withLane (closing none true)).after (serveWaits k0)).lanes.get? k0).map (·.regions) = some [] := by decide +kernel

/-- The context with one descriptor, and an overflow area of one record a cluster. -/
def tasks : Ctx := { kernelCtx with ovfb := 0x80000, ovfn := 144 }
/-- The lane at a TSPAWN of its record in g16 to g31, with a word of its own and a join counter in its scratchpad or at an address. -/
def spawning (ws : List (Nat × Word)) (c : Cluster) : Env :=
  let l := ws.foldl (fun l w => l.setReg w.1 w.2) lane
  { s := { undoing l 0 with ctxs := [(0, tasks)], clusters := [(0, c)], mem := waiting.mem }, k := k0, l := l,
    op := { word .tspawn .b32 with fx := .p 4, fy := .g 16, fz := .z } }
/-- The counter's address. -/
def counter : List (Nat × Word) := [(18, 0x100), (19, 0xFFFF00)]
/-- A cistern that is full. -/
def full : Cluster := { Cluster.init with cistern := List.replicate 4096 { ctx := 0, words := [], after := [] } }
theorem witness_spawn : let e := spawning counter Cluster.init
    e.l.regions = [] ∧ e.l.spawned = none ∧ ((e.record (.g 16))[0]?).getD 0 = 0 ∧ ((e.record (.g 16))[1]?).getD 0 = 0 ∧ e.s.desc 0 0 ≠ none ∧
    e.s.probeAligned 0 2 0xFFFF0000000100 8 atomNeed = none ∧ (e.s.cluster 0).cistern.length < 4096 ∧ ((e.s.cluster 0).spilled 0).2 = [] := by
  decide +kernel
theorem witness_spawn_stops : 2 ^ 16 ≤ ((((spawning [(16, 0x10000)] Cluster.init).record (.g 16))[0]?).getD 0).toNat ∧
    (spawning [(16, 1)] Cluster.init).s.desc 0 1 = none ∧
    (spawning [(18, 0x101)] Cluster.init).s.probeAligned 0 2 0x101 8 atomNeed = some (0x01, 0x101) := by decide +kernel
theorem witness_spawn_full : 4096 ≤ ((spawning [] full).s.cluster 0).cistern.length ∧ ((((spawning [] full).s.cluster 0).spilled 0).2.length < ((spawning [] full).s.part 0 0).2) ∧
    ∀ x ∈ (spawning [] full).s.lanes, x.2.parks.queue = none := by decide +kernel
theorem witness_spawn_exhausted : let e := spawning [] { Cluster.init with parts := [(0, (0, [[]]))] }
    ((e.s.part 0 0).2 ≤ ((e.s.cluster 0).spilled 0).2.length) ∧ ((e.s.cluster 0).spilled 0).2 ≠ [] := by decide +kernel
/-- A record of a cistern. -/
def task (w : Word) : CRec := { ctx := 0, words := [0, 0, 5, 6, w], after := [] }
theorem witness_take : let s := (spawning [] { Cluster.init with cistern := [task 1, task 2], cisthwSet := 2 }).s
    s.takeable 0 0 = some (task 1, 0) ∧ (task 1).ctx = 0 ∧ s.desc 0 (((task 1).words[0]?).getD 0).toNat ≠ none ∧
    (∀ x ∈ (s.cluster 0).cistern, x.ctx = 0 ∧ x.after = []) ∧ (s.cluster 0).cistern.length ≤ (s.cluster 0).cisthwSet.toNat ∧
    ∀ y ∈ s.lanes, y.2.parks.queue = none := by decide +kernel
theorem witness_take_newest : let s := (spawning [] { Cluster.init with cistern := [task 1, task 2], cisthwSet := 1 }).s
    (s.cluster 0).cisthwSet.toNat < (s.cluster 0).cistern.length ∧ s.takeable 0 0 = some (task 2, 1) := by decide +kernel
theorem witness_take_none : (spawning [] Cluster.init).s.takeable 0 0 = none := by decide +kernel
/-- The lane at a TJOIN or TJWAIT of a counter. -/
def joining (m : Maj) (lo hi : Word) : Env :=
  let l := (lane.setReg 4 lo).setReg 5 hi
  { s := undoing l 0, k := k0, l := l, op := word m .b32 }
theorem witness_counter : let e := joining .tjoin 0x100 0xFFFF00
    e.src64 .n64 (.g 4) = 0xFFFF0000000100 ∧ e.s.probeAligned 0 2 0xFFFF0000000100 8 atomNeed = none ∧ (e.s.at k0 0xFFFF0000000100).isSome = true ∧
    (joining .tjwait 0 0).src64 .n64 (.g 4) = 0 ∧ (joining .tjwait 0x101 0).s.probeAligned 0 2 0x101 8 atomNeed = some (0x01, 0x101) := by decide +kernel
theorem witness_join_park : let s := withLane (parked { Parks.none with queue := some (.join 0x4000 0x4000 [] 3 none) })
    (Map.keys s.lanes).Nodup ∧ s.allPerformed [] = true ∧ s.keyReach 0x4000 = true ∧ s.pieceMoves (lineOf 0x4000) = false ∧ s.homeNum 0x4000 8 = 0 := by
  decide +kernel
/-- The lane that waits to spill a record. -/
def spilling : State := { (spawning [] Cluster.init).s with
  lanes := [(k0, parked { Parks.none with queue := some (.spawn (word .tspawn .b32) [1] none 4 4 []) })] }
theorem witness_spill : spilling.spillers 0 = [(k0, .spawn (word .tspawn .b32) [1] none 4 4 [])] ∧ ((spilling.cluster 0).spilled 0).2.length < (spilling.part 0 0).2 ∧
    spilling.clusterOf k0 = 0 ∧ spilling.allPerformed [] = true := by decide +kernel
/-- The lane at a QPUSH or QPOP of item queue 2047, which holds `n` records of 64. -/
def queueing (m : Maj) (mn : BitVec 6) (n : Nat) : Env :=
  let l := (lane.setReg 4 2047).setReg 6 2047
  { s := { withLane l with queues := [(2047, { cfg := 0x80680000, recs := List.replicate n (77, []), drops := 0 })] }, k := k0, l := l,
    op := { word m .b32 with min := mn } }
theorem witness_queue : let s := (queueing .qpush 0 63).s
    ((queueing .qpush 0 63).src (.g 6)).toNat = 2047 ∧ (s.wq 2047).en = true ∧ (s.wq 2047).item = true ∧ (s.wq 2047).ctx = 0 ∧
    (s.wq 2047).recs.length < (s.wq 2047).depth ∧ s.pushers 2047 = [] ∧ s.poppers 2047 = [] ∧ s.headRec 2047 = some 77 := by decide +kernel
theorem witness_queue_full : let s := (queueing .qpush 1 64).s
    ((s.wq 2047).depth ≤ (s.wq 2047).recs.length) ∧ (queueing .qpop 1 0).s.headRec 2047 = none := by decide +kernel
theorem witness_queue_bad : (base.wq 2047).en = false ∧ (base.wq 2047).item = false ∧ 2047 < 2048 := by decide
/-- R353: QPOP.TRY of an empty queue answers false and zeros; of one that holds a record it takes it. -/
theorem test_qpop : ((((queueing .qpop 1 0).s.after (issueMaj .qpop [queueing .qpop 1 0])).lanes.get? k0).map fun l =>
      (l.results.map fun r => (r.vals.map (·.head?)))) = some [some (some (2, 0))] ∧
    (((queueing .qpop 1 2).s.after (issueMaj .qpop [queueing .qpop 1 2])).wq 2047).recs.length = 1 := by decide +kernel
theorem witness_launch_issue : (env lane (word .launch .b32)).s.lanes.get? k0 = some lane ∧ lane.regions = [] ∧ (regional 1).regions ≠ [] := by decide

/-- R85: a key identifier is the first 8 bytes of a SHA-256, here of the message `abc`, the example of FIPS 180-4. -/
theorem test_key_id : keyId [0x61, 0x62, 0x63] = 0xEACF018FBF1678BA := by decide +kernel

/-! ### Source lines, with the words that the spec gives them (R51 to R61) -/

/-- The first word, as a number, of a code section with these lines. -/
def asmWord (lines : List Char) : Option Nat :=
  match assemble (fun _ _ => none) "" (".section t, code\n".toList ++ lines) with
  | .ok o => (o.secs[0]?).map fun x => natLE x.data
  | .error _ => none
/-- The error of a source. -/
def asmErr (lines : List Char) : Option AsmErr := match assemble (fun _ _ => none) "" lines with
  | .ok _ => none
  | .error e => some e
/-- The bytes of the one section that a source fills. -/
def asmBytes (files : Files) (lines : List Char) : Option (List Nat) := match assemble files "" lines with
  | .ok o => (o.secs[0]?).map fun x => x.data.map (·.toNat)
  | .error _ => none

/-- 02_instruction_word.md: `!p1: IADD.WRAP.S32 g7, g3, 100 ~bp3`. -/
theorem test_line_iadd : asmWord "!p1: IADD.WRAP.S32 g7, g3, 100 ~bp3".toList = some (wordOfParcels 0x00648803 0x0FFF0000 0x00004070).toNat := by decide +kernel
/-- 02_instruction_word.md: `FFMA.RNE.F32 g10, g11, g12, g13 ~hy`. -/
theorem test_line_ffma : asmWord "FFMA.RNE.F32 g10, g11, g12, g13 ~hy".toList = some (wordOfParcels 0x000D0200 0x2C0C0000 0x330240A0).toNat := by decide +kernel
/-- 02_instruction_word.md: `LD.CA.N32 g20, [g4 + g9 + 16] ~w ~el`. -/
theorem test_line_ld : asmWord "LD.CA.N32 g20, [g4 + g9 + 16] ~w ~el".toList = some (wordOfParcels 0x00100480 0x10090000 0x80008140).toNat := by decide +kernel
/-- 02_instruction_word.md, its label 0x6C bytes on: `CALL g252, $ + 0x6C`. -/
theorem test_line_call : asmWord "CALL g252, $ + 0x6C".toList = some (wordOfParcels 0x00600000 0xFBFE0000 0x72000FCF).toNat := by decide +kernel
/-- 02_instruction_word.md: `p2: MZERO m2 ~bp5`. -/
theorem test_line_mzero : asmWord "p2: MZERO m2 ~bp5".toList = some (wordOfParcels 0x00001005 0xFBFE0000 0xA200182F).toNat := by decide +kernel
/-- 02_instruction_word.md: `SLEEP 500`. -/
theorem test_line_sleep : asmWord "SLEEP 500".toList = some (wordOfParcels 0x01F40000 0xFBFE0000 0x78003FEF).toNat := by decide +kernel
/-- 03_assembly_language.md, line 11: `FMUL.RNE.F32 g3, g2, 1.5e0 ~bp2`. -/
theorem test_line_fmul : asmWord "FMUL.RNE.F32 g3, g2, 1.5e0 ~bp2".toList = some (wordOfParcels 0x00000002 0x0BFF3FC0 0x32024030).toNat := by decide +kernel
/-- 07_integer_instructions.md: `ICMP.LT.S32 p3, g8, -1`. -/
theorem test_line_icmp : asmWord "ICMP.LT.S32 p3, g8, -1".toList = some (wordOfParcels 0xFFFF0000 0x23FFFFFF 0x21085030).toNat := by decide +kernel
/-- 08_float_instructions.md: `CVT.F32RTZ.S32 g5, g2`. -/
theorem test_line_cvt : asmWord "CVT.F32RTZ.S32 g5, g2".toList = some (wordOfParcels 0x00000000 0x0BFE0000 0x50944050).toNat := by decide +kernel
/-- 09_census_and_control.md: `LRED.ADD.S32 g5, g4, tag=7 ~w`. -/
theorem test_line_lred : asmWord "LRED.ADD.S32 g5, g4, tag=7 ~w".toList = some (wordOfParcels 0x00000400 0x13FE0070 0x66004050).toNat := by decide +kernel
/-- 11_matrix_instructions.md: `MLOOP m2, g16, g24, ks=4`. -/
theorem test_line_mloop : asmWord "MLOOP m2, g16, g24, ks=4".toList = some (wordOfParcels 0x00040000 0x40180000 0xA3001820).toNat := by decide +kernel
/-- 11_matrix_instructions.md: `MOUT.RNE.BF16 m2, g30, g29, row=0, n=32, bnd=3, be=1`. -/
theorem test_line_mout : asmWord "MOUT.RNE.BF16 m2, g30, g29, row=0, n=32, bnd=3, be=1".toList = some (wordOfParcels 0x9C000000 0x781D0000 0xA602D820).toNat := by decide +kernel
/-- 12_memory_instructions.md: `ACAS.B32 g8, [g4 + g10 + 64] ~w`. -/
theorem test_line_acas : asmWord "ACAS.B32 g8, [g4 + g10 + 64] ~w".toList = some (wordOfParcels 0x00400400 0x100A0000 0x87000080).toNat := by decide +kernel
/-- 15_ditches_and_merge.md: `!p2: SMERGE.KEEPZ.F32 g8, g1, g1, op=0, osel=1`. -/
theorem test_line_smerge : asmWord "!p2: SMERGE.KEEPZ.F32 g8, g1, g1, op=0, osel=1".toList = some (wordOfParcels 0x00209000 0x04010000 0xB4024080).toNat := by decide +kernel
/-- 16_gather_engine.md: `SGATH.RAW s0, z, g3, arr=1, aoff=0`. -/
theorem test_line_sgath : asmWord "SGATH.RAW s0, z, g3, arr=1, aoff=0".toList = some (wordOfParcels 0x00000000 0xF8038000 0xB100190F).toNat := by decide +kernel
/-- 17_work_queues_and_launch.md: `TSPAWN.TRY p4, g32`. -/
theorem test_line_tspawn : asmWord "TSPAWN.TRY p4, g32".toList = some (wordOfParcels 0x00000000 0x83FE0000 0xC8041040).toNat := by decide +kernel
/-- 18_tables.md: `SLBIND g10, g12, g14`. -/
theorem test_line_slbind : asmWord "SLBIND g10, g12, g14".toList = some (wordOfParcels 0x00000000 0x300E0000 0x930000A0).toNat := by decide +kernel
/-- 19_counters_and_weirs.md: `WWAIT [g6 - 0x100], g20`. -/
theorem test_line_wwait : asmWord "WWAIT [g6 - 0x100], g20".toList = some (wordOfParcels 0xFF000000 0x1BFEFFFF 0x9C000140).toNat := by decide +kernel
/-- 19_counters_and_weirs.md: `BAR 3`. -/
theorem test_line_bar : asmWord "BAR 3".toList = some (wordOfParcels 0x00030000 0xFBFE0000 0x96003FEF).toNat := by decide +kernel
/-- 21_recovery_regions.md, its label 96 bytes on: `RBEGIN g30, $ + 96`. -/
theorem test_line_rbegin : asmWord "RBEGIN g30, $ + 96".toList = some (wordOfParcels 0x00540000 0x7BFE0000 0xC0003FE0).toNat := by decide +kernel
/-- R57: a decimal integer is no floating literal, and 1e39 is beyond F32. -/
theorem test_line_refused : asmErr ".section t, code\nFADD.F32 g1, g2, 1".toList = some .range ∧
    asmErr ".section t, code\nFADD.F32 g1, g2, 1e39".toList = some .range := by decide +kernel
/-- R54, R35: check 7 refuses a guard on BAR; R58: two literals of different bits. -/
theorem test_line_checks : asmErr ".section t, code\np1: BAR 0".toList = some (.check 7) ∧
    asmErr ".section t, code\nIADD.S32 g1, 1, 2".toList = some .literals := by decide +kernel
/-- R67: 1, 3, -6, 128 and 0 in DS8; R66: E2M1 codes two to a byte. -/
theorem test_data : asmBytes (fun _ _ => none) ".section d, data\n.ds8 1, 3, -6, 128, 0\n.mx4 0.5, -6, -0.0".toList =
    some [0x07, 0x01, 0x1B, 0x66, 0x77, 0xF1, 0x08] := by decide +kernel
/-- R66: in code `.align` pads with ILLEGAL words: 24 bytes are 2 words, and 48 is the next multiple of 16 and 12. -/
theorem test_align : ((asmBytes (fun _ _ => none) ".section t, code\nEXIT\nEXIT\n.align 16".toList).map fun b => (b.length, b.getD 35 0, b.getD 47 0)) =
    some (48, 255, 255) := by decide +kernel
/-- The template of a byte and of its own number, two files and a conditional (R72). -/
def sourceOfLines : List Char :=
  (".section d, data\n.mac" ++ "ro t, a\nl\\seq: .byte \\a, \\seq\n.endm\nt 5\nt 7\n.if 1 == 2\n.byte 9\n.else\n.include \"b\"\n.endif").toList
/-- R72. -/
theorem test_templates : asmBytes (fun _ p => if p == "b" then some ("b", ".byte 8".toList) else none) sourceOfLines =
    some [5, 0, 7, 1, 8] := by decide +kernel
/-- The source of the example of 03_assembly_language.md. -/
def scaleSource : List Char :=
  (".section weights, const\n.page F32\n.align 128\ntable:  .f32 1.0, 2.0, 3.0\n.section text, code\n.kernel scale\n.lanes 64\n.regs 32\n" ++
    ".prio 2\nLD.CA.N32 g2, [k0 + 8] ~w\nFMUL.RNE.F32 g3, g2, 1.5e0\nEXIT\n.endk\n.global scale").toList
/-- Its object (04_object_format.md). -/
def scaleFile : List Byte := match assemble (fun _ _ => none) "" scaleSource with
  | .ok o => o.file
  | .error _ => []
/-- The file of `scale`: 400 bytes; SECOFF, SYMOFF, SYMN, STROFF, STRSZ and KDOFF; the first section; its contents; the descriptor. -/
theorem test_scale_file : scaleFile.length = 400 ∧
    [16, 20, 24, 28, 32, 44].map (numAt scaleFile · 4) = [72, 184, 5, 304, 26, 336] ∧
    [72, 84, 88].map (numAt scaleFile · 4) = [1, 136, 12] ∧ [76, 77, 79].map (numAt scaleFile · 1) = [2, 0x19, 7] ∧
    numAt scaleFile 136 12 = 0x40400000_40000000_3F800000 ∧ numAt scaleFile 148 12 = (wordOfParcels 0x00080402 0x43FE0000 0x80008024).toNat ∧
    [336, 344, 346, 347, 356, 364].map (numAt scaleFile · 1) = [0, 64, 1, 4, 2, 20] := by decide +kernel
/-- A file is read back as the object it was made from. -/
theorem test_scale_read : (match assemble (fun _ _ => none) "" scaleSource, readObj scaleFile with
    | .ok o, .ok p => o == p
    | _, _ => false) = true := by decide +kernel
/-- The relocation of the end of 04_object_format.md: `helper` at 0x20010040, the word at 0x20000030. -/
theorem test_relocation : (ORel.value { offset := 0x30, sect := 1, type := 10, sym := 1, addend := 0 } 0x20010040 none 0x20000030) =
    (0x00010004, true) := by decide +kernel
/-- A line of O60 assembles. -/
theorem witness_lines_assemble : (match lineWord { value := fun _ => .error .place, ditch := fun _ => none, code := fun _ => false } none 2 4 (1, 0) "EXIT".toList [] with
    | .ok (w, _) => w == wordOfParcels 0x00000002 0xFBFE0000 0x75003FEF
    | .error _ => false) = true := by decide +kernel

end Sys2Proof.Tests
end

section
/-! PROOFS. What a step is: how the cycles that pass before it change the state, and what its meaning leaves alone. -/

namespace Sys2Proof

/-- A change of values that keeps the keys changes what each key leads to. -/
theorem Map.get?_map_of_fst_eq {κ α : Type} [DecidableEq κ] (m : Map κ α) (f : κ × α → κ × α) (hf : ∀ e, (f e).1 = e.1) (k : κ) :
    Map.get? (m.map f : Map κ α) k = (Map.get? m k).map fun v => (f (k, v)).2 := by
  induction m with
  | nil => rfl
  | cons e m ih =>
    obtain ⟨a, v⟩ := e
    simp only [List.map_cons, Map.get?, hf]
    split
    · next h => subst h; rfl
    · exact ih

namespace Machine

/-! ### Time -/

/-- Two states with the same cycle count, step number and agenda. -/
def SameTime (s t : State) : Prop := t.now = s.now ∧ t.tick = s.tick ∧ t.agenda = s.agenda

/-- No primitive update moves time; a device reset keeps it by name (R436). -/
theorem sameTime_apply (s : State) (u : Upd) : SameTime s (u.apply s) := by
  cases u <;> exact ⟨rfl, rfl, rfl⟩

theorem SameTime.trans {s t r : State} (h : SameTime s t) (g : SameTime t r) : SameTime s r := by
  obtain ⟨hnow, htick, hagenda⟩ := h
  obtain ⟨gnow, gtick, gagenda⟩ := g
  exact ⟨gnow.trans hnow, gtick.trans htick, gagenda.trans hagenda⟩

theorem sameTime_after (s : State) (a : Act) : SameTime s (s.after a) :=
  after_inv (P := SameTime s) (fun t u h => h.trans (sameTime_apply t u)) a s ⟨rfl, rfl, rfl⟩

theorem sameTime_settled (s : State) : SameTime s s.settled := sameTime_after s settle

/-! ### The step that comes next -/

theorem step_of_agenda_cons {s : State} {d : Nat} {i : Instr} {rest : List (Nat × Instr)} (h : s.agenda = (d, i) :: rest) :
    step s = exec i (State.elapse { s with tick := s.tick + 1, agenda := rest } d) := by
  simp only [step, State.advance, State.nextStep, h, List.tail_cons]

theorem step_of_agenda_nil {s : State} (h : s.agenda = []) :
    step s = exec (Config.freeStep s.tick).2 (State.elapse { s with tick := s.tick + 1 } (Config.freeStep s.tick).1) := by
  simp only [step, State.advance, State.nextStep, h, List.tail_nil]

/-! ### Cycles that pass -/

@[simp] theorem elapse_zero (s : State) : s.elapse 0 = s := rfl

/-- Cycles that pass change the cycle count, the clusters and the note of the ready lanes (R169) alone. -/
theorem elapse_frame (s : State) {n : Nat} (h : 0 < n) :
    s.elapse n = { s with
      now := s.now + n, clusters := (s.elapse n).clusters,
      ready := ({ s with now := s.now + n, clusters := (s.elapse n).clusters } : State).readyNow } := by
  simp only [State.elapse, h.ne', if_false]

/-- THROT of each cluster counts the cycles that the arbiter removes of it (R373); a cluster that has never changed has none removed. -/
theorem cluster_elapse (s : State) {n : Nat} (h : 0 < n) (c : Nat) :
    (s.elapse n).cluster c = { s.cluster c with throt := (s.cluster c).throt +
      if (s.cluster c).cut = 0 then 0 else BitVec.ofNat 32 (removed (s.cluster c).cut c s.now n) } := by
  simp only [State.cluster, Map.getD, State.elapse, h.ne', if_false]
  rw [Map.get?_map_of_fst_eq _ _ fun e => by split <;> rfl]
  obtain hnone | ⟨v, hv⟩ := Option.eq_none_or_eq_some (s.clusters.get? c)
  · simp [hnone, Cluster.init]
  · simp only [hv, Option.map_some, Option.getD_some]
    split <;> simp

end Machine

open Machine

/-- Settles O5: every meaning answers what an action leaves, settled, and no update that actions are made of moves time. -/
theorem meaningsKeepTime : Obligations.MeaningsKeepTime := by
  unfold Obligations.MeaningsKeepTime
  intro i s s' h
  obtain ⟨a, ha⟩ := exec_next i s
  have hs : (s.after a).settled = s' := Host.Outcome.next.inj (ha.symm.trans h)
  exact hs ▸ (sameTime_after s a).trans (sameTime_settled (s.after a))

/-- Settles O1, by the two forms of the agenda and by what `State.elapse` does to each cluster. -/
theorem stepRunsTheNextInstruction : Obligations.StepRunsTheNextInstruction := by
  unfold Obligations.StepRunsTheNextInstruction
  refine ⟨fun s d i rest h => step_of_agenda_cons h, fun s h => step_of_agenda_nil h, elapse_zero, ?_⟩
  intro s n hn
  exact ⟨elapse_frame s hn, cluster_elapse s hn⟩

end Sys2Proof
end

section
/-! PROOFS. MATRIX_K_STEP and MOUT_ROW (R193, R207, R218, R223): what each leaves in every branch in which no check fails and no
arming waits, and from that what they answer. -/

namespace Sys2Proof.Machine

open Sys2Proof

/-! ### Commands and tiles of a core -/

theorem core_set_self (s : State) (n : Nat) (c : Core) :
    State.core { s with cores := s.cores.set n c } n = c := Map.getD_set_self s.cores n c Core.init

/-- Two changes of one core are one. -/
theorem after_updCore_updCore (s : State) (n : Nat) (f g : Core → Core) :
    (s.after (updCore n f)).after (updCore n g) = s.after (updCore n fun c => g (f c)) := by
  simp only [after_updCore, core_set_self, Map.set_set]

/-- Flags go to a crew, so they may as well be set before a core changes. -/
theorem after_updCore_setFlags (s : State) (n : Nat) (f : Core → Core) (k : LaneId) (fl : BitVec 7) :
    (s.after (updCore n f)).after (setFlags k fl) = (s.after (setFlags k fl)).after (updCore n f) := by
  rw [after_setFlags_frame, after_setFlags_congr s (s.after (updCore n f)) k fl rfl rfl rfl, after_setFlags_frame s k fl]
  rfl

/-- The products of a step leave the arming as it is (R423). -/
@[simp] theorem tileStep_arm (s : State) (t : Tile) (m : MCmd) (l : Loop) (r : StepReads) :
    (tileStep s t m l r).1.arm = t.arm := rfl

/-- No loop of the core that is ready was accepted before a command (R207). -/
def FirstReady (s : State) (core : Nat) (m : MCmd) : Prop :=
  ∀ x ∈ (s.core core).mq.takeWhile (fun x => x.id != m.id),
    x.accepted = true → (s.core core).head? x.tile = some x → s.stepReady x = false

/-- `FirstReady` as MATRIX_K_STEP tests it. -/
theorem FirstReady.none_earlier {s : State} {core : Nat} {m : MCmd} (h : FirstReady s core m) :
    ((s.core core).mq.takeWhile fun x => x.id != m.id).any
      (fun x => x.accepted && (s.core core).head? x.tile == some x && s.stepReady x) = false := by
  rw [List.any_eq_false]
  intro x hx hready
  simp only [Bool.and_eq_true, beq_iff_eq] at hready
  obtain ⟨⟨hacc, hhead⟩, hstep⟩ := hready
  exact absurd hstep (by simp [h x hx hacc hhead])

/-! ### MATRIX_K_STEP -/

section KStep

variable {s : State} {core tile : Nat} {m : MCmd} {l : Loop}

/-- A loop with an operand that faults stops in a KIND 4 record (R220). -/
theorem after_stepKStep_fault {cause : Nat} {addr : DWord} (hhead : (s.core core).head? tile = some m) (hkind : m.kind = .loop l)
    (hready : s.loopReady m = true) (hfault : l.fault s m = some (cause, addr)) :
    s.after (stepKStep core tile) = (s.after (updMCmd core m.id fun x => { x with begun := true })).after
      (unitFault 4 core m.id (m.prog + tile * 2 ^ 16) m.lane m.pc cause addr fun n =>
        updMCmd core m.id fun x => { x with stopped := some n }) := by
  rw [after_eq]
  simp only [stepKStep, hhead, hkind, hready, hfault, Bool.not_true, Bool.false_eq_true, if_false]
  rw [← after_eq, after_all_cons, after_all_cons, after_all_nil]

/-- A loop that lacks operands asks for the lines that it has not asked for (R261, R328). -/
theorem after_stepKStep_asks (hhead : (s.core core).head? tile = some m) (hkind : m.kind = .loop l)
    (hready : s.loopReady m = true) (hfault : l.fault s m = none) (hlacks : l.lacks s m ≠ []) :
    s.after (stepKStep core tile) = s.after
      (askLines (.matrix core m.id) (core / 4) m.lane m.pc m.ch (s.unasked (.matrix core m.id) m.got (l.lacks s m))) := by
  have hsome : (!(l.lacks s m).isEmpty) = true := by simp [hlacks]
  rw [after_eq]
  simp only [stepKStep, hhead, hkind, hready, hfault, hsome, Bool.not_true, Bool.false_eq_true, if_false, if_true]
  rw [← after_eq]

/-- The command after a step that is not the last. -/
def MCmd.stepped (m : MCmd) (prog : Nat) : MCmd := { m with begun := true, prog := prog, got := [] }

/-- What a step does where no check fails and no arming waits: the tile's new rows and progress, the note of the core's one step in a
cycle (R12), the flags, and the command's progress or its end (R218). -/
def takeKStep (core tile : Nat) (m : MCmd) (out : Tile × BitVec 7 × List TRow) (last : Bool) (now : Nat) : Act := Act.all [
  updTile core tile fun _ => { out.1 with prog := if last then 0 else m.prog + 1 },
  updCore core fun c => { c with stepAt := some now },
  setFlags m.lane out.2.1,
  updMq core fun q => if last then q.filter (fun x => x.id != m.id)
    else q.map fun x => if x.id = m.id then x.stepped (m.prog + 1) else x]

/-- A loop takes its step when its operands have arrived, it is the first that is ready, and the core is free to step (R12, R207). -/
theorem after_stepKStep_takes (hhead : (s.core core).head? tile = some m) (hkind : m.kind = .loop l)
    (hready : s.loopReady m = true) (hfault : l.fault s m = none) (hlacks : l.lacks s m = [])
    (hstepAt : (s.core core).stepAt ≠ some s.now) (hcut : s.cutNow (core / 4) = false) (hfirst : FirstReady s core m)
    (hgood : (tileStep s ((s.core core).tile tile) m l (l.reads s m)).2.2 = []) (harm : ((s.core core).tile tile).arm = none)
    (hrows : l.ks ≤ m.prog + 1 → ∀ r ∈ (tileStep s ((s.core core).tile tile) m l (l.reads s m)).1.rows, r.fails = false) :
    s.after (stepKStep core tile) = s.after (takeKStep core tile m (tileStep s ((s.core core).tile tile) m l (l.reads s m))
      (decide (l.ks ≤ m.prog + 1)) s.now) := by
  have hnow : ((s.core core).stepAt == some s.now) = false := by simpa using hstepAt
  have hprog : (tileStep s ((s.core core).tile tile) m l (l.reads s m)).1.prog = m.prog + 1 := rfl
  have harm' : (tileStep s ((s.core core).tile tile) m l (l.reads s m)).1.arm = none := by rw [tileStep_arm, harm]
  rw [after_eq]
  simp only [stepKStep, hhead, hkind, hready, hfault, hlacks, hfirst.none_earlier, hnow, hcut]
  generalize tileStep s ((s.core core).tile tile) m l (l.reads s m) = out at *
  obtain ⟨⟨owner, freeing, bound, rows, evt, prog, lastG, arm⟩, fl, bad⟩ := out
  simp only at hgood harm' hrows hprog
  subst hgood harm' hprog
  by_cases hlast : l.ks ≤ m.prog + 1
  · have hfails : rows.filter (·.fails) = [] := by simpa using hrows hlast
    simp only [takeKStep, hlast, hfails, decide_true, if_true, List.isEmpty_nil, Bool.not_true, Bool.false_eq_true, if_false,
      Bool.or_false, Option.filter_none, List.append_nil]
    rw [← after_eq]
    simp only [after_all_cons, after_when, Bool.false_eq_true, if_false]
    rfl
  · simp only [takeKStep, hlast, decide_false, if_false, List.isEmpty_nil, Bool.not_true, Bool.false_eq_true, Bool.or_false,
      List.append_nil]
    rw [← after_eq]
    simp only [after_all_cons, after_when, Bool.false_eq_true, if_false]
    rfl

/-- The step's changes: the flags of the crew, and one new value of the core. -/
theorem after_takeKStep (s : State) (core tile : Nat) (m : MCmd) (out : Tile × BitVec 7 × List TRow) (last : Bool) (now : Nat) :
    s.after (takeKStep core tile m out last now) = { s with
      crews := (s.after (setFlags m.lane out.2.1)).crews,
      cores := s.cores.set core { s.core core with
        tiles := (s.core core).tiles.set tile { out.1 with prog := if last then 0 else m.prog + 1 },
        stepAt := some now,
        mq := if last then (s.core core).mq.filter (fun x => x.id != m.id)
          else (s.core core).mq.map fun x => if x.id = m.id then x.stepped (m.prog + 1) else x } } := by
  simp only [takeKStep, updTile, updMq, after_all_cons, after_all_nil, after_updCore_updCore, after_updCore_setFlags]
  rw [after_setFlags_frame]
  rfl

end KStep

/-! ### MOUT_ROW -/

/-- The rows that a readout works on: those that it found when it began (R223). -/
def State.readoutRows (s : State) (core tile : Nat) (m : MCmd) (o : Out) : List TRow :=
  if m.begun then m.snap else (((s.core core).tile tile).rows.drop o.row).take o.n

/-- The places of a readout's next row, or why they cannot be written. -/
def State.readoutPlaces (s : State) (m : MCmd) (o : Out) : List (Except (Nat × DWord) (List Loc)) :=
  (List.range 32).map fun j => s.writable m.lane m.id o.typ (o.elem m.prog j)

/-- The values of a readout's next row, its flags, and whether a bound traps. -/
def State.readoutRow (s : State) (core tile : Nat) (m : MCmd) (o : Out) : List Nat × BitVec 7 × Bool :=
  outRow o (((s.readoutRows core tile m o)[m.prog]?).getD TRow.none) (List.range 32)

/-- A readout leaves its queue once every store of it is performed. -/
def finishReadout (core id : Nat) : Act := Act.read fun t => Act.when (t.unitDone (.matrix core id)) (dropCmd core id)

theorem after_finishReadout (s : State) (core id : Nat) :
    s.after (finishReadout core id) = if s.unitDone (.matrix core id) = true then s.after (dropCmd core id) else s := by
  rw [finishReadout, after_read, after_when]

/-- A row is sent to be stored: its stores, the bytes of earlier readouts that they supersede, its flags, and the readout's progress
(R223, R224). -/
def sendRow (core : Nat) (m : MCmd) (rows : List TRow) (fl : BitVec 7) (puts : List Put) : Act := fun s => Act.all [
  storeUnit (.matrix core m.id) (core / 4) m.lane m.pc 0 m.skip (s.outWrites (puts.map fun w => lineOf w.at_.key)) puts,
  supersedeOut m.arr (puts.flatMap Put.keys),
  setFlags m.lane fl,
  updMCmd core m.id fun x => { x with begun := true, prog := m.prog + 1, snap := rows }] s

theorem after_sendRow (s : State) (core : Nat) (m : MCmd) (rows : List TRow) (fl : BitVec 7) (puts : List Put) :
    s.after (sendRow core m rows fl puts) = (((s.after
      (storeUnit (.matrix core m.id) (core / 4) m.lane m.pc 0 m.skip (s.outWrites (puts.map fun w => lineOf w.at_.key)) puts)).after
      (supersedeOut m.arr (puts.flatMap Put.keys))).after (setFlags m.lane fl)).after
      (updMCmd core m.id fun x => { x with begun := true, prog := m.prog + 1, snap := rows }) := by
  rw [after_eq, sendRow, ← after_eq]
  simp only [after_all_cons, after_all_nil]

section MoutRow

variable {s : State} {core tile : Nat} {m : MCmd} {o : Out}

/-- A readout whose rows are all sent waits for its stores. -/
theorem after_stepMoutRow_sent (hhead : (s.core core).head? tile = some m) (hkind : m.kind = .out o) (hstop : m.stopped = none)
    (hafter : s.allPerformed m.after = true) (hsent : o.n ≤ m.prog) :
    s.after (stepMoutRow core tile) = s.after (finishReadout core m.id) := by
  rw [after_eq]
  simp only [stepMoutRow, hhead, hkind, hstop, hafter, hsent, Option.isSome_none, Bool.not_true, Bool.or_false, Bool.false_eq_true,
    if_false, if_true]
  rw [← after_eq, finishReadout, after_read]

/-- A row of a readout with no check failing, every place writable and no bound trapping is sent; after the last one the readout may
finish (R223, R224). -/
theorem after_stepMoutRow_sends (hhead : (s.core core).head? tile = some m) (hkind : m.kind = .out o) (hstop : m.stopped = none)
    (hafter : s.allPerformed m.after = true) (hmore : m.prog < o.n)
    (hgood : m.begun = true ∨ ∀ r ∈ s.readoutRows core tile m o, r.fails = false)
    (htrap : (s.readoutRow core tile m o).2.2 = false) (hplaces : firstCause (failures (s.readoutPlaces m o)) = none) :
    s.after (stepMoutRow core tile) = (s.after (sendRow core m (s.readoutRows core tile m o) (s.readoutRow core tile m o).2.1
      (o.puts m.prog (s.readoutRow core tile m o).1 (okLocs (s.readoutPlaces m o))))).after
        (Act.when (decide (o.n ≤ m.prog + 1)) (finishReadout core m.id)) := by
  have hbad : (if m.begun = true then [] else (s.readoutRows core tile m o).filter (·.fails)) = [] := by
    rcases hgood with hbegun | hrows
    · simp [hbegun]
    · simpa using fun _ => hrows
  simp only [State.readoutRow, State.readoutRows, State.readoutPlaces] at htrap hplaces hbad ⊢
  rw [after_eq]
  simp only [stepMoutRow, hhead, hkind, hstop, hafter, Nat.not_le.2 hmore, hbad, htrap, hplaces, Option.isSome_none, List.isEmpty_nil,
    Bool.not_true, Bool.or_false, Bool.false_eq_true, if_false]
  rw [← after_eq]
  simp only [after_all_cons, after_all_nil, after_sendRow, after_when, Bool.false_eq_true, if_false]
  rfl

end MoutRow

/-! ### What the steps answer -/

theorem exec_matrixKStep (s : State) (core tile : Nat) : exec (.matrixKStep core tile) s = .next (s.after (stepKStep core tile)).settled := rfl

theorem exec_moutRow (s : State) (core tile : Nat) : exec (.moutRow core tile) s = .next (s.after (stepMoutRow core tile)).settled := rfl

end Sys2Proof.Machine

namespace Sys2Proof

open Machine

/-- Settles O53, by the branches of MATRIX_K_STEP and MOUT_ROW. -/
theorem loopsAndReadoutsRun : Obligations.LoopsAndReadoutsRun := by
  unfold Obligations.LoopsAndReadoutsRun
  intro s core m c t hhead
  constructor
  case left =>
    intro l hkind hready
    refine ⟨?faults, ?asks, ?takes⟩
    case faults =>
      intro cause addr hfault
      rw [exec_matrixKStep, after_stepKStep_fault hhead hkind hready hfault]
    case asks =>
      intro hfault hlacks
      rw [exec_matrixKStep, after_stepKStep_asks hhead hkind hready hfault hlacks]
    case takes =>
      intro hfault hlacks hstepAt hcut hfirst out hgood harm hrows
      rw [exec_matrixKStep, after_stepKStep_takes hhead hkind hready hfault hlacks hstepAt hcut hfirst hgood harm hrows,
        after_takeKStep]
      simp only [decide_eq_true_eq]
      rfl
  case right =>
    intro o hkind hstop hafter done
    refine ⟨?sent, ?sends⟩
    case sent =>
      intro hsent
      rw [exec_moutRow, after_stepMoutRow_sent hhead hkind hstop hafter hsent, after_finishReadout]
    case sends =>
      intro rows out places puts hmore hgood htrap hplaces u
      rw [exec_moutRow, after_stepMoutRow_sends hhead hkind hstop hafter hmore hgood htrap hplaces, after_when, after_finishReadout,
        after_sendRow]
      simp only [decide_eq_true_eq]
      rfl

end Sys2Proof
end

section
/-! PROOFS. The instruction word (R24, R29, R43 to R46, R48): the codes of majors, types and operands and their inverses, the fields
and the word that they make, and from that what a word decodes to. -/

namespace Sys2Proof

/-! ### Codes -/

@[simp] theorem Maj.ofCode_code (m : Maj) : Maj.ofCode m.code = some m := by cases m <;> rfl

theorem Maj.code_lt (m : Maj) : m.code < 256 := by cases m <;> decide

theorem Maj.code_of_ofCode (c : BitVec 8) {m : Maj} (h : Maj.ofCode c.toNat = some m) : m.code = c.toNat := by
  have hall : ∀ i : Fin 256, (Maj.ofCode i.val).all (fun m => m.code == i.val) = true := by decide +kernel
  simpa [h] using hall ⟨c.toNat, c.isLt⟩

@[simp] theorem Typ.ofCode_code (t : Typ) : Typ.ofCode t.code = t := by cases t <;> rfl

theorem Typ.code_lt (t : Typ) : t.code < 16 := by cases t <;> decide

theorem Typ.code_ofCode (c : BitVec 4) : (Typ.ofCode c.toNat).code = c.toNat := by
  have hall : ∀ i : Fin 16, (Typ.ofCode i).code = i := by decide
  exact hall ⟨c.toNat, c.isLt⟩

theorem SReg.code_range (r : SReg) : 0x140 ≤ r.code ∧ r.code ≤ 0x153 := by cases r <;> decide

theorem SReg.ofCode_code (r : SReg) : SReg.ofCode r.code = some r := by cases r <;> rfl

theorem SReg.code_of_ofCode {c : Nat} {r : SReg} (h : SReg.ofCode c = some r) : r.code = c := by
  unfold SReg.ofCode at h
  split at h <;> cases h <;> rfl

@[simp] theorem Opnd.ofCode_code (o : Opnd) : Opnd.ofCode o.code = some o := by
  cases o with
  | g n => revert n; decide +kernel
  | p n | k n | m n | s n | f n => revert n; decide
  | sr r => cases r <;> rfl
  | z | lit => rfl

theorem Opnd.code_of_ofCode (c : BitVec 10) {o : Opnd} (h : Opnd.ofCode c.toNat = some o) : o.code = c.toNat := by
  have hall : ∀ i : Fin 1024, (Opnd.ofCode i.val).all (fun o => o.code == i.val) = true := by decide +kernel
  simpa [h] using hall ⟨c.toNat, c.isLt⟩

theorem Opnd.code_lt (o : Opnd) : o.code < 1024 := by
  cases o with
  | sr r => exact lt_of_le_of_lt r.code_range.2 (by decide)
  | g n | p n | k n | m n | s n | f n => have := n.isLt; simp only [Opnd.code]; omega
  | z | lit => decide

/-! ### Fields -/

/-- The number of a word put in front of another. -/
theorem toNat_append_eq {n m : Nat} (x : BitVec n) (y : BitVec m) : (x ++ y).toNat = x.toNat * 2 ^ m + y.toNat := by
  rw [BitVec.toNat_append, ← Nat.shiftLeft_add_eq_or_of_lt y.isLt, Nat.shiftLeft_eq]

theorem packFields_toNat (f : Fields) : (packFields f).toNat =
    f.maj.toNat * 2 ^ 88 + f.min.toNat * 2 ^ 82 + f.typ.toNat * 2 ^ 78 + f.fx.toNat * 2 ^ 68 + f.fy.toNat * 2 ^ 58 +
      f.fz.toNat * 2 ^ 48 + f.lit.toNat * 2 ^ 16 + f.grd.toNat * 2 ^ 11 + f.hnt.toNat := by
  simp only [packFields, toNat_append_eq]
  ring

theorem packFields_fieldsOf (w : BitVec 96) : packFields (fieldsOf w) = w := by
  apply BitVec.eq_of_toNat_eq
  have := w.isLt
  simp only [packFields_toNat, fieldsOf, BitVec.extractLsb'_toNat, Nat.shiftRight_eq_div_pow]
  omega

theorem fieldsOf_packFields (f : Fields) : fieldsOf (packFields f) = f := by
  obtain ⟨maj, min, typ, fx, fy, fz, lit, grd, hnt⟩ := f
  simp only [fieldsOf, Fields.mk.injEq]
  refine ⟨?_, ?_, ?_, ?_, ?_, ?_, ?_, ?_, ?_⟩ <;>
  · apply BitVec.eq_of_toNat_eq
    simp only [BitVec.extractLsb'_toNat, Nat.shiftRight_eq_div_pow, packFields_toNat]
    omega
/-! ### Instructions and their fields -/

@[simp] theorem Op.fields_maj_toNat (o : Op) : o.fields.maj.toNat = o.maj.code := Nat.mod_eq_of_lt o.maj.code_lt

@[simp] theorem Op.fields_typ_toNat (o : Op) : o.fields.typ.toNat = o.typ.code := Nat.mod_eq_of_lt o.typ.code_lt

@[simp] theorem Op.fields_fx_toNat (o : Op) : o.fields.fx.toNat = o.fx.code := Nat.mod_eq_of_lt o.fx.code_lt

@[simp] theorem Op.fields_fy_toNat (o : Op) : o.fields.fy.toNat = o.fy.code := Nat.mod_eq_of_lt o.fy.code_lt

@[simp] theorem Op.fields_fz_toNat (o : Op) : o.fields.fz.toNat = o.fz.code := Nat.mod_eq_of_lt o.fz.code_lt

/-- An instruction whose parts have the codes of a word's fields has these fields. -/
theorem Op.fields_eq {f : Fields} {m : Maj} {ox oy oz : Opnd} (hm : Maj.ofCode f.maj.toNat = some m) (hx : Opnd.ofCode f.fx.toNat = some ox)
    (hy : Opnd.ofCode f.fy.toNat = some oy) (hz : Opnd.ofCode f.fz.toNat = some oz) :
    Op.fields ⟨m, f.min, Typ.ofCode f.typ.toNat, ox, oy, oz, f.lit, f.grd, f.hnt⟩ = f := by
  simp only [Op.fields, Maj.code_of_ofCode _ hm, Typ.code_ofCode, Opnd.code_of_ofCode _ hx, Opnd.code_of_ofCode _ hy,
    Opnd.code_of_ofCode _ hz, BitVec.ofNat_toNat, BitVec.setWidth_eq]

theorem encode_eq_iff (o : Op) (w : BitVec 96) : encode o = w ↔ o.fields = fieldsOf w := by
  constructor
  · rintro rfl
    exact (fieldsOf_packFields o.fields).symm
  · intro h
    rw [encode, h, packFields_fieldsOf]

/-- What a word with the fields of an instruction decodes to: the instruction, where it passes the checks of R48. -/
theorem decode_eq_of_fields {regs : Nat} {w : BitVec 96} {o : Op} (h : o.fields = fieldsOf w) (hwf : o.wf regs = true) :
    decode regs w = .ok o := by
  simp only [Op.wf, Op.minTypOk, Op.fixedOk, Op.operandsOk, Bool.and_eq_true] at hwf
  obtain ⟨⟨hmin, hfixed⟩, hopnds⟩ := hwf
  have hmin' : minTypOk o.maj o.fields.min.toNat o.typ = true := hmin
  simp only [decode, ← h, Op.fields_maj_toNat, Op.fields_typ_toNat, Op.fields_fx_toNat, Op.fields_fy_toNat, Op.fields_fz_toNat,
    Maj.ofCode_code, Typ.ofCode_code, Opnd.ofCode_code, hmin', hfixed, hopnds, Bool.not_true, Bool.false_eq_true, if_false]
  rfl

/-- A word that decodes has passed the checks of R48, and has the fields of what it decodes to. -/
theorem wf_and_fields_of_decode {regs : Nat} {w : BitVec 96} {o : Op} (h : decode regs w = .ok o) :
    o.wf regs = true ∧ o.fields = fieldsOf w := by
  simp only [decode] at h
  split at h
  · cases h
  next m hm =>
    split_ifs at h with hmin hfixed
    split at h
    next ox oy oz hx hy hz =>
      split_ifs at h with hopnds
      cases h
      have hfields := Op.fields_eq hm hx hy hz
      rw [Bool.not_eq_true', Bool.not_eq_false] at hmin hfixed hopnds
      refine ⟨?_, hfields⟩
      simp only [Op.wf, Op.minTypOk, Op.fixedOk, Op.operandsOk, hfields, hmin, hfixed, hopnds, Bool.and_self]
    · cases h

end Sys2Proof

namespace Sys2Proof

/-- Settles O7: the checks of the decoder are those of `Op.wf`, and an instruction and the word of its fields determine each other. -/
theorem decodeIffEncode : Obligations.DecodeIffEncode := by
  unfold Obligations.DecodeIffEncode
  intro regs w o
  rw [encode_eq_iff]
  exact ⟨wf_and_fields_of_decode, fun ⟨hwf, hfields⟩ => decode_eq_of_fields hfields hwf⟩

/-- Settles O9: no major has the code 0xFF. -/
theorem majorFFIsIllegal : Obligations.MajorFFIsIllegal := by
  unfold Obligations.MajorFFIsIllegal
  intro regs w h
  have hnone : Maj.ofCode (fieldsOf w).maj.toNat = none := by rw [fieldsOf, h]; rfl
  simp only [decode, hnone]

/-- Settles O10: the fields MAJ, MIN and TYP of a word stand next to each other. -/
theorem classKeyIsTopBits : Obligations.ClassKeyIsTopBits := by
  unfold Obligations.ClassKeyIsTopBits
  intro regs w o h
  have hkey : o.key = (w.extractLsb' 88 8).toNat * 1024 + (w.extractLsb' 82 6).toNat * 16 + (w.extractLsb' 78 4).toNat := by
    obtain ⟨-, hfields⟩ := wf_and_fields_of_decode h
    have hmin : o.min = w.extractLsb' 82 6 := congrArg Fields.min hfields
    rw [Op.key, ← o.fields_maj_toNat, ← o.fields_typ_toNat, hfields, hmin]
    rfl
  refine ⟨?_, hkey⟩
  rw [hkey]
  simp only [BitVec.extractLsb'_toNat, Nat.shiftRight_eq_div_pow]
  omega

/-- Settles O8: the words of IADD, CVT and RBEGIN, decoded. -/
theorem knownWordsDecode : Obligations.KnownWordsDecode := by
  unfold Obligations.KnownWordsDecode
  exact ⟨Tests.test_decode_iadd, Tests.test_decode_cvt, Tests.test_decode_rbegin⟩

end Sys2Proof
end

section
/-! PROOFS. Quiet states: each stage of what follows from a step at once (`settle`) changes nothing in them. -/

namespace Sys2Proof.Machine

open Sys2Proof

/-- An action that makes no update in a state. -/
theorem after_of_nil {s : State} {a : Act} (h : a s = []) : s.after a = s := by
  rw [after_eq, h, applyAll_nil]

/-- Actions in order none of which changes the state. -/
theorem after_all_id (s : State) (as : List Act) (h : ∀ a ∈ as, s.after a = s) : s.after (Act.all as) = s := by
  rw [← List.map_id as]
  exact after_each_id s as id h

/-- An action for each key of a map that the state gives, where none of them changes the state. -/
theorem after_eachKey_id {κ α : Type} (s : State) (m : State → Map κ α) (f : State → κ → Act) (h : ∀ e ∈ m s, s.after (f s e.1) = s) :
    s.after (fun t => Act.each ((m t).map (·.1)) (f t) t) = s := after_each_id s ((m s).map (·.1)) (f s) (List.forall_mem_map.2 h)

/-- An action for each element of a list that the state gives, where none of them changes the state. -/
theorem after_eachOf_id {α : Type} (s : State) (xs : State → List α) (f : State → α → Act) (h : ∀ x ∈ xs s, s.after (f s x) = s) :
    s.after (fun t => Act.each (xs t) (f t) t) = s := after_each_id s (xs s) (f s) h

/-- An action for the elements that have a property which none has. -/
theorem after_eachFilter_id {α : Type} (s : State) (xs : State → List α) (p : State → α → Bool) (f : State → α → Act)
    (h : ∀ x ∈ xs s, p s x = false) : s.after (fun t => Act.each ((xs t).filter (p t)) (f t) t) = s :=
  after_each_id s ((xs s).filter (p s)) (f s) fun x hx => by
    obtain ⟨hmem, hp⟩ := List.mem_filter.1 hx
    exact absurd hp (by simp [h x hmem])

section Quiet

variable {s : State} (h : Quiet s)

include h

/-! ### Lanes -/

theorem Quiet.exiting {e : LaneId × Lane} (he : e ∈ s.lanes) : e.2.exiting = false := by
  obtain ⟨hexiting, -⟩ := h.lanes e he
  exact hexiting

theorem Quiet.arriving {e : LaneId × Lane} (he : e ∈ s.lanes) : e.2.arriving = [] := by
  obtain ⟨-, harriving, -⟩ := h.lanes e he
  exact harriving

theorem Quiet.arrived {e : LaneId × Lane} (he : e ∈ s.lanes) : e.2.arrived = [] := by
  obtain ⟨-, -, harrived, -⟩ := h.lanes e he
  exact harrived

theorem Quiet.weir {e : LaneId × Lane} (he : e ∈ s.lanes) : e.2.parks.weir = none := by
  obtain ⟨-, -, -, hweir, -⟩ := h.lanes e he
  exact hweir

theorem Quiet.queue {e : LaneId × Lane} (he : e ∈ s.lanes) : e.2.parks.queue = none := by
  obtain ⟨-, -, -, -, hqueue⟩ := h.lanes e he
  exact hqueue

theorem Quiet.after_serveWaits (k : LaneId) : s.after (serveWaits k) = s := by
  refine after_of_nil ?_
  cases hl : s.lanes.get? k with
  | none => simp only [serveWaits, hl]
  | some l =>
    have hnone : l.parks.wait.filter (s.waitOver k l) = [] := by simpa using h.waits k l hl
    simp only [serveWaits, hl, hnone, List.isEmpty_nil, if_true]

theorem Quiet.leavers_eq : s.leavers = [] := by
  simp +contextual only [State.leavers, List.map_eq_nil_iff, List.filter_eq_nil_iff, h.exiting, Bool.false_and, Bool.false_eq_true,
    not_false_eq_true, implies_true]

theorem Quiet.heldWeirs_eq : s.heldWeirs = [] := by
  simp +contextual only [State.heldWeirs, List.flatMap_eq_nil_iff, h.arriving, List.filterMap_nil, implies_true]

theorem Quiet.after_serveBarriers : s.after serveBarriers = s := by
  have harriving : s.lanes.filter (fun l => !l.2.arriving.isEmpty) = [] := List.filter_eq_nil_iff.2 fun e he => by simp [h.arriving he]
  have harrived : (s.lanes.flatMap fun l => l.2.arrived.map fun a => (a, l.1.wg)) = [] :=
    List.flatMap_eq_nil_iff.2 fun e he => by simp [h.arrived he]
  refine after_all_id s _ ?_
  simp only [List.forall_mem_cons]
  exact ⟨after_of_nil (by simp only [harriving]; rfl), after_of_nil (by simp only [h.heldWeirs_eq]; rfl),
    after_of_nil (by simp only [harrived]; rfl), List.forall_mem_nil _⟩

theorem Quiet.after_serveWeirs : s.after serveWeirs = s :=
  after_eachFilter_id s State.lanes _ _ fun e he => by simp only [h.weir he]

theorem Quiet.after_serveSluices : s.after serveSluices = s := by
  have hnone : s.sluiceKeys = [] := by
    have hwaiting : s.slreqs.filter (fun r => r.waiting) = [] := by simpa using h.sluices
    simp only [State.sluiceKeys, hwaiting, h.bits_, List.map_nil, List.append_nil, List.dedup_nil, List.filter_nil]
  rw [after_eq]
  simp only [serveSluices, hnone]
  rw [← after_eq]
  simp only [after_all_cons, after_all_nil, after_each_nil, after_when, List.any_nil, Bool.false_eq_true, if_false]

/-! ### Cores and clusters -/

theorem Quiet.after_serveSaddle {e : Nat × Core} (he : e ∈ s.cores) : s.after (serveSaddle e.1) = s := by
  obtain ⟨hpassing, hrequests, -, -, hfree, hheld⟩ := h.cores_ e he
  obtain ⟨v, hv⟩ := Map.get?_of_mem s.cores e he
  have hcore : s.core e.1 = v := by simp only [State.core, Map.getD, hv, Option.getD_some]
  rw [hcore] at hpassing hrequests hfree hheld
  simp only [serveSaddle, after_all_cons, after_all_nil]
  rw [after_of_nil (s := s) (by simp only [hcore, hpassing])]
  cases hs : v.saddle with
  | none =>
    have hkeep : { v with passing := none, requeue := false } = v := by rw [← hpassing, ← hfree hs]
    rw [after_of_nil (s := s) (by simp only [hcore, hs]),
      after_updCore_id s e.1 v hv _ (by simpa [hs] using hkeep),
      after_of_nil (by simp only [grantSaddle, hcore, hs, hrequests])]
  | some c =>
    have hlive : (s.crewLive c).isEmpty = false := by simpa using hheld c hs
    rw [after_of_nil (s := s) (by simp [hcore, hs, hlive]),
      after_updCore_id s e.1 v hv _ (by cases v; simp_all),
      after_of_nil (by simp only [grantSaddle, hcore, hs])]

theorem Quiet.after_serveCore {e : Nat × Core} (he : e ∈ s.cores) : s.after (serveCore e.1) = s := by
  obtain ⟨-, -, hmq, hswap, -, -⟩ := h.cores_ e he
  simp only [serveCore, after_all_cons, after_all_nil]
  rw [h.after_serveSaddle he, after_of_nil (s := s) (by simp only [hmq]; rfl), after_of_nil (by simp only [serveSwap, hswap])]

theorem Quiet.spillers_eq (cl : Nat) : s.spillers cl = [] := by
  simp only [State.spillers]
  rw [List.filterMap_eq_nil_iff.2 fun e he => by simp only [h.queue he]]
  simp

theorem Quiet.takers_eq (cl : Nat) : s.takers cl = [] := by
  simp only [State.takers]
  rw [List.filterMap_eq_nil_iff.2 fun e he => by simp only [h.queue he]]
  simp

theorem Quiet.poppers_eq (q : Nat) : s.poppers q = [] := by
  simp only [State.poppers]
  rw [List.filterMap_eq_nil_iff.2 fun e he => by simp only [h.queue he]]
  simp

theorem Quiet.pushers_eq (q : Nat) : s.pushers q = [] := by
  simp only [State.pushers]
  rw [List.filterMap_eq_nil_iff.2 fun e he => by simp only [h.queue he]]
  simp

theorem Quiet.after_serveCluster {e : Nat × Cluster} (he : e ∈ s.clusters) : s.after (serveCluster e.1) = s := by
  obtain ⟨hcmds, hparts⟩ := h.clusters e he
  simp only [serveCluster, after_all_cons, after_all_nil]
  rw [after_of_nil (s := s) (a := serveSlices e.1) (by simp only [serveSlices, hcmds]; rfl),
    after_of_nil (s := s) (a := checkSlices e.1) (by simp only [checkSlices, hcmds]; rfl),
    after_of_nil (s := s) (a := fun s => admitCmds e.1 _ s) (by simp only [hcmds]; rfl),
    after_of_nil (s := s) (a := fun s => serveSpills e.1 _ s) (by simp only [h.spillers_eq]; rfl),
    after_of_nil (by simp only [h.takers_eq, hparts]; rfl)]

/-! ### Queues and join counters -/

theorem Quiet.after_serveItems (q : Nat) :
    s.after (fun t => serveItems q ((t.poppers q).length + (t.pushers q).length) t) = s :=
  after_of_nil (by simp only [h.poppers_eq, h.pushers_eq]; rfl)

theorem Quiet.after_serveJoins : s.after serveJoins = s := by
  refine after_eachFilter_id s State.lanes _ _ fun e he => ?_
  simp only [h.queue he]

theorem Quiet.after_holdJoins : s.after holdJoins = s := by
  refine after_each_id s s.lanes _ fun e he => after_of_nil ?_
  simp only [h.queue he]
  rfl

/-! ### Workgroups, gangs and contexts -/

theorem Quiet.after_exitWg {e : Nat × Wg} (he : e ∈ s.wgs) : s.after (exitWg e.1) = s := by
  obtain ⟨w, hw⟩ := Map.get?_of_mem s.wgs e he
  refine after_of_nil ?_
  obtain ⟨-, ⟨hexited, -⟩ | ⟨-, hlive⟩⟩ := h.wgs e he w hw
  · simp [exitWg, hw, hexited]
  · simp [exitWg, hw, hlive]

theorem Quiet.after_releaseWg {e : Nat × Wg} (he : e ∈ s.wgs) : s.after (releaseWg e.1) = s := by
  obtain ⟨w, hw⟩ := Map.get?_of_mem s.wgs e he
  refine after_of_nil ?_
  obtain ⟨-, ⟨-, hfreed⟩ | ⟨hexited, -⟩⟩ := h.wgs e he w hw
  · simp [releaseWg, hw, hfreed]
  · simp [releaseWg, hw, hexited]

theorem Quiet.after_exitGang {e : Nat × Gang} (he : e ∈ s.gangs) : s.after (exitGang e.1) = s := by
  obtain ⟨g, hg⟩ := Map.get?_of_mem s.gangs e he
  obtain ⟨hended, w, hw, v, hv, hexited⟩ := h.gangs e he g hg
  rw [after_eq]
  simp only [exitGang, hg]
  rw [← after_eq, after_all_cons, after_when, if_neg, after_all_cons, after_all_nil]
  · exact after_of_nil (by simp [hg, hended])
  · simp only [Bool.and_eq_true, List.all_eq_true, not_and, not_forall]
    intro _
    exact ⟨w, hw, by simp [hv, hexited]⟩

theorem Quiet.after_serveExits : s.after serveExits = s := by
  refine after_all_id s _ ?_
  simp only [List.forall_mem_cons]
  exact ⟨after_eachKey_id s _ _ fun e he => h.after_exitWg he, after_eachKey_id s _ _ fun e he => h.after_releaseWg he,
    after_eachKey_id s _ _ fun e he => h.after_exitGang he, List.forall_mem_nil _⟩

theorem Quiet.after_askWords : s.after askWords = s := by
  refine after_eachFilter_id s State.lanes _ _ fun e he => ?_
  cases hfetches : s.fetches e.1 with
  | false => rfl
  | true =>
    obtain ⟨t, hasked⟩ := h.words e he hfetches
    simp [hasked]

theorem Quiet.after_watchCounters : s.after watchCounters = s := by
  refine after_eachFilter_id s State.launches _ _ fun e he => ?_
  simp only [List.any_eq_false]
  intro c hc
  simp [h.conds e he c hc]

theorem Quiet.after_servePreempt {e : Nat × Ctx} (he : e ∈ s.ctxs) : s.after (servePreempt e.1) = s :=
  after_of_nil (by simp [servePreempt, h.ctxs e he])

/-- Nothing follows at once in a quiet state. -/
theorem Quiet.settled_eq : s.settled = s := by
  have hparking : s.wgs.filter (fun w => w.2.parking) = [] := List.filter_eq_nil_iff.2 fun e he => by simp [h.wgsParking e he]
  have hreplying : s.reqs.filter (fun r => r.st == .replying) = [] := List.filter_eq_nil_iff.2 fun r hr => by simp [h.replies r hr]
  refine after_all_id s _ ?_
  simp only [List.forall_mem_cons]
  exact ⟨after_eachOf_id s _ _ fun k _ => h.after_serveWaits k, after_eachOf_id s _ _ (by simp [h.leavers_eq]), h.after_serveBarriers,
    h.after_serveWeirs, h.after_serveSluices, after_eachKey_id s _ _ fun e he => h.after_serveCore he,
    after_eachKey_id s _ _ fun e he => h.after_serveCluster he, after_eachOf_id s _ _ fun q _ => h.after_serveItems q,
    h.after_serveJoins, h.after_holdJoins, after_eachOf_id s _ _ (by simp [hparking]),
    after_eachKey_id s _ _ fun e he => h.after_servePreempt he, h.after_serveExits, h.after_watchCounters, h.after_askWords,
    after_eachOf_id s _ _ (by simp [hreplying]), List.forall_mem_nil _⟩

end Quiet

end Sys2Proof.Machine

namespace Sys2Proof

/-- Settles O6, stage by stage of `settle`. -/
theorem quietStatesSettle : Obligations.QuietStatesSettle := by
  unfold Obligations.QuietStatesSettle
  exact fun s h => h.settled_eq

end Sys2Proof
end

section
/-! PROOFS. The steps that end what a lane waits for: LONG_LATENCY_RESULT_WRITE (R37), SLEEP_EXPIRY (R178) and FENCE_COMPLETE (R285). -/

namespace Sys2Proof.Machine

open Sys2Proof

/-! ### Results -/

/-- A known result whose time has come, and whose registers no other write has reached, is written with its flags; then its reply may
leave and its error is taken. -/
theorem after_stepResult {s : State} {k : LaneId} {l : Lane} {x : Result} {vs : List (Nat × Word)} (hl : s.lanes.get? k = some l)
    (hx : l.results.find? (fun y => y.id == x.id) = some x) (hvals : x.vals = some vs) (hlate : x.late = []) (hready : x.readyAt ≤ s.now) :
    s.after (stepResult k x.id) =
      (((({ s with lanes := s.lanes.set k ({ l with results := l.results.filter fun y => y.id != x.id }.writes vs) } : State).after
        (setFlags k x.flags)).after (Act.opt x.req replyLeaves)).after
        (Act.opt x.err fun e => Act.read fun t => takeError k e.source e.code (t.unitPc k e.pc))) := by
  have hall : (vs.filter fun v => !x.late.contains v.1 || s.choose v.1 true [true, false]) = vs := by simp [hlate]
  rw [after_eq]
  simp only [stepResult, hl, Option.bind_some, hx, hvals, Nat.not_lt.2 hready, if_false, hall]
  rw [← after_eq]
  simp only [after_all_cons, after_all_nil]
  rw [after_updLane _ _ _ _ hl]
  rfl

/-- The flags of a result go to the crew of a lane that has not exited. -/
theorem after_setFlags_if (s : State) (k : LaneId) (f : BitVec 7) (cr : Crew) (hc : s.crews.get? (s.crewOf k) = some cr)
    (hk : k.idx ∈ cr.lanes) (hg : s.gone k = false) :
    s.after (setFlags k f) =
      { s with crews := if f = 0 then s.crews else s.crews.set (s.crewOf k) { cr with flags := cr.flags ||| f } } := by
  split
  · next hf => rw [hf, after_setFlags_zero]
  · exact after_setFlags s k f cr hc hk hg

/-! ### Sleeps and yields -/

theorem after_stepSleepExpiry_sleep {s : State} {k : LaneId} {l : Lane} {t : Nat} (hl : s.lanes.get? k = some l)
    (hsleep : l.parks.sleep = some t) (hyield : l.parks.yield = none) :
    s.after (stepSleepExpiry k) =
      if t ≤ s.now then { s with lanes := s.lanes.set k { l with parks := { l.parks with sleep := none } } } else s := by
  rw [after_eq]
  simp only [stepSleepExpiry, hl, hsleep, hyield]
  rw [← after_eq]
  simp only [after_all_cons, after_all_nil, after_when, after_skip, decide_eq_true_eq, after_updParks _ _ _ _ hl, hyield]

theorem after_stepSleepExpiry_yield {s : State} {k : LaneId} {l : Lane} {t : Nat} (hl : s.lanes.get? k = some l)
    (hsleep : l.parks.sleep = none) (hyield : l.parks.yield = some t) (hearlier : t < s.now)
    (hfree : (s.peloton (s.coreOf k) (s.pslot k)).busyUntil ≤ s.now) (halone : ∀ w ∈ s.wanting (s.coreOf k) (s.pslot k), w.1 = k) :
    s.after (stepSleepExpiry k) = { s with lanes := s.lanes.set k { l with parks := { l.parks with yield := none } } } := by
  have hothers : ((s.wanting (s.coreOf k) (s.pslot k)).any fun w => w.1 != k) = false := by
    simpa using fun a b hw => halone (a, b) hw
  rw [after_eq]
  simp only [stepSleepExpiry, hl, hsleep, hyield, hothers]
  rw [← after_eq]
  simp only [after_all_cons, after_all_nil, after_skip, after_when, hearlier, hfree, decide_true, Bool.and_self, Bool.not_false, if_true,
    after_updParks _ _ _ _ hl, hsleep]

/-! ### Caches of code -/

/-- An update of a cluster or of a port. -/
def Upd.onCaches : Upd → Prop
  | .cluster _ _ | .port _ _ => True
  | _ => False

/-- An action on clusters and ports alone leaves everything else. -/
theorem after_onCaches_frame {a : Act} (h : a.Only Upd.onCaches) (s : State) :
    s.after a = { s with ports := (s.after a).ports, clusters := (s.after a).clusters } :=
  after_keeps (P := fun t => t = { s with ports := t.ports, clusters := t.clusters }) h
    (fun t u hu ht => by
      cases u with
      | cluster k v | port k v => rw [ht]; rfl
      | _ => exact hu.elim)
    s rfl

theorem onCaches_updCluster (n : Nat) (f : Cluster → Cluster) : (updCluster n f).Only Upd.onCaches := fun _ u hu => by
  rw [List.mem_singleton.1 hu]; trivial

theorem onCaches_updPort (n : Nat) (f : Port → Port) : (updPort n f).Only Upd.onCaches := fun _ u hu => by
  rw [List.mem_singleton.1 hu]; trivial

theorem onCaches_dropCodeOf (cl port p : Nat → Bool) : (dropCodeOf cl port p).Only Upd.onCaches := fun s =>
  only_seq (only_each fun c _ => onCaches_updCluster c _) (only_seq (only_each fun q _ => onCaches_updPort q _) only_skip) s

/-! ### Fences -/

/-- The code that a lane's CCTLs have named leaves the caches within a fence's scope (R28, R246). -/
def dropNamedCode (s : State) (k : LaneId) (l : Lane) (scope : Nat) : Act := Act.each l.cctl fun c =>
  if 4 ≤ scope then dropCode (codeOf c)
  else if 1 ≤ scope then dropCodeOf (fun n => n == s.clusterOf k) (fun p => p / 16 == s.clusterOf k) (codeOf c)
  else dropCodeOf (fun n => n == s.clusterOf k) (fun p => p == s.portOf k) (codeOf c)

theorem onCaches_dropNamedCode (s : State) (k : LaneId) (l : Lane) (scope : Nat) : (dropNamedCode s k l scope).Only Upd.onCaches :=
  only_each fun c _ => by split_ifs <;> exact onCaches_dropCodeOf _ _ _

theorem after_endCctl {s : State} {k : LaneId} {l : Lane} (hl : s.lanes.get? k = some l) (scope : Nat) :
    s.after (endCctl k scope) = (s.after (dropNamedCode s k l scope)).after
      (updLane k fun l => { l with cctl := if 4 ≤ scope then [] else l.cctl, cctlReqs := [] }) := by
  rw [after_eq]
  simp only [endCctl, hl]
  rw [← after_eq]
  simp only [after_all_cons, after_all_nil]
  rfl

/-- A fence whose requests are performed ends: clean bytes from before it go from DEV scope on, and the code that the lane's CCTLs have
named goes within its scope. -/
theorem after_stepFence {s : State} {k : LaneId} {l : Lane} {scope issued : Nat} {after : List Nat} (hl : s.lanes.get? k = some l)
    (hwait : l.parks.wait = [.fence scope after issued]) (hafter : s.allPerformed after = true) :
    let u : State := { s with
      clusters := if 4 ≤ scope then s.clusters.set (s.clusterOf k)
        ((s.cluster (s.clusterOf k)).dropClean fun _ b => decide (b.since ≤ issued)) else s.clusters }
    s.after (stepFence k) = { u.after (dropNamedCode s k l scope) with
      lanes := s.lanes.set k { l with
        parks := { l.parks with wait := [] }, cctl := if 4 ≤ scope then [] else l.cctl, cctlReqs := [] } } := by
  intro u
  have hdrop : s.after (Act.when (decide (4 ≤ scope)) (updCluster (s.clusterOf k) fun c => c.dropClean fun _ b => decide (b.since ≤ issued))) =
      u := by
    simp only [after_when, after_updCluster, decide_eq_true_eq, u]
    split <;> rfl
  have hlanes : (u.after (dropNamedCode s k l scope)).lanes = s.lanes := by
    rw [after_onCaches_frame (onCaches_dropNamedCode s k l scope) u]
  rw [after_eq]
  simp only [stepFence, hl, hwait, List.find?_cons, hafter]
  rw [← after_eq]
  simp only [after_all_cons, after_all_nil]
  rw [hdrop, after_endCctl (s := u) hl]
  change ((u.after (dropNamedCode s k l scope)).after _).after _ = _
  generalize u.after (dropNamedCode s k l scope) = t at hlanes ⊢
  rw [after_updLane t k _ l (by rw [hlanes, hl]), after_updParks _ k _ _ (Map.get?_set_self ..)]
  simp only [hlanes, Map.set_set, hwait]
  simp

end Sys2Proof.Machine

namespace Sys2Proof

open Machine

/-- Settles O37. -/
theorem resultIsWritten : Obligations.ResultIsWritten := by
  unfold Obligations.ResultIsWritten
  intro s k l cr x vs hl hexited hcrew hlane hx hvals hlate hready
  change run (stepResult k x.id) s = _
  rw [run, after_stepResult hl hx hvals hlate hready, after_setFlags_if (cr := cr)]
  · rfl
  · exact hcrew
  · exact hlane
  · simp [State.gone, hexited]

/-- Settles O38. -/
theorem waitsEnd : Obligations.WaitsEnd := by
  unfold Obligations.WaitsEnd
  intro s k l hl
  refine ⟨?sleep, ?yield, ?fence⟩
  case sleep =>
    intro t hsleep hyield
    change run (stepSleepExpiry k) s = _
    rw [run, after_stepSleepExpiry_sleep hl hsleep hyield]
  case yield =>
    intro t hsleep hyield hearlier hfree halone
    change run (stepSleepExpiry k) s = _
    rw [run, after_stepSleepExpiry_yield hl hsleep hyield hearlier hfree halone]
  case fence =>
    intro scope after issued hwait hafter u code
    change run (stepFence k) s = _
    rw [run, after_stepFence hl hwait hafter]
    rfl

end Sys2Proof
end

section
/-! PROOFS. The control transfers (R175, R176), EXIT (R177) and TRET (R181), issued by one lane. -/

namespace Sys2Proof.Machine

open Sys2Proof

/-! ### An issue of one lane, with a check (R236) -/

/-- The only lane of an issue is stopped at its instruction. -/
theorem after_split_stop {s : State} {e : Env} {bad : Env → Option Stop} {run : List Env → Act} {b : Stop} (hbad : bad e = some b)
    (hrun : run [] = Act.skip) : s.after (split [e] bad run) = s.after (faultRecord b.kind 0 [⟨e.k, b.cause, b.addr⟩]) := by
  have hkeys : [(b.kind, e.k.wg, e.l.pc)].dedup = [(b.kind, e.k.wg, e.l.pc)] := by simp
  rw [after_eq]
  simp only [split, List.filterMap_cons, hbad, Option.map_some, List.filterMap_nil, List.mergeSort_singleton, List.map_cons, List.map_nil,
    List.reverse_cons, List.reverse_nil, List.nil_append, hkeys, List.filter_cons, Option.isNone_some, Bool.false_eq_true, if_false,
    List.filter_nil, hrun]
  rw [← after_eq]
  simp

/-- The only lane of an issue goes on. -/
theorem after_split_go {s : State} {e : Env} {bad : Env → Option Stop} {run : List Env → Act} (hbad : bad e = none) :
    s.after (split [e] bad run) = s.after (run [e]) := by
  rw [after_eq]
  simp only [split, List.filterMap_cons, hbad, Option.map_none, List.filterMap_nil, List.mergeSort_nil, List.map_nil,
    List.reverse_nil, List.dedup_nil, List.filter_cons, Option.isNone_none, if_true, List.filter_nil]
  rw [← after_eq]
  simp

/-! ### Transfers -/

/-- What one lane's transfer does to it where the target is aligned. -/
def Lane.transferred (l : Lane) (e : Env) (now : Nat) : Lane :=
  Lane.issued (match e.op.fx with
    | .g _ => { l.writes (dest e.op.fx (words64 (e.l.pc + 12))) with shortUntil := now + 4 }
    | _ => l) e.target e.op.w

/-- A transfer to a target that is no multiple of 4 fault-parks (R27). -/
theorem after_issueTransfer_misaligned (s : State) (e : Env) (h : e.target.toNat % 4 ≠ 0) :
    s.after (issueTransfer [e]) = s.after (faultRecord 2 0 [⟨e.k, 0x07, e.target⟩]) :=
  after_split_stop (b := ⟨2, 0x07, e.target⟩) (by simp [h]) rfl

theorem after_issueTransfer (s : State) (e : Env) (hl : s.lanes.get? e.k = some e.l) (h : e.target.toNat % 4 = 0) :
    s.after (issueTransfer [e]) = { s with lanes := s.lanes.set e.k (e.l.transferred e s.now) } := by
  rw [issueTransfer, after_split_go (by simp [h]), after_each_cons, after_each_nil]
  exact after_updLane s e.k (fun l => l.transferred e s.now) e.l hl

theorem issueMaj_transfer (es : List Env) {m : Maj} (h : m ∈ [Maj.bra, Maj.brx, Maj.call, Maj.callx, Maj.ret]) :
    issueMaj m es = issueTransfer es := by
  simp only [List.mem_cons, List.not_mem_nil, or_false] at h
  rcases h with rfl | rfl | rfl | rfl | rfl <;> rfl

theorem target_eq (e : Env) : e.target =
    if e.op.maj = .bra ∨ e.op.maj = .call then e.l.pc + 12 + e.op.lit.signExtend 64 else e.src64 .n64 e.op.fy := by
  unfold Env.target
  split <;> simp_all

/-! ### EXIT -/

/-- A lane that has exited: in no park, with no result and no arrival at a barrier left (R177). -/
def Lane.exit (l : Lane) : Lane := { l with
  exited := true, exiting := false, latch := none, parks := Parks.none, results := [], holds := [], regions := [], err := none,
  arrived := [], undoUse := 0, heldBy := none,
  arriving := l.arriving.filter fun a => match a with | .barrier _ _ _ => false | .weir .. => true }

theorem after_exitLane (s : State) (k : LaneId) (l : Lane) (hl : s.lanes.get? k = some l) (hexited : l.exited = false) (hholds : l.holds = [])
    (hregions : l.regions = []) (htrap : l.trapLane = false) (herrs : ∀ x ∈ l.results, x.err = none) (hslreqs : ∀ r ∈ s.slreqs, r.lane ≠ k) :
    let p := (s.coreOf k, s.pslot k)
    s.after (exitLane k) = { s with
      pelotons := s.pelotons.set p { s.peloton p.1 p.2 with overdue := (s.peloton p.1 p.2).overdue.filter (· != k) },
      lanes := s.lanes.set k l.exit } := by
  intro p
  have hnone : l.results.filterMap (·.err) = [] := List.filterMap_eq_nil_iff.2 herrs
  have hwithdraw : s.after (withdrawSluices fun r => r.lane == k) = s := after_of_nil (by
    have : (s.slreqs.any fun r => (r.lane == k) && r.try_.isNone) = false := List.any_eq_false.2 fun r hr => by simp [hslreqs r hr]
    simp [withdrawSluices, Act.when, this])
  have hleave : s.after (leaveTrap k) = s := after_of_nil (by simp [leaveTrap, State.laneIs, hl, htrap])
  rw [after_eq]
  simp only [exitLane, hl, hexited, hholds, hregions, hnone, Bool.false_eq_true, if_false]
  rw [← after_eq]
  simp only [List.any_nil, List.filter_false, after_all_cons, after_all_nil, after_each_nil, hwithdraw, hleave,
    after_updPeloton]
  exact after_updLane _ k _ l hl

/-! ### TRET -/

theorem after_parkOnW_one (s : State) (e : Env) (h : e.op.w = false) : s.after (parkOnW [e]) = s := by
  rw [parkOnW, after_each_cons, after_each_nil]
  exact after_of_nil (by simp [Act.when, h])

@[simp] theorem after_faultLanes_nil (s : State) (kind aux : Nat) : s.after (faultLanes kind aux []) = s := after_faultAll_nil s

theorem after_faultLanes_one (s : State) (kind aux : Nat) (f : Failing) : s.after (faultLanes kind aux [f]) = s.after (faultRecord kind aux [f]) :=
  after_faultAll_one s (kind, aux, f)

section Tret

variable {s : State} {k : LaneId} {l : Lane} {cr : Crew}

/-- A trap lane whose TPC is aligned resumes there, and its trap may close. -/
theorem after_returnFromTrap (hl : s.lanes.get? k = some l) (hcr : s.crews.get? (s.crewOf k) = some cr) (htrap : l.trapLane = true)
    (halign : cr.tpc.toNat % 4 = 0) : s.after (returnFromTrap [k]) =
      ({ s with lanes := s.lanes.set k { l with pc := cr.tpc, latch := none, trapLane := false } } : State).after (closeTrap (s.crewOf k)) := by
  have hone : [s.crewOf k].dedup = [s.crewOf k] := by simp
  rw [after_eq]
  simp only [returnFromTrap, State.laneIs, hl, hcr, htrap, halign, List.filter_cons, List.filterMap_cons, List.filter_nil, List.filterMap_nil,
    Bool.not_true, Bool.false_eq_true, if_false, ne_eq, not_true_eq_false, BEq.rfl, Bool.and_self, if_true, List.map_cons, List.map_nil, hone]
  rw [← after_eq]
  simp only [after_all_cons, after_all_nil, after_each_cons, after_each_nil]
  rw [after_updLane _ _ _ _ hl]
  simp only [hcr, after_faultLanes_nil]

theorem after_returnFromTrap_misaligned (hl : s.lanes.get? k = some l) (hcr : s.crews.get? (s.crewOf k) = some cr) (htrap : l.trapLane = true)
    (halign : cr.tpc.toNat % 4 ≠ 0) : s.after (returnFromTrap [k]) = s.after (faultRecord 2 0 [⟨k, 0x07, cr.tpc⟩]) := by
  have hbad : (cr.tpc.toNat % 4 == 0) = false := by simpa using halign
  rw [after_eq]
  simp only [returnFromTrap, State.laneIs, hl, hcr, htrap, halign, hbad, List.filter_cons, List.filterMap_cons, List.filter_nil,
    List.filterMap_nil, Bool.not_true, Bool.false_eq_true, Bool.and_false, if_false, ne_eq, not_false_eq_true, if_true, List.map_nil,
    List.dedup_nil]
  rw [← after_eq]
  simp only [after_all_cons, after_all_nil, after_each_nil, after_faultLanes_one]

theorem after_returnFromTrap_outside (hl : s.lanes.get? k = some l) (htrap : l.trapLane = false) :
    s.after (returnFromTrap [k]) = s.after (faultRecord 2 0 [⟨k, 0x0B, l.pc⟩]) := by
  have hpc : s.pcOf k = l.pc := by simp only [State.pcOf, hl]
  rw [after_eq]
  simp only [returnFromTrap, State.laneIs, hl, htrap, hpc, List.filter_cons, List.filterMap_cons, List.filter_nil, List.filterMap_nil,
    Bool.not_false, Bool.false_and, Bool.false_eq_true, if_false, if_true, List.map_nil, List.dedup_nil]
  rw [← after_eq]
  simp only [after_all_cons, after_all_nil, after_each_nil, after_faultLanes_one]

end Tret

end Sys2Proof.Machine

namespace Sys2Proof

open Machine

/-- Settles O35. -/
theorem trapReturns : Obligations.TrapReturns := by
  unfold Obligations.TrapReturns
  refine ⟨?transfer, ?exit, ?tret⟩
  case transfer =>
    intro s e hs hl hmaj target
    have htarget : e.target = target := target_eq e
    rw [issueMaj_transfer [e] hmaj, ← htarget]
    refine ⟨after_issueTransfer_misaligned s e, ?_, ?_⟩
    · intro halign hfx
      rw [after_issueTransfer s e hl halign]
      simp only [Lane.transferred, hfx]
    · intro n halign hfx
      rw [after_issueTransfer s e hl halign]
      simp only [Lane.transferred, hfx]
      rfl
  case exit =>
    intro s e hs hl hmaj hexited
    rw [hmaj]
    refine ⟨?_, ?_⟩
    · intro hw
      change s.after (issueExit [e]) = _
      rw [issueExit, after_each_cons, after_each_nil, if_pos hw, after_updLane _ _ _ _ hl]
    · intro hw hholds hregions htrap herrs hslreqs p
      change s.after (issueExit [e]) = _
      rw [issueExit, after_each_cons, after_each_nil, if_neg (by simp [hw]),
        after_exitLane s e.k e.l hl hexited hholds hregions htrap herrs hslreqs]
      simp only [Lane.exit, hholds, hregions, p] <;> rfl
  case tret =>
    intro s e l cr hs hl hcr hw
    change (_ → _ → s.after (issueTret [e]) = _) ∧ (_ → _ → s.after (issueTret [e]) = _) ∧ (_ → s.after (issueTret [e]) = _)
    simp only [issueTret, List.map_cons, List.map_nil, after_all_cons, after_all_nil, after_parkOnW_one _ e hw]
    exact ⟨after_returnFromTrap hl hcr, after_returnFromTrap_misaligned hl hcr, after_returnFromTrap_outside hl⟩

end Sys2Proof
end

section
/-! PROOFS. Registers, special registers and CSRs (R116 to R121, R142, R145): what each reads as, and what each write leaves alone. -/

namespace Sys2Proof.Machine

open Sys2Proof

/-! ### Predicates and registers of a lane -/

@[simp] theorem pred_zero (l : Lane) : l.pred 0 = true := rfl

@[simp] theorem setPred_zero (l : Lane) (v : Bool) : l.setPred 0 v = l := rfl

theorem pred_setPred (l : Lane) {n m : Nat} (v : Bool) (hn : 0 < n) (hn16 : n < 16) (hm16 : m < 16) :
    (l.setPred n v).pred m = if m = n then v else l.pred m := by
  by_cases hm : m = 0
  · have : ¬ 0 = n := by omega
    simp [hm, Lane.pred, this]
  · have hlt : m - 1 < 15 := by omega
    have hbit : (BitVec.ofNat 15 (2 ^ (n - 1))).getLsbD (m - 1) = decide (m = n) := by
      rw [BitVec.getLsbD_ofNat, Nat.testBit_two_pow]
      simp only [hlt, decide_true, Bool.true_and, decide_eq_decide]
      omega
    simp only [Lane.pred, Lane.setPred, hn.ne', hm, if_false, decide_false, Bool.false_or, BitVec.getLsbD_or, BitVec.getLsbD_and,
      BitVec.getLsbD_not, hbit, hlt, decide_true, Bool.true_and]
    by_cases hmn : m = n
    · subst hmn
      cases v <;> simp only [hbit, decide_true, Bool.not_true, Bool.and_false, Bool.false_or, Bool.false_eq_true, if_true, if_false,
        BitVec.ofNat_eq_ofNat, BitVec.getLsbD_zero]
    · cases v <;> simp only [hbit, hmn, decide_false, Bool.not_false, Bool.and_true, Bool.or_false, Bool.false_eq_true, if_true, if_false,
        BitVec.ofNat_eq_ofNat, BitVec.getLsbD_zero]

theorem setPred_frame (l : Lane) (n : Nat) (v : Bool) : { l.setPred n v with p := l.p } = l := by
  simp only [Lane.setPred]
  split <;> rfl

theorem reg_setReg (l : Lane) (n m : Nat) (v : Word) : (l.setReg n v).reg m = if m = n then v else l.reg m := by
  simp only [Lane.reg, Lane.setReg]
  split
  · next h => rw [h, Map.getD_set_self]
  · next h => rw [Map.getD_set_ne _ _ _ h]

theorem mem_parity_setReg (l : Lane) (n m : Nat) (v : Word) : m ∈ (l.setReg n v).parity ↔ m ∈ l.parity ∧ m ≠ n := by
  simp [Lane.setReg]

/-! ### Special registers -/

/-- The bits of a sum of distinct powers of 2. -/
theorem testBit_foldl_add_two_pow (xs : List Nat) (h : xs.Nodup) (i : Nat) :
    ((xs.map (2 ^ ·)).foldl (· + ·) 0).testBit i = true ↔ i ∈ xs := by
  have hperm := List.mergeSort_perm xs (fun a b => decide (a ≤ b))
  have hsum : (xs.map (2 ^ ·)).foldl (· + ·) 0 = ((xs.mergeSort fun a b => decide (a ≤ b)).map (2 ^ ·)).sum := by
    rw [← List.sum_eq_foldl, (hperm.map _).sum_eq]
  have hsorted : (xs.mergeSort fun a b => decide (a ≤ b)).SortedLT :=
    List.sortedLT_iff_nodup_and_sortedLE.2 ⟨hperm.nodup_iff.2 h, (List.pairwise_mergeSort' (· ≤ ·) xs).sortedLE⟩
  rw [hsum, ← Nat.mem_bitIndices, Nat.bitIndices_sum_map_two_pow hsorted, List.mem_mergeSort]

theorem testBit_cmask (s : State) (c : CrewId) (cr : Crew) (hc : s.crews.get? c = some cr)
    (h : (cr.lanes.map fun i => s.slot ⟨c.wg, i⟩).Nodup) (i : Nat) :
    (s.cmask c).testBit i = true ↔ ∃ j ∈ cr.lanes, s.slot ⟨c.wg, j⟩ = i := by
  have := testBit_foldl_add_two_pow (cr.lanes.map fun i => s.slot ⟨c.wg, i⟩) h i
  simpa [State.cmask, hc, Function.comp_def] using this

/-! ### Choices -/

theorem choose_singleton {α : Type} (s : State) (salt : Nat) (d x : α) : s.choose salt d [x] = x := rfl

/-- A choice is one of the outcomes, where there is one. -/
theorem choose_mem {α : Type} (s : State) (salt : Nat) (d : α) {xs : List α} (h : xs ≠ []) : s.choose salt d xs ∈ xs := by
  unfold State.choose
  split
  · exact absurd rfl h
  · simp
  · next x y r =>
    have hlt : Config.pick s.tick salt % (r.length + 2) < (x :: y :: r).length := Nat.mod_lt _ (by simp)
    rw [List.getElem?_eq_getElem hlt, Option.getD_some]
    exact List.getElem_mem hlt

/-! ### Writes of a crew's registers -/

theorem after_updCrew_frame (s : State) (c : CrewId) (f : Crew → Crew) :
    s.after (updCrew c f) = { s with crews := (s.after (updCrew c f)).crews } := by
  cases h : s.crews.get? c with
  | none => simp only [State.after, updCrew, h]; rfl
  | some v => rw [after_updCrew s c f v h]

theorem get?_crews_after_updCrew (s : State) (c d : CrewId) (f : Crew → Crew) :
    (s.after (updCrew c f)).crews.get? d = if d = c then (s.crews.get? d).map f else s.crews.get? d := by
  cases h : s.crews.get? c with
  | none =>
    have : s.after (updCrew c f) = s := by simp only [State.after, updCrew, h]; rfl
    rw [this]
    split
    · next hd => rw [hd, h]; rfl
    · rfl
  | some v =>
    rw [after_updCrew s c f v h, Map.get?_set]
    split
    · next hd => rw [hd, h]; rfl
    · rfl

/-- Changes of several crews change each of them, and nothing else. -/
theorem after_each_updCrew (s : State) (cs : List CrewId) (h : cs.Nodup) (f : CrewId → Crew → Crew) :
    s.after (Act.each cs fun c => updCrew c (f c)) = { s with crews := (s.after (Act.each cs fun c => updCrew c (f c))).crews } ∧
    ∀ c, (s.after (Act.each cs fun c => updCrew c (f c))).crews.get? c =
      if c ∈ cs then (s.crews.get? c).map (f c) else s.crews.get? c := by
  induction cs generalizing s with
  | nil => simp
  | cons c cs ih =>
    obtain ⟨hnot, hnodup⟩ := List.nodup_cons.1 h
    rw [after_each_cons]
    have hframe := after_updCrew_frame s c (f c)
    obtain ⟨ihframe, ihget⟩ := ih (s.after (updCrew c (f c))) hnodup
    refine ⟨by rw [ihframe, hframe], fun d => ?_⟩
    rw [ihget, get?_crews_after_updCrew]
    by_cases hd : d = c
    · simp [hd, hnot]
    · simp [hd]

/-- What a write of %flags or %farm leaves of a crew (R118). -/
def Crew.withShared (cr : Crew) (r : SReg) (v : Word) : Crew :=
  if r = .flags then { cr with flags := v.setWidth 7 } else { cr with farm := v.setWidth 7 }

/-- The value that remains of a crew's register, of those that its lanes write at once (R116). -/
def State.keptOf {α : Type} (s : State) (ks : List LaneId) (d : α) (v : LaneId → α) (c : CrewId) : α :=
  s.choose c.crew d ((ks.filter fun k => s.crewOf k = c).map v)

/-- One lane's value remains. -/
theorem keptOf_eq {α : Type} (s : State) (ks : List LaneId) (d : α) (v : LaneId → α) (c : CrewId) (h : ∃ k ∈ ks, s.crewOf k = c) :
    ∃ k ∈ ks, s.crewOf k = c ∧ s.keptOf ks d v c = v k := by
  obtain ⟨k, hk, hc⟩ := h
  have hne : (ks.filter fun k => s.crewOf k = c).map v ≠ [] := by
    simp only [ne_eq, List.map_eq_nil_iff, List.filter_eq_nil_iff, not_forall]
    exact ⟨k, hk, by simp [hc]⟩
  obtain ⟨j, hj, hv⟩ := List.mem_map.1 (choose_mem s c.crew d hne)
  obtain ⟨hjks, hjc⟩ := List.mem_filter.1 hj
  exact ⟨j, hjks, of_decide_eq_true hjc, hv.symm⟩

theorem after_movShared (s : State) (ks : List LaneId) (v : LaneId → Word) (r : SReg) :
    s.after (movShared ks v r) =
      s.after (Act.each (ks.map s.crewOf).dedup fun c => updCrew c fun x => x.withShared r (s.keptOf ks 0 v c)) := by
  have hcrew : ∀ c, (fun x : Crew => if r == .flags then { x with flags := (s.keptOf ks 0 v c).setWidth 7 }
      else { x with farm := (s.keptOf ks 0 v c).setWidth 7 }) = fun x => x.withShared r (s.keptOf ks 0 v c) := by
    intro c
    simp only [Crew.withShared, beq_iff_eq]
  simp only [← hcrew]
  rfl

theorem after_csrwShared_tpc (s : State) (ks : List LaneId) (v : LaneId → DWord) :
    s.after (csrwShared ks 0x2000 v) =
      s.after (Act.each (ks.map s.crewOf).dedup fun c => updCrew c fun x => { x with tpc := s.keptOf ks 0 v c }) := by
  rw [after_eq]
  simp only [csrwShared, if_true]
  rfl

theorem mem_dedup_map_crewOf (s : State) (ks : List LaneId) (c : CrewId) : c ∈ (ks.map s.crewOf).dedup ↔ ∃ k ∈ ks, s.crewOf k = c := by
  rw [List.mem_dedup, List.mem_map]

/-! ### MOV, CSRW and CSRR of one lane -/

theorem after_byOperand_one (s : State) (e : Env) (key : Env → Nat) (f : Nat → List Env → Act) :
    s.after (byOperand [e] key f) = s.after (f (key e) [e]) := by
  have hone : [key e].dedup = [key e] := by simp
  simp only [byOperand, List.map_cons, List.map_nil, hone, after_each_cons, after_each_nil, List.filter_cons, BEq.rfl, if_true, List.filter_nil]

theorem envVal_one {α : Type} (e : Env) (d : α) (f : Env → α) : envVal [e] d f e.k = f e := by
  simp [envVal]

theorem after_movShared_one (s : State) (k : LaneId) (v : LaneId → Word) (r : SReg) (cr : Crew) (hcr : s.crews.get? (s.crewOf k) = some cr) :
    s.after (movShared [k] v r) = { s with crews := s.crews.set (s.crewOf k) (cr.withShared r (v k)) } := by
  have hone : [s.crewOf k].dedup = [s.crewOf k] := by simp
  rw [after_movShared]
  simp only [List.map_cons, List.map_nil, hone, after_each_cons, after_each_nil, after_updCrew _ _ _ _ hcr, State.keptOf, List.filter_cons,
    decide_true, if_true, List.filter_nil, choose_singleton]

theorem after_csrwShared_tpc_one (s : State) (k : LaneId) (v : LaneId → DWord) (cr : Crew) (hcr : s.crews.get? (s.crewOf k) = some cr) :
    s.after (csrwShared [k] 0x2000 v) = { s with crews := s.crews.set (s.crewOf k) { cr with tpc := v k } } := by
  have hone : [s.crewOf k].dedup = [s.crewOf k] := by simp
  rw [after_csrwShared_tpc]
  simp only [List.map_cons, List.map_nil, hone, after_each_cons, after_each_nil, after_updCrew _ _ _ _ hcr, State.keptOf, List.filter_cons,
    decide_true, if_true, List.filter_nil, choose_singleton]

theorem after_csrwShared_agelim_one (s : State) (k : LaneId) (v : LaneId → DWord) :
    s.after (csrwShared [k] 0x3000 v) = s.after (updPeloton (s.coreOf k, s.pslot k) fun p => { p with agelim := agelimOf ((v k).setWidth 32) }) := by
  rw [after_eq]
  simp only [csrwShared, List.map_cons, List.map_nil, choose_singleton]
  rfl

theorem agelimOf_eq (v : Word) : agelimOf v = BitVec.ofNat 4 (max (v.toNat % 16) 1) := by
  unfold agelimOf
  split
  · next h => rw [h]; rfl
  · next h => rw [max_eq_left (by omega)]

theorem after_issueMov_shared {s : State} {e : Env} {cr : Crew} {r : SReg} (hl : s.lanes.get? e.k = some e.l)
    (hcr : s.crews.get? (s.crewOf e.k) = some cr) (hfx : e.op.fx = .sr r) :
    s.after (issueMov [e]) = { s with
      crews := s.crews.set (s.crewOf e.k) (cr.withShared r (e.src e.op.fy)),
      lanes := s.lanes.set e.k (({ e.l with shortUntil := s.now + 4 } : Lane).issued (e.l.pc + 12) e.op.w) } := by
  simp only [issueMov, List.filter_cons, hfx, Bool.not_true, Bool.false_eq_true, if_false, if_true, List.filter_nil, after_all_cons,
    after_all_nil, List.map_nil, after_byOperand_one]
  rw [show s.after (writeShort []) = s from rfl]
  simp only [List.map_cons, List.map_nil, after_each_cons, after_each_nil]
  rw [after_movShared_one s e.k _ r cr hcr, envVal_one]
  change (State.after { s with crews := _ } (updLane e.k fun l => { l with shortUntil := s.now + 4 })).after (retire [e]) = _
  rw [after_updLane _ _ _ e.l (by exact hl), after_retire _ e { e.l with shortUntil := s.now + 4 } (Map.get?_set_self ..)]
  simp only [Map.set_set]

theorem after_issueCsrw {s : State} {e : Env} (n : Nat) (hn : e.op.l 15 0 = n) : s.after (issueCsrw [e]) =
    (s.after (csrwShared [e.k] n (envVal [e] 0 fun e => if csr64 n then e.src64 .n64 e.op.fy else (e.src e.op.fy).setWidth 64))).after
      (retire [e]) := by
  simp only [issueCsrw, after_all_cons, after_all_nil, after_byOperand_one, List.map_cons, List.map_nil, hn]

theorem runCsrr_eq (e : Env) (h : ∀ n, e.op.fx ≠ .p n) :
    let v := csrValue e.s e.k e.l (e.op.l 15 0)
    runCsrr e = (dest e.op.fx (if e.op.l 15 0 = 0x1000 ∨ e.op.l 15 0 = 0x2000 then [BitVec.ofNat 32 v, BitVec.ofNat 32 (v / 2 ^ 32)]
      else [BitVec.ofNat 32 v]), 0) := by
  intro v
  have hmatch : runCsrr e = if csr64 (e.op.l 15 0) then e.put64 v else e.put32 v := by
    unfold runCsrr
    split
    · next n hn => exact absurd hn (h n)
    · rfl
  rw [hmatch]
  simp only [csr64, Bool.or_eq_true, beq_iff_eq]
  split
  · have hhigh : ((v : Int) / 2 ^ 32) = ((v / 2 ^ 32 : Nat) : Int) := by push_cast; rfl
    simp only [Env.put64, wrapTo, hhigh, BitVec.ofInt_natCast]
  · rfl

end Sys2Proof.Machine

namespace Sys2Proof

open Machine

/-- Settles O11. -/
theorem registersReadBack : Obligations.RegistersReadBack := by
  unfold Obligations.RegistersReadBack
  refine ⟨?preds, ?regs, ?specials, ?mov, ?shared, ?frames, ?csrw, ?csrr, ?csrs⟩
  case preds =>
    exact ⟨pred_zero, setPred_zero, fun l n m v hn hn16 hm16 => ⟨pred_setPred l v hn hn16 hm16, setPred_frame l n v⟩⟩
  case regs =>
    intro l n m v
    refine ⟨reg_setReg l n m v, ?_, ?_, rfl⟩
    · simp [mem_parity_setReg]
    · intro hmn
      simp [mem_parity_setReg, hmn]
  case specials =>
    intro e w g l cr hw hg hl hcr
    have hcore : e.s.coreOf e.k = w.core := by simp only [State.coreOf, hw]
    have hctx : e.s.ctxOf e.k = w.ctx := by simp only [State.ctxOf, hw]
    have hgang : e.s.gangOf e.k = w.gang := by simp only [State.gangOf, hw]
    have hnames : e.s.names e.k.wg = (l.lnum.toNat, g.idx, w.idx) := by simp only [State.names, hw, hg, hl]
    simp only [Env.special, hnames, hgang, hg, hcore, State.clusterOf, hctx, Env.wg?, hw, Env.crew?, hcr, Nat.div_div_eq_div_mul, true_and]
    refine ⟨fun h => by rw [h], fun r rs h => by rw [h], fun h i => testBit_cmask e.s _ cr hcr h i⟩
  case mov =>
    intro s e cr r hs hl hcr hmaj hfx hr v
    rw [hmaj]
    change s.after (issueMov [e]) = _
    rw [after_issueMov_shared hl hcr hfx]
    rfl
  case shared =>
    intro s ks c cr hcr hks
    have hmem := (mem_dedup_map_crewOf s ks c).2 hks
    constructor
    · intro v r
      obtain ⟨k, hk, hc, hkept⟩ := keptOf_eq s ks 0 v c hks
      refine ⟨k, hk, hc, ?_⟩
      obtain ⟨-, hget⟩ := after_each_updCrew s _ (List.nodup_dedup (ks.map s.crewOf)) fun c x => x.withShared r (s.keptOf ks 0 v c)
      rw [after_movShared, hget, if_pos hmem, hcr, hkept]
      rfl
    · intro v
      obtain ⟨k, hk, hc, hkept⟩ := keptOf_eq s ks 0 v c hks
      refine ⟨k, hk, hc, ?_⟩
      obtain ⟨-, hget⟩ := after_each_updCrew s _ (List.nodup_dedup (ks.map s.crewOf)) fun c x => { x with tpc := s.keptOf ks 0 v c }
      rw [after_csrwShared_tpc, hget, if_pos hmem, hcr, hkept]
      rfl
  case frames =>
    intro s ks v w r
    obtain ⟨hmov, hmovget⟩ := after_each_updCrew s _ (List.nodup_dedup (ks.map s.crewOf)) fun c x => x.withShared r (s.keptOf ks 0 v c)
    obtain ⟨hcsrw, hcsrwget⟩ := after_each_updCrew s _ (List.nodup_dedup (ks.map s.crewOf)) fun c x => { x with tpc := s.keptOf ks 0 w c }
    rw [← after_movShared] at hmov hmovget
    rw [← after_csrwShared_tpc] at hcsrw hcsrwget
    refine ⟨hmov, hcsrw, fun c hc => ?_⟩
    have hmem : c ∉ (ks.map s.crewOf).dedup := by
      rw [mem_dedup_map_crewOf]
      rintro ⟨k, hk, hkc⟩
      exact hc k hk hkc
    rw [hmovget, hcsrwget, if_neg hmem, if_neg hmem]
    exact ⟨rfl, rfl⟩
  case csrw =>
    intro s e cr hs hl hcr hmaj p
    rw [hmaj]
    change (_ → s.after (issueCsrw [e]) = _) ∧ (_ → s.after (issueCsrw [e]) = _)
    constructor
    · intro hcode
      rw [after_issueCsrw _ hcode, after_csrwShared_tpc_one s e.k _ cr hcr, envVal_one, after_retire _ e e.l (by exact hl)]
      rfl
    · intro hcode
      rw [after_issueCsrw _ hcode, after_csrwShared_agelim_one s e.k _, envVal_one, after_updPeloton, after_retire _ e e.l (by exact hl), agelimOf_eq]
      have hsrc : BitVec.setWidth 32 (BitVec.setWidth 64 (e.src e.op.fy)) = e.src e.op.fy := by simp
      simp only [csr64, Nat.reduceBEq, Bool.or_self, Bool.false_eq_true, if_false, hsrc, p]
  case csrr =>
    intro s e hs hl hmaj hfx v ws
    rw [hmaj]
    change s.after (issueLong runCsrr [e]) = _
    have hsilent : Op.silent e.op = decide (e.op.fx = .z) := by
      simp [Op.silent, hmaj, show (Maj.csrr == .dpop) = false from rfl, show (Maj.csrr == .dpeek) = false from rfl, beq_eq_decide]
    rw [after_long s e runCsrr hl, runCsrr_eq e hfx, hsilent]
    simp only [hs, ws, v]
  case csrs =>
    intro s k l w cr c hw hcr hc
    have hcore : s.coreOf k = w.core := by simp only [State.coreOf, hw]
    have hctx : s.ctxOf k = w.ctx := by simp only [State.ctxOf, hw]
    simp only [csrValue, hw, hcr, hctx, hc, hcore, State.clusterOf, and_self]

end Sys2Proof
end

section
/-! PROOFS. FETCH_LATCH_FILL (R28, R167): what a fetch does where it may happen, for a word that can be read and for one that cannot. -/

namespace Sys2Proof.Machine

open Sys2Proof

/-- A step that makes no new record happens as it stands. -/
theorem after_recordsInOrder_of_ctxs_eq (s : State) (a : Act) (hctxs : (s.after a).ctxs = s.ctxs)
    (hold : ∀ e ∈ s.ctxs, ∀ f ∈ e.2.faults, f.num < s.fresh) : s.after (recordsInOrder a) = s.after a := by
  have hfollow : s.recordsFollow (s.after a) = true := by
    simp only [State.recordsFollow, hctxs, List.all_eq_true]
    intro e he f hf
    simp [hold e he f hf]
  rw [after_eq, after_eq]
  simp only [recordsInOrder, hfollow, if_true]

theorem get?_lanes_after_updLane (s : State) (k j : LaneId) (f : Lane → Lane) :
    (s.after (updLane k f)).lanes.get? j = if j = k then (s.lanes.get? j).map f else s.lanes.get? j := by
  cases h : s.lanes.get? k with
  | none =>
    rw [after_updLane_none s k f h]
    split
    · next hj => rw [hj, h]; rfl
    · rfl
  | some v =>
    rw [after_updLane s k f v h, Map.get?_set]
    split
    · next hj => rw [hj, h]; rfl
    · rfl

/-- The same change of several lanes, which changes nothing when it is made again. -/
theorem after_each_updLane (s : State) (ks : List LaneId) (f : Lane → Lane) (hf : ∀ l, f (f l) = f l) :
    s.after (Act.each ks fun k => updLane k f) = { s with lanes := (s.after (Act.each ks fun k => updLane k f)).lanes } ∧
    ∀ j, (s.after (Act.each ks fun k => updLane k f)).lanes.get? j = (s.lanes.get? j).map fun l => if j ∈ ks then f l else l := by
  induction ks generalizing s with
  | nil => simp
  | cons k ks ih =>
    rw [after_each_cons]
    have hframe := after_updLane_frame s k f
    obtain ⟨ihframe, ihget⟩ := ih (s.after (updLane k f))
    refine ⟨by rw [ihframe, hframe], fun j => ?_⟩
    rw [ihget, get?_lanes_after_updLane]
    by_cases hj : j = k
    · subst hj
      cases s.lanes.get? j with
      | none => simp
      | some l => simp [hf]
    · simp [hj]

/-! ### The conditions and the parts of a fetch -/

/-- Has the port of a lane fetched fewer than four words in this cycle (R167)? -/
def State.mayFetch (s : State) (k : LaneId) : Prop := (s.port (s.portOf k)).front.1 = s.now → (s.port (s.portOf k)).front.2 < 4

/-- Does lane `j` wait for the same word as lane `k` at the same port? -/
def State.sharesWord (s : State) (k j : LaneId) : Bool :=
  s.fetches j && s.pcOf j == s.pcOf k && s.ctxOf j == s.ctxOf k && s.portOf j == s.portOf k

/-- The lanes that a fetch is made for. -/
def State.sharers (s : State) (k : LaneId) : List LaneId := (s.lanes.map (·.1)).filter (s.sharesWord k)

/-- How many words the port of a lane has fetched in this cycle, once it has fetched one more. -/
def State.fetched (s : State) (k : LaneId) : Nat := (if (s.port (s.portOf k)).front.1 = s.now then (s.port (s.portOf k)).front.2 else 0) + 1

/-- The count of a port's fetches. -/
def noteFetch (s : State) (k : LaneId) : Act := updPort (s.portOf k) fun q => { q with front := (s.now, s.fetched k) }

theorem not_four_le_used {s : State} {k : LaneId} (h : s.mayFetch k) :
    ¬ 4 ≤ (if (s.port (s.portOf k)).front.1 = s.now then (s.port (s.portOf k)).front.2 else 0) := by
  split
  · next hnow => exact Nat.not_le.2 (h hnow)
  · decide

/-- Every search for a parcel begins in memory. -/
theorem not_hit : ((List.range 3).all fun i => (([2, 2, 2] : List Nat)[i]?).getD 0 == 0) = false := by decide

/-- A fetch of a word whose PC fails a check (R48): the lanes that wait for it ask afresh and fault-park. -/
theorem after_stepFetch_bad {s : State} {k : LaneId} {x : Nat × Nat} (hfetches : s.fetches k = true) (hmay : s.mayFetch k)
    (hbad : s.pcBad (s.ctxOf k) (s.gangOf k) (s.pcOf k) = some x) :
    s.after (stepFetch k [2, 2, 2] 0) = ((s.after (noteFetch s k)).after
      (Act.each (s.sharers k) fun j => updLane j fun l => { l with asked := none })).after
        (faultAll ((s.sharers k).filterMap fun j => some (x.1, 0, ⟨j, x.2, s.pcOf k⟩))) := by
  rw [after_eq]
  simp only [stepFetch, hfetches, hbad, not_hit, not_four_le_used hmay, Bool.and_false, Bool.not_true, Bool.false_eq_true, if_false,
    Bool.false_and, Option.isNone_some, decide_false, Bool.or_self]
  rw [← after_eq, after_all_cons, after_all_cons, after_all_cons, after_all_cons, after_all_nil, after_when, if_neg Bool.false_ne_true]
  rfl

/-- The parcels of a word in memory. -/
def State.wordAt (s : State) (key : Nat → Nat) : BitVec 96 :=
  wordOfParcels (BitVec.ofNat 32 (s.num (key 0) 4)) (BitVec.ofNat 32 (s.num (key 1) 4)) (BitVec.ofNat 32 (s.num (key 2) 4))

theorem parcel_memory (s : State) (port key : Nat) : s.parcel port key 2 = BitVec.ofNat 32 (s.num key 4) := rfl

/-- The parcels of a word, and none ahead of it, enter the instruction cache and the L0 of a lane's port (R28, R167). -/
def cacheWord (s : State) (k : LaneId) (word : Nat → Word) : Act := Act.all [
  Act.each (List.range 3) fun i => Act.opt (s.codeAt k i) fun key =>
    Act.all [cacheParcel (s.portOf k / 16) key (word i), l0Parcel (s.portOf k) key (word i)],
  Act.each ((List.range 0).map (· + 3)) fun i => Act.opt (s.codeAt k i) fun key => cacheParcel (s.portOf k / 16) key (BitVec.ofNat 32 (s.num key 4))]

theorem onCaches_cacheWord (s : State) (k : LaneId) (word : Nat → Word) : (cacheWord s k word).Only Upd.onCaches :=
  only_seq (only_each fun _ _ => only_opt fun _ _ => only_seq (onCaches_updCluster _ _) (only_seq (onCaches_updPort _ _) only_skip))
    (only_seq (only_each fun _ _ => only_opt fun _ _ => onCaches_updCluster _ _) only_skip)

/-- A lane whose latch has been filled with a word. -/
def Lane.filled (raw : BitVec 96) (op : Op) (since : Nat) (l : Lane) : Lane := { l with latch := some { raw := raw, op := op, since := since }, asked := none }

theorem each_congr {α : Type} {xs : List α} {f g : α → Act} (h : ∀ x ∈ xs, f x = g x) : Act.each xs f = Act.each xs g :=
  congrArg Act.all (List.map_congr_left h)

/-- A fetch of a word that can be read and that each lane which waits for it may execute: their latches are filled, and besides them caches
and the port's count change alone. -/
theorem after_stepFetch_good {s : State} {k : LaneId} {key : Nat → Nat} {op : Op} (hfetches : s.fetches k = true) (hmay : s.mayFetch k)
    (hbad : s.pcBad (s.ctxOf k) (s.gangOf k) (s.pcOf k) = none) (hcode : ∀ i < 3, s.codeAt k i = some (key i))
    (hop : ∀ j ∈ s.sharers k, ∃ w, s.wgs.get? j.wg = some w ∧ decode (w.desc.regs / 8) (s.wordAt key) = .ok op) :
    ∃ a : Act, a.Only Upd.onCaches ∧ s.after (stepFetch k [2, 2, 2] 0) = (s.after a).after
      (Act.each (s.sharers k) fun j => updLane j (Lane.filled (s.wordAt key) op (s.now + 1))) := by
  have h0 := hcode 0 (by decide)
  have h1 := hcode 1 (by decide)
  have h2 := hcode 2 (by decide)
  rw [after_eq]
  simp only [stepFetch, hfetches, hbad, not_hit, not_four_le_used hmay, h0, h1, h2, Bool.and_false, Bool.not_true, Bool.false_eq_true, if_false,
    Bool.false_and, Option.isNone_none, decide_false, Bool.or_self, Bool.not_false, Bool.and_self]
  rw [← after_eq, after_all_cons, after_all_cons, after_all_cons, after_all_cons, after_all_nil]
  have hgot : ∀ j ∈ s.sharers k, decode ((match s.wgs.get? j.wg with | some w => w.desc.regs | none => 0) / 8) (s.wordAt key) = .ok op := fun j hj => by
    obtain ⟨w, hw, hdec⟩ := hop j hj
    rw [hw]; exact hdec
  refine ⟨Act.seq (noteFetch s k) (cacheWord s k fun i => match s.codeAt k i with | some key => s.parcel (s.portOf k) key (([2, 2, 2][i]?).getD 0) | none => 0),
    only_seq (onCaches_updPort _ _) (onCaches_cacheWord s k _), ?_⟩
  have hraw : wordOfParcels (s.parcel (s.portOf k) (key 0) (([2, 2, 2][0]?).getD 0)) (s.parcel (s.portOf k) (key 1) (([2, 2, 2][1]?).getD 0))
    (s.parcel (s.portOf k) (key 2) (([2, 2, 2][2]?).getD 0)) = s.wordAt key := rfl
  have hfails : ((s.sharers k).filterMap fun j => match (match decode ((match s.wgs.get? j.wg with | some w => w.desc.regs | none => 0) / 8) (s.wordAt key) with
      | .ok op => Except.ok op | .error c => Except.error (0, c)) with
      | .error x => some (x.1, 0, (⟨j, x.2, s.pcOf k⟩ : Failing)) | .ok (_ : Op) => none) = [] := by
    rw [List.filterMap_eq_nil_iff]
    intro j hj
    rw [hgot j hj]
  have hfills : Act.each (s.sharers k) (fun j => match (match decode ((match s.wgs.get? j.wg with | some w => w.desc.regs | none => 0) / 8) (s.wordAt key) with
      | .ok op => Except.ok op | .error c => Except.error (0, c)) with
      | .ok op => updLane j (Lane.filled (s.wordAt key) op (s.now + 1)) | .error (_ : Nat × Nat) => updLane j fun l => { l with asked := none }) =
      Act.each (s.sharers k) fun j => updLane j (Lane.filled (s.wordAt key) op (s.now + 1)) :=
    each_congr fun j hj => by rw [hgot j hj]
  rw [hraw, after_seq]
  exact (congrArg₂ State.after (congrArg (State.after _) hfills) (congrArg faultAll hfails)).trans (after_faultAll_nil _)

/-! ### O36 -/

theorem mem_sharers {s : State} {k j : LaneId} : j ∈ s.sharers k ↔ j ∈ s.lanes.map (·.1) ∧ s.sharesWord k j = true := List.mem_filter

/-- Settles O36: a word that each lane which waits for it may execute fills their latches (`after_stepFetch_good`), and one whose PC fails a
check fault-parks the lane that waits for it (`after_stepFetch_bad`). -/
theorem fetchFillsLatches : Obligations.FetchFillsLatches := by
  unfold Obligations.FetchFillsLatches
  refine ⟨fun s k key op hfetches hold hbad hmay hkey => ?_, fun s k l kind cause hfetches hl hstop hbad hnodup hmay honly => ?_⟩
  · intro shares parcel hdec
    obtain ⟨a, honly, hafter⟩ := after_stepFetch_good hfetches hmay hbad hkey fun j hj => hdec j (mem_sharers.1 hj).2
    have hcache := after_onCaches_frame honly s
    obtain ⟨hframe, hget⟩ := after_each_updLane (s.after a) (s.sharers k) (Lane.filled (s.wordAt key) op (s.now + 1)) fun _ => rfl
    rw [← hafter] at hframe hget
    have hlanes : (s.after a).lanes = s.lanes := by rw [hcache]
    refine ⟨s.after (stepFetch k [2, 2, 2] 0), ?_, ?_, fun j => ?_⟩
    · change run (recordsInOrder (stepFetch k [2, 2, 2] 0)) s = _
      rw [run, after_recordsInOrder_of_ctxs_eq _ _ (by rw [hframe, hcache]) hold]
    · rw [hframe, hcache]
    · rw [hget, hlanes]
      cases hj : s.lanes.get? j with
      | none => rfl
      | some l =>
        have hmem : j ∈ s.sharers k ↔ shares j = true := mem_sharers.trans (and_iff_right (List.mem_map_of_mem (Map.mem_of_get? hj)))
        simp only [Option.map_some, hmem]
        rfl
  · have hself : ∀ j ∈ s.lanes.map (·.1), s.sharesWord k j = (j == k) := fun j _ => by
      rw [Bool.eq_iff_iff, beq_iff_eq]
      constructor
      · intro h
        simp only [State.sharesWord, Bool.and_eq_true, beq_iff_eq] at h
        obtain ⟨⟨⟨hf, hpc⟩, hctx⟩, hport⟩ := h
        exact honly j hf hpc hctx hport
      · rintro rfl
        simp [State.sharesWord, hfetches]
    have hone : s.sharers k = [k] := by
      rw [State.sharers, List.filter_congr hself, List.filter_beq]
      exact congrArg (List.replicate · k) (List.count_eq_one_of_mem hnodup (List.mem_map_of_mem (Map.mem_of_get? hl)))
    refine ⟨{ s.port (s.portOf k) with front := (s.now, s.fetched k) }, ?_, rfl⟩
    change run (recordsInOrder (stepFetch k [2, 2, 2] 0)) s = _
    rw [run, after_recordsInOrder _ _ hstop, after_stepFetch_bad hfetches hmay hbad, hone, after_each_cons, after_each_nil, noteFetch, after_updPort,
      after_updLane _ k _ l (by exact hl)]
    rw [List.filterMap_cons, List.filterMap_nil, after_faultAll_one]

end Sys2Proof.Machine
end

section
/-! PROOFS. Answers to fault records (R391, R392, R395, R410): what leaving a record does to the records of its context and to the lanes, and each
answer as such leavings. -/

namespace Sys2Proof.Machine

open Sys2Proof

/-! ### Leaving a record -/

/-- A record that holds no lane of a set any more. -/
def FaultRec.without (g : FaultRec) (p : LaneId → Bool) : FaultRec := { g with held := g.held.filter fun h => !p h.1 }

/-- Does a record stand: it waits to be written, is a command's or holds a lane? -/
def FaultRec.stands (g : FaultRec) : Bool := g.fid.isNone || g.cmd.isSome || !g.held.isEmpty

theorem FaultRec.without_without (g : FaultRec) (p q : LaneId → Bool) : (g.without p).without q = g.without fun k => p k || q k := by
  simp only [FaultRec.without, List.filter_filter, Bool.not_or, Bool.and_comm]

theorem FaultRec.stands_of_without {g : FaultRec} {p : LaneId → Bool} (h : (g.without p).stands = true) : g.stands = true := by
  cases hheld : g.held with
  | nil => simpa [FaultRec.stands, FaultRec.without, hheld] using h
  | cons x r => simp [FaultRec.stands, hheld]

theorem filter_stands_without (fs : List FaultRec) (p : LaneId → Bool) :
    ((fs.filter FaultRec.stands).map (·.without p)).filter FaultRec.stands = (fs.map (·.without p)).filter FaultRec.stands := by
  induction fs with
  | nil => rfl
  | cons g fs ih =>
    cases hg : g.stands with
    | true => simp only [List.filter_cons, hg, if_true, List.map_cons, ih]
    | false =>
      have hgp : (g.without p).stands = false := Bool.eq_false_iff.2 fun h => Bool.eq_false_iff.1 hg (FaultRec.stands_of_without h)
      simp only [List.filter_cons, hg, hgp, List.map_cons, ih, Bool.false_eq_true, if_false]

/-- A context's records when no lane of a set is held any more: those that then stand. -/
def Ctx.without (v : Ctx) (p : LaneId → Bool) : Ctx := { v with faults := (v.faults.map (·.without p)).filter FaultRec.stands }

theorem Ctx.without_without (v : Ctx) (p q : LaneId → Bool) : (v.without p).without q = v.without fun k => p k || q k := by
  simp only [Ctx.without, filter_stands_without, List.map_map, Function.comp_def, FaultRec.without_without]

theorem after_unlist {s : State} {k : LaneId} {c : Nat} {v : Ctx} (hk : s.ctxOf k = c) (hv : s.ctxs.get? c = some v) :
    s.after (unlist k) = { s with ctxs := s.ctxs.set c (v.without fun j => j == k) } := by
  rw [after_eq]
  simp only [unlist, hk]
  rw [← after_eq, after_updCtx s c _ v hv]
  simp only [decide_not, ← beq_eq_decide]
  rfl

/-- An action on a lane that takes it out of its record and changes the lane by `f`. -/
def Releases (act : LaneId → Act) (f : Lane → Lane) : Prop := ∀ (s : State) (k : LaneId) (c : Nat) (v : Ctx), s.ctxOf k = c → s.ctxs.get? c = some v →
  s.after (act k) = ({ s with ctxs := s.ctxs.set c (v.without fun j => j == k) } : State).after (updLane k f)

theorem after_updLane_updLane (s : State) (k : LaneId) (f g : Lane → Lane) :
    (s.after (updLane k f)).after (updLane k g) = s.after (updLane k fun l => g (f l)) := by
  cases hl : s.lanes.get? k with
  | none => rw [after_updLane_none s k f hl, after_updLane_none s k g hl, after_updLane_none s k _ hl]
  | some l => rw [after_updLane s k f l hl, after_updLane s k _ l hl, after_updLane _ k g _ (Map.get?_set_self ..), Map.set_set]

theorem after_updLane_ctxs (s : State) (k : LaneId) (f : Lane → Lane) (cs : Map Nat Ctx) :
    ({ s with ctxs := cs } : State).after (updLane k f) = { s.after (updLane k f) with ctxs := cs } := by
  rw [after_eq, after_eq]
  simp only [updLane]
  split <;> rfl

/-- A lane that no record holds any more and that is not in the fault park. -/
def Lane.released (l : Lane) : Lane := { l with heldBy := none, parks := { l.parks with fault := false } }

theorem releases_leaveRecord : Releases leaveRecord Lane.released :=
  fun s k c v hk hv => by rw [leaveRecord, after_all_cons, after_all_cons, after_all_nil, after_unlist hk hv]; rfl

/-- A lane that has left its record with an empty latch. -/
def Lane.afresh (l : Lane) : Lane := { l with latch := none, heldBy := none, parks := { l.parks with fault := false } }

theorem releases_toTrap : Releases (fun k => Act.all [leaveRecord k, updLane k fun l => { l with latch := none }]) Lane.afresh :=
  fun s k c v hk hv => by
    rw [after_all_cons, after_all_cons, after_all_nil, releases_leaveRecord s k c v hk hv, after_updLane_updLane]
    rfl

theorem releases_condemn : Releases condemn fun l => { l with heldBy := none } :=
  fun s k c v hk hv => by rw [condemn, after_all_cons, after_all_cons, after_all_nil, after_unlist hk hv]

theorem releases_retryLane : Releases retryLane fun l => { l with
    latch := none, heldBy := none, parks := { l.parks with fault := false, trap := if l.trapLane then false else l.parks.trap } } :=
  fun s k c v hk hv => by
    rw [retryLane, after_all_cons, after_all_cons, after_all_nil, releases_leaveRecord s k c v hk hv, after_updLane_updLane]; rfl

theorem releases_resumeLane {kind : Nat} (h : kind ≠ 8) (rpc : DWord) : Releases (resumeLane · kind rpc) fun l => { l with
    pc := rpc, latch := none, heldBy := none, parks := { l.parks with fault := false } } :=
  fun s k c v hk hv => by
    change s.after (resumeLane k kind rpc) = _
    rw [resumeLane, after_all_cons, after_all_cons, after_all_cons, after_all_nil, releases_leaveRecord s k c v hk hv, after_updLane_updLane,
      beq_false_of_ne h, after_when, if_neg Bool.false_ne_true]
    simp only [Bool.and_false, if_neg Bool.false_ne_true]
    rfl

/-- Releasing several lanes of one context: their records are left at once, and each lane changes. -/
theorem after_each_releases {act : LaneId → Act} {f : Lane → Lane} (hact : Releases act f) (s : State) (c : Nat) (v : Ctx) (ks : List (LaneId × Nat))
    (hk : ∀ x ∈ ks, s.ctxOf x.1 = c) (hv : s.ctxs.get? c = some v) :
    s.after (Act.each ks fun x => act x.1) =
      ({ s with ctxs := if ks = [] then s.ctxs else s.ctxs.set c (v.without fun j => decide (j ∈ ks.map (·.1))) } : State).after
        (Act.each (ks.map (·.1)) fun k => updLane k f) := by
  induction ks generalizing s v with
  | nil => rfl
  | cons x ks ih =>
    have hx := hact s x.1 c v (hk x (by simp)) hv
    have hctxs : (s.after (act x.1)).ctxs = s.ctxs.set c (v.without fun j => j == x.1) := by rw [hx, after_updLane_ctxs]
    have hwgs : (s.after (act x.1)).wgs = s.wgs := by rw [hx, after_updLane_frame]
    have hleft : (if ks = [] then (s.after (act x.1)).ctxs
        else (s.after (act x.1)).ctxs.set c ((v.without fun j => j == x.1).without fun j => decide (j ∈ ks.map (·.1)))) =
        s.ctxs.set c (v.without fun j => decide (j ∈ x.1 :: ks.map (·.1))) := by
      rw [hctxs, Map.set_set, Ctx.without_without]
      split
      · next hnil => simp only [hnil, List.map_nil, List.mem_singleton, beq_eq_decide]
      · simp only [List.mem_cons, Bool.decide_or, beq_eq_decide]
    rw [after_each_cons, ih (s.after (act x.1)) (v.without fun j => j == x.1) (fun y hy => ?_) (by rw [hctxs, Map.get?_set_self]), List.map_cons,
      after_each_cons, if_neg (List.cons_ne_nil x ks), hleft]
    · rw [after_updLane_ctxs, hx, after_updLane_ctxs]
    · rw [State.ctxOf, hwgs]
      exact hk y (by simp [hy])

/-! ### The lanes that an answer reaches -/

/-- Does a record hold a lane that an answer's mask names? -/
def FaultRec.reaches (f : FaultRec) (amask : DWord) (k : LaneId) : Bool := f.held.any fun h => decide (h.1 = k) && amask.getLsbD h.2.1

theorem mem_answered (f : FaultRec) (amask : DWord) (k : LaneId) : k ∈ (f.answered amask).map (·.1) ↔ f.reaches amask k = true := by
  simp only [FaultRec.answered, FaultRec.reaches, List.mem_map, List.mem_filter, List.any_eq_true, Bool.and_eq_true, decide_eq_true_eq]
  constructor
  · rintro ⟨_, ⟨h, ⟨hheld, hmask⟩, rfl⟩, rfl⟩
    exact ⟨h, hheld, rfl, hmask⟩
  · rintro ⟨h, hheld, rfl, hmask⟩
    exact ⟨_, ⟨h, ⟨hheld, hmask⟩, rfl⟩, rfl⟩

/-- The contexts after an answer. -/
def State.answeredCtxs (s : State) (c : Nat) (v : Ctx) (f : FaultRec) (amask : DWord) : Map Nat Ctx :=
  if f.answered amask = [] then s.ctxs else s.ctxs.set c (v.without (f.reaches amask))

theorem ctxOf_answered {s : State} {c : Nat} {f : FaultRec} (hheld : ∀ h ∈ f.held, s.ctxOf h.1 = c) (amask : DWord) :
    ∀ x ∈ f.answered amask, s.ctxOf x.1 = c := by
  intro x hx
  obtain ⟨h, hh, rfl⟩ := List.mem_map.1 hx
  exact hheld h (List.mem_filter.1 hh).1

/-- Releasing the lanes that an answer reaches. -/
theorem after_releases_answered {act : LaneId → Act} {g : Lane → Lane} (hact : Releases act g) (hg : ∀ l, g (g l) = g l) {s : State} {c : Nat}
    {v : Ctx} {f : FaultRec} (hv : s.ctxs.get? c = some v) (hheld : ∀ h ∈ f.held, s.ctxOf h.1 = c) (amask : DWord) :
    s.after (Act.each (f.answered amask) fun x => act x.1) = { s with
      ctxs := s.answeredCtxs c v f amask, lanes := (s.after (Act.each (f.answered amask) fun x => act x.1)).lanes } ∧
    ∀ k, (s.after (Act.each (f.answered amask) fun x => act x.1)).lanes.get? k =
      (s.lanes.get? k).map fun l => if f.reaches amask k then g l else l := by
  have hctxs : (if f.answered amask = [] then s.ctxs else s.ctxs.set c (v.without fun j => decide (j ∈ (f.answered amask).map (·.1)))) =
      s.answeredCtxs c v f amask := by
    rw [State.answeredCtxs]
    simp only [mem_answered, Bool.decide_eq_true]
  rw [after_each_releases hact s c v _ (ctxOf_answered hheld amask) hv, hctxs]
  obtain ⟨hframe, hget⟩ := after_each_updLane { s with ctxs := s.answeredCtxs c v f amask } ((f.answered amask).map (·.1)) g hg
  refine ⟨hframe, fun k => (hget k).trans ?_⟩
  simp only [mem_answered]

/-- One lane that an answer reaches is released. -/
theorem after_releases_one {act : LaneId → Act} {g : Lane → Lane} (hact : Releases act g) {s : State} {c : Nat}
    {v : Ctx} {f : FaultRec} (hv : s.ctxs.get? c = some v) (hheld : ∀ h ∈ f.held, s.ctxOf h.1 = c) {amask : DWord} {k : LaneId} {cause : Nat}
    (hone : f.answered amask = [(k, cause)]) {l : Lane} (hl : s.lanes.get? k = some l) :
    s.after (act k) = { s with ctxs := s.answeredCtxs c v f amask, lanes := s.lanes.set k (g l) } := by
  have hctx := ctxOf_answered hheld amask (k, cause) (by simp [hone])
  have hreach : f.reaches amask = fun j => j == k := by
    funext j
    rw [Bool.eq_iff_iff, ← mem_answered, hone]
    simp
  rw [hact s k c v hctx hv, after_updLane _ k g l (by exact hl), State.answeredCtxs, hone, if_neg (List.cons_ne_nil _ _), hreach]

/-! ### What each answer comes to -/

theorem next_settled_congr {a : Act} {s t : State} (h : s.after a = t) : run a s = .next t.settled := by rw [run, h]

theorem after_answer_lanes {s : State} {c : Nat} {v : Ctx} {f : FaultRec} {fid : Word} {w : Wg} (hup : s.dev.up = true)
    (hv : s.ctxs.get? c = some v) (hf : v.faults.find? (fun f => f.fid == some fid) = some f) (hcmd : f.cmd = none)
    (hw : s.wgs.get? f.wg = some w) (hactive : w.active = true) (amask rpc : DWord) (a : Action) :
    s.after (ifUp (answer c fid amask a rpc)) = s.after (answerLanes f a rpc (f.answered amask)) := by
  rw [after_ifUp _ _ hup, after_eq]
  simp only [answer, hv, hf, hcmd, hw, hactive, if_true]
  rfl

theorem after_answer_parked {s : State} {c : Nat} {v : Ctx} {f : FaultRec} {fid : Word} {w : Wg} (hup : s.dev.up = true)
    (hv : s.ctxs.get? c = some v) (hf : v.faults.find? (fun f => f.fid == some fid) = some f) (hcmd : f.cmd = none)
    (hw : s.wgs.get? f.wg = some w) (hactive : w.active = false) (amask rpc : DWord) (a : Action) :
    s.after (ifUp (answer c fid amask a rpc)) =
      { s with wgs := s.wgs.set f.wg { w with answers := w.answers ++ [(f.num, amask, a.code, rpc)] } } := by
  rw [after_ifUp _ _ hup, after_eq]
  simp only [answer, hv, hf, hcmd, hw, if_neg (Bool.eq_false_iff.1 hactive)]
  rw [← after_eq, after_updWg s f.wg _ w hw]

theorem after_answer_unit {s : State} {c : Nat} {v : Ctx} {f : FaultRec} {fid : Word} {unit id : Nat} (hup : s.dev.up = true)
    (hv : s.ctxs.get? c = some v) (hf : v.faults.find? (fun f => f.fid == some fid) = some f) (hcmd : f.cmd = some (unit, id))
    (amask rpc : DWord) (a : Action) : s.after (ifUp (answer c fid amask a rpc)) = s.after (answerUnit c f unit id a) := by
  rw [after_ifUp _ _ hup, after_eq]
  simp only [answer, hv, hf, hcmd]
  rfl

/-- An answer to a record that is not there, or to a device that is down, changes nothing. -/
theorem after_answer_closed {s : State} {c : Nat} {fid : Word} (h : ∀ v, s.ctxs.get? c = some v → ∀ f ∈ v.faults, f.fid ≠ some fid)
    (amask rpc : DWord) (a : Action) : s.after (ifUp (answer c fid amask a rpc)) = s := by
  cases hup : s.dev.up with
  | false => exact after_ifUp_down _ _ hup
  | true =>
    rw [after_ifUp _ _ hup, after_eq]
    cases hv : s.ctxs.get? c with
    | none => simp only [answer, hv]; rfl
    | some v =>
      have hnone : v.faults.find? (fun f => f.fid == some fid) = none := List.find?_eq_none.2 fun f hf => by simpa using h v hv f hf
      simp only [answer, hv, hnone]
      rfl

theorem after_decideKill {s : State} {n : Nat} {g : Gang} (hg : s.gangs.get? n = some g) (hended : g.ended = false) (hkill : g.kill = none)
    (pc : DWord) : s.after (decideKill n pc) = { s with gangs := s.gangs.set n { g with kill := some pc } } := by
  rw [decideKill, after_updGang s n _ g hg]
  simp only [hended, hkill, Option.isSome_none, Bool.or_self, Bool.false_eq_true, if_false]

/-- A stopped command's record is no command's any more when it closes. -/
def FaultRec.close (num : Nat) (g : FaultRec) : FaultRec := if g.num = num then { g with held := [], cmd := none } else g

theorem filter_map_close (fs : List FaultRec) (num : Nat) (hfid : ∀ g ∈ fs, g.num = num → g.fid ≠ none) :
    ((fs.map (FaultRec.close num)).filter fun g => g.num != num || g.fid.isNone) = fs.filter fun g => g.num != num := by
  have hstays : ∀ g ∈ fs, ((fun g : FaultRec => g.num != num || g.fid.isNone) ∘ FaultRec.close num) g = (g.num != num) := fun g hg => by
    by_cases h : g.num = num
    · simp [FaultRec.close, h, Option.isSome_iff_ne_none, hfid g hg h]
    · simp [FaultRec.close, h]
  have hothers : ∀ g ∈ fs.filter fun g => g.num != num, FaultRec.close num g = id g := fun g hg => if_neg (by simpa using (List.mem_filter.1 hg).2)
  rw [List.filter_map, List.filter_congr hstays, List.map_congr_left hothers, List.map_id]

theorem after_closeRecord {s : State} {c : Nat} {v : Ctx} {num : Nat} (hv : s.ctxs.get? c = some v) (hfid : ∀ g ∈ v.faults, g.num = num → g.fid ≠ none) :
    s.after (closeRecord c num) = { s with ctxs := s.ctxs.set c { v with faults := v.faults.filter fun g => g.num != num } } := by
  rw [closeRecord, after_updCtx s c _ v hv, ← filter_map_close v.faults num hfid]
  rfl

/-- Whether a crew has an open trap depends on its lanes' trap marks alone. -/
theorem trapOpen_set_lane {s : State} {k : LaneId} {l l' : Lane} (hl : s.lanes.get? k = some l) (htrap : l'.trapLane = l.trapLane) (cs : Map Nat Ctx)
    (c : CrewId) : ({ s with ctxs := cs, lanes := s.lanes.set k l' } : State).trapOpen c = s.trapOpen c := by
  have hlane : ∀ j, ({ s with ctxs := cs, lanes := s.lanes.set k l' } : State).laneIs j (fun l => l.trapLane) = s.laneIs j fun l => l.trapLane := by
    intro j
    by_cases hj : j = k
    · subst hj
      simp only [State.laneIs, Map.get?_set_self, hl, htrap]
    · simp only [State.laneIs, Map.get?_set_ne _ _ hj]
  simp only [State.trapOpen, hlane]

/-- A lane raises a trap that has a handler, with no trap of its crew open (R180, R392). -/
theorem after_raiseTraps_handled {s : State} {r : Raise} {l : Lane} {cr : Crew} {h : Nat} (hl : s.lanes.get? r.lane = some l)
    (hcr : s.crews.get? (s.crewOf r.lane) = some cr) (hopen : s.trapOpen (s.crewOf r.lane) = false)
    (hh : s.handler (s.ctxOf r.lane) r.cls = h) (h0 : h ≠ 0) (h4 : h % 4 = 0) :
    s.after (raiseTraps [r]) = { s with
      crews := s.crews.set (s.crewOf r.lane) { cr with tpc := r.resume, tcause := tcauseOf r.info r.cause r.cls },
      lanes := s.lanes.set r.lane { l with pc := BitVec.ofNat 64 h, latch := none, trapLane := true } } := by
  have hfails : s.trapFails (s.crewOf r.lane) [r] = [] := by
    simp only [State.trapFails, List.mergeSort_singleton, hopen, hh, if_neg h0, h4, ne_eq, not_true_eq_false, Bool.false_eq_true, if_false]
  rw [after_raiseTraps_one, hfails, after_faultAll_nil,
    after_crewTrap_one s _ r l cr hl hcr hopen (by rw [hh]; exact h0) (by rw [hh]; exact h4), hh]

/-- TRAP of one lane: it leaves its record and takes the trap of class 3 (R392). -/
theorem after_answer_trap {s : State} {c : Nat} {v : Ctx} {f : FaultRec} (hv : s.ctxs.get? c = some v) (hheld : ∀ h ∈ f.held, s.ctxOf h.1 = c)
    {amask : DWord} {k : LaneId} {cause : Nat} (hkind : f.kind < 7) (hone : f.answered amask = [(k, cause)]) {l : Lane} {cr : Crew}
    (hl : s.lanes.get? k = some l) (hcr : s.crews.get? (s.crewOf k) = some cr) (hopen : s.trapOpen (s.crewOf k) = false)
    (h0 : s.handler c 3 ≠ 0) (h4 : s.handler c 3 % 4 = 0) (rpc : DWord) :
    s.after (answerLanes f .trap rpc (f.answered amask)) = { s with
      ctxs := s.answeredCtxs c v f amask,
      lanes := s.lanes.set k { l with latch := none, heldBy := none, parks := { l.parks with fault := false },
                                      pc := BitVec.ofNat 64 (s.handler c 3), trapLane := true },
      crews := s.crews.set (s.crewOf k) { cr with tpc := l.pc, tcause := BitVec.ofNat 32 (cause % 256 * 256 + 3) } } := by
  have hk : s.ctxOf k = c := ctxOf_answered hheld amask (k, cause) (by simp [hone])
  have hleave := after_releases_one releases_toTrap hv hheld hone hl
  have hpc : ({ s with ctxs := s.answeredCtxs c v f amask, lanes := s.lanes.set k l.afresh } : State).pcOf k = l.pc := by
    simp only [State.pcOf, Map.get?_set_self, Lane.afresh]
  have hopen' := (trapOpen_set_lane (l' := l.afresh) hl rfl (s.answeredCtxs c v f amask) (s.crewOf k)).trans hopen
  have hhandler : ({ s with ctxs := s.answeredCtxs c v f amask, lanes := s.lanes.set k l.afresh } : State).handler (s.ctxOf k) 3 = s.handler c 3 := by
    rw [hk, State.handler, State.handler, State.answeredCtxs, if_neg (by simp [hone])]
    simp only [Map.get?_set_self, hv]
    rfl
  rw [answerLanes, if_neg (Nat.not_le.2 hkind), hone, after_all_cons, after_all_cons, after_all_nil, after_each_cons, after_each_nil,
    hleave, after_read, List.map_cons, List.map_nil, hpc,
    after_raiseTraps_handled (cr := cr) (Map.get?_set_self ..) hcr hopen' hhandler h0 h4, Map.set_set]
  have hcause : tcauseOf 0 cause 3 = BitVec.ofNat 32 (cause % 256 * 256 + 3) := by simp [tcauseOf]
  rw [hcause]
  rfl

theorem after_leaveTrap {s : State} {k : LaneId} {l : Lane} (hl : s.lanes.get? k = some l) (htrap : l.trapLane = true) :
    s.after (leaveTrap k) = ({ s with lanes := s.lanes.set k { l with trapLane := false } } : State).after (closeTrap (s.crewOf k)) := by
  rw [after_eq]
  simp only [leaveTrap, State.laneIs, hl, htrap, if_true]
  rw [← after_eq, after_all_cons, after_all_cons, after_all_nil, after_updLane s k _ l hl]

/-- RESUMEAT of a trap lane of a KIND 8 record ends its trap (R395). -/
theorem after_answer_resumeat_trap {s : State} {c : Nat} {v : Ctx} {f : FaultRec} (hv : s.ctxs.get? c = some v) (hheld : ∀ h ∈ f.held, s.ctxOf h.1 = c)
    {amask : DWord} {k : LaneId} {cause : Nat} {rpc : DWord} (hkind : f.kind = 8) (hrpc : rpc.toNat % 4 = 0) (hone : f.answered amask = [(k, cause)])
    {l : Lane} (hl : s.lanes.get? k = some l) (htrap : l.trapLane = true) :
    s.after (answerLanes f .resumeAt rpc (f.answered amask)) = ({ s with
      ctxs := s.answeredCtxs c v f amask,
      lanes := s.lanes.set k { l with
        pc := rpc, latch := none, heldBy := none, trapLane := false, parks := { l.parks with fault := false, trap := false } } } : State).after
          (closeTrap (s.crewOf k)) := by
  have hleave := after_releases_one releases_leaveRecord hv hheld hone hl
  rw [answerLanes, if_neg (not_not.2 hrpc), hone, after_each_cons, after_each_nil, resumeLane, after_all_cons, after_all_cons, after_all_cons,
    after_all_nil, hleave, after_updLane _ k _ _ (Map.get?_set_self ..), Map.set_set, hkind, beq_self_eq_true, after_when, if_pos rfl,
    after_leaveTrap (l := { l.released with pc := rpc, latch := none, parks := { l.released.parks with trap := false } }) ?_ htrap, Map.set_set]
  · rfl
  · refine (Map.get?_set_self ..).trans ?_
    simp only [Lane.released, htrap, Bool.true_and, if_true]

/-- KILL of some lanes condemns them and decides their gang's kill (R410). -/
theorem after_answer_kill {s : State} {cs : Map Nat Ctx} {f : FaultRec} {amask : DWord} (hsome : f.answered amask ≠ [])
    (hframe : s.after (Act.each (f.answered amask) fun x => condemn x.1) = { s with
      ctxs := cs, lanes := (s.after (Act.each (f.answered amask) fun x => condemn x.1)).lanes })
    {g : Gang} (hg : s.gangs.get? f.gang = some g) (hended : g.ended = false) (hkill : g.kill = none) (rpc : DWord) :
    s.after (answerLanes f .kill rpc (f.answered amask)) = { s with
      ctxs := cs, lanes := (s.after (Act.each (f.answered amask) fun x => condemn x.1)).lanes,
      gangs := s.gangs.set f.gang { g with kill := some f.pc } } := by
  have hgang : (s.after (Act.each (f.answered amask) fun x => condemn x.1)).gangs.get? f.gang = some g := by rw [hframe, hg]
  rw [answerLanes, if_neg (by simpa using hsome), after_all_cons, after_all_cons, after_all_nil, after_decideKill hgang hended hkill, hframe]

theorem after_answerUnit_retry (s : State) (c : Nat) (f : FaultRec) (unit id : Nat) : s.after (answerUnit c f unit id .retry) =
    (s.after (if f.kind = 6 then updCmd unit id fun m => { m with stopped := none } else resumeTile unit id)).after (closeRecord c f.num) := by
  rw [after_eq]
  simp only [answerUnit]
  rw [← after_eq, after_all_cons, after_all_cons, after_all_nil]

theorem after_answerUnit_kill {s : State} {f : FaultRec} {g : Gang} (hg : s.gangs.get? f.gang = some g) (hended : g.ended = false)
    (hkill : g.kill = none) (c unit id : Nat) : s.after (answerUnit c f unit id .kill) =
    { s.after (closeRecord c f.num) with gangs := s.gangs.set f.gang { g with kill := some f.pc } } := by
  have hgangs : (s.after (closeRecord c f.num)).gangs = s.gangs := by rw [closeRecord, after_updCtx_frame]
  rw [after_eq]
  simp only [answerUnit, hg, if_neg (Bool.eq_false_iff.1 hended)]
  rw [← after_eq, after_all_cons, after_all_cons, after_all_nil, after_decideKill (by rw [hgangs, hg]) hended hkill, hgangs]

/-! ### O27 -/

/-- Settles O27: an answer to lanes is the leavings of `after_releases_answered` with what the action adds; one to a stopped command acts on the
command and closes the record; the others change nothing or wait. -/
theorem answersActOnLanes : Obligations.AnswersActOnLanes := by
  unfold Obligations.AnswersActOnLanes
  refine ⟨?_, ?_, fun s c v num hv hfid => after_closeRecord hv hfid, fun s c fid amask rpc hclosed => ?_,
    fun s c v f fid amask rpc w hup hv hf hcmd hw hactive => ?_⟩
  · intro s c v f fid amask w hup hv hf hcmd hw hactive hheld held cs
    have hlanes := after_answer_lanes hup hv hf hcmd hw hactive amask
    refine ⟨?_, ?_, ?_, ?_, ?_, ?_, ?_, ?_⟩
    · refine ⟨_, next_settled_congr (hlanes 0 .retry), after_releases_answered releases_retryLane ?_ hv hheld amask⟩
      intro l
      cases l.trapLane <;> rfl
    · intro rpc hkind hrpc
      refine ⟨_, next_settled_congr (hlanes rpc .resumeAt), ?_⟩
      rw [answerLanes, if_neg (not_not.2 hrpc)]
      exact after_releases_answered (releases_resumeLane hkind rpc) (fun _ => rfl) hv hheld amask
    · intro rpc k cause l hkind hrpc hone hl htrap
      exact next_settled_congr ((hlanes rpc .resumeAt).trans (after_answer_resumeat_trap hv hheld hkind hrpc hone hl htrap))
    · intro rpc k cause hrpc hone
      refine next_settled_congr ((hlanes rpc .resumeAt).trans ?_)
      rw [answerLanes, if_pos hrpc, hone, after_all_cons, after_all_cons, after_all_nil, after_each_cons, after_each_nil, List.map_cons, List.map_nil,
        after_faultLanes_one]
    · intro hnone
      refine next_settled_congr ((hlanes 0 .kill).trans ?_)
      rw [answerLanes, hnone]
      rfl
    · intro g hsome hg hended hkill
      obtain ⟨hframe, hget⟩ := after_releases_answered releases_condemn (fun _ => rfl) hv hheld amask
      refine ⟨_, next_settled_congr ((hlanes 0 .kill).trans (after_answer_kill hsome hframe hg hended hkill 0)), rfl, hget⟩
    · intro hkind
      refine next_settled_congr ((hlanes 0 .trap).trans ?_)
      rw [answerLanes, if_pos hkind]
      rfl
    · intro k cause l cr hkind hone hl hcr hopen h0 h4
      exact next_settled_congr ((hlanes 0 .trap).trans (after_answer_trap hv hheld hkind hone hl hcr hopen h0 h4 0))
  · intro s c v f fid amask rpc unit id hup hv hf hcmd
    have hunit := after_answer_unit hup hv hf hcmd amask
    refine ⟨next_settled_congr ((hunit 0 .retry).trans ?_), fun g hg hended hkill => next_settled_congr ((hunit 0 .kill).trans ?_),
      next_settled_congr (hunit 0 .trap), next_settled_congr (hunit rpc .resumeAt)⟩
    · exact after_answerUnit_retry s c f unit id
    · exact after_answerUnit_kill hg hended hkill c unit id
  · exact ⟨next_settled_congr (after_answer_closed hclosed amask 0 .retry), next_settled_congr (after_answer_closed hclosed amask 0 .trap),
      next_settled_congr (after_answer_closed hclosed amask 0 .kill), next_settled_congr (after_answer_closed hclosed amask rpc .resumeAt)⟩
  · have hparked := after_answer_parked hup hv hf hcmd hw hactive amask
    exact ⟨next_settled_congr (hparked 0 .retry), next_settled_congr (hparked 0 .trap), next_settled_congr (hparked 0 .kill),
      next_settled_congr (hparked rpc .resumeAt)⟩

end Sys2Proof.Machine
end

section
/-! PROOFS. CENSUS of a lone lane (R168 to R171, R12, R373): what the parts of a census come to where one lane presents. -/

namespace Sys2Proof.Machine

open Sys2Proof

section
variable {s : State} {port slot : Nat} {k : LaneId} {l : Lane} {x : Latch}

/-- The environment in which the lone lane presents its word. -/
def presented (s : State) (k : LaneId) (l : Lane) (x : Latch) : Env := { s := s, k := k, l := l, op := x.op }

/-! ### Before the issue -/

theorem set_yield_none {m : Lane} (h : m.parks.yield = none) : ({ m with parks := { m.parks with yield := none } } : Lane) = m := by
  rw [← h]

theorem set_sleep_none {m : Lane} (h : m.parks.sleep = none) : ({ m with parks := { m.parks with sleep := none } } : Lane) = m := by
  rw [← h]

theorem set_spawned_none {m : Lane} (h : m.spawned = none) : ({ m with spawned := none } : Lane) = m := by
  cases m
  cases h
  rfl

/-- Where no lane yields, no yield is spent. -/
theorem after_spendYields_id (h : ∀ e ∈ s.lanes, e.2.spawned = none ∧ e.2.parks.yield = none) (core sl : Nat) :
    s.after (spendYields core sl) = s := by
  rw [after_eq]
  simp only [spendYields]
  split
  · rfl
  · rw [← after_eq]
    refine after_each_id s _ _ fun j _ => ?_
    rw [after_eq, ← after_eq, after_when]
    split
    · refine after_updLane_id s j _ fun l hl => ?_
      obtain ⟨-, hyield⟩ := h _ (Map.mem_of_get? hl)
      simp only at hyield
      simp only [hyield]
      exact set_yield_none hyield
    · rfl

/-- With no overdue lane before, only the lone lane can be. -/
theorem overdueNow_lone (p : Peloton) (hp : p.overdue = []) : ∀ j ∈ s.overdueNow p [(k, l)], j = k := by
  intro j hj
  simp only [State.overdueNow, hp, List.nil_append, List.mem_map, List.mem_mergeSort, List.mem_filter, List.mem_singleton] at hj
  obtain ⟨r, ⟨rfl, -⟩, rfl⟩ := hj
  rfl

/-- The class of the lone lane wins, whether the lane is overdue or not (R170). -/
theorem winner_lone (od : List LaneId) (hod : ∀ j ∈ od, j = k) : winner [(k, l)] od = some l.keyOf := by
  cases od with
  | nil => rfl
  | cons j od =>
    have hj : j = k := hod j (by simp)
    subst hj
    simp [winner]

theorem presenting_lone (hx : l.latch = some x) : s.presenting [(k, l)] (some l.keyOf) = [presented s k l x] := by
  simp [State.presenting, hx, Lane.keyOf, presented]

/-- The opening of a lone lane's census changes nothing: no yield is spent, no TSPAWN counted, the gang has started, the lane does not sleep. -/
theorem after_censusOpen_lone (h : LoneLane s port slot k l x) : s.after (censusOpen (port / 4) slot [presented s k l x]) = s := by
  obtain ⟨g, hg, hstarted⟩ := h.started
  rw [after_eq]
  simp only [censusOpen]
  rw [← after_eq, after_all_cons, after_all_cons, after_all_cons, after_all_nil, after_each_id s _ _ ?counted, after_each_id s _ _ ?started,
    after_each_id s _ _ ?awake]
  case counted =>
    refine fun j _ => after_updLane_id s j _ fun m hm => ?_
    obtain ⟨hspawned, hyield⟩ := h.noSpawn _ (Map.mem_of_get? hm)
    simp only at hspawned hyield
    simp only [hspawned, hyield]
    exact (congrArg (fun m : Lane => { m with spawned := none }) (set_yield_none hyield)).trans (set_spawned_none hspawned)
  case started =>
    intro n hn
    have hn : n = s.gangOf k := by simpa [presented] using hn
    rw [hn, after_updGang s _ _ g hg, if_pos hstarted, Map.set_get? _ _ _ hg]
  case awake =>
    intro e he
    rw [List.mem_singleton.1 he]
    refine after_updLane_id s k _ fun m hm => set_sleep_none ?_
    rw [Option.some.inj (hm.symm.trans h.here), h.noPark]
    rfl

/-! ### The issue -/

theorem after_issueClass_go (hguard : guardOf l x.op = true) (hparity : parityHit l x.op = none) :
    s.after (issueClass [presented s k l x]) = s.after (issueMaj x.op.maj [presented s k l x]) := by
  simp only [issueClass, presented, List.filter_cons, List.filter_nil, List.filterMap_cons, List.filterMap_nil, hguard, hparity, if_true, Option.map_none,
    Option.isNone_none, List.isEmpty_cons, Bool.not_false, Bool.not_true, Bool.false_eq_true, if_false, after_all_cons, after_all_nil, after_when, retire,
    after_each_nil]

theorem after_issueClass_noop (hguard : guardOf l x.op = false) (hl : s.lanes.get? k = some l) :
    s.after (issueClass [presented s k l x]) = { s with lanes := s.lanes.set k (l.issued (l.pc + 12) x.op.w) } := by
  have hretire := after_retire s (presented s k l x) l hl
  simp only [issueClass, presented, List.filter_cons, List.filter_nil, List.filterMap_nil, hguard, if_true, List.isEmpty_nil, Bool.not_false, Bool.not_true,
    Bool.false_eq_true, if_false, after_all_cons, after_all_nil, after_when, after_each_nil]
  exact hretire

/-- A lane with no wait that retires its word waits for its results alone, and for those only with W. -/
theorem issued_of_no_wait (h : l.parks.wait = []) (pc : DWord) (w : Bool) :
    l.issued pc w = { l with pc := pc, latch := none, parks := if w then { l.parks with wait := [.results] } else l.parks } := by
  rw [Lane.issued, h]

/-! ### After the issue -/

/-- The closing of a lone lane's census, in a state in which the lane has issued. -/
theorem after_censusClose_lone {u : State} {l' : Lane} {od : List LaneId} (hod : ∀ j ∈ od, j = k)
    (hissued : guardOf l x.op = true → parityHit l x.op = none) (hl' : u.lanes.get? k = some l') (hfault : l'.parks.fault = false) (htrap : l'.parks.trap = false) :
    u.after (censusClose port slot [(k, l)] od [presented s k l x]) = { u with
      lanes := u.lanes.set k { l' with wait := 0 },
      pelotons := u.pelotons.set (port / 4, slot) { u.peloton (port / 4) slot with overdue := [], busyUntil := u.now + 1 },
      ports := u.ports.set port { u.port port with
        last := slot % 4, lastAt := some u.now, busyUntil := u.now + 1, pcens := (u.port port).pcens + 1, pissue := (u.port port).pissue + 1,
        sentAt := if (presented s k l x).inOrder then some u.now else (u.port port).sentAt } } := by
  have hdid : u.didIssue (presented s k l x) = true := by
    cases hguard : guardOf l x.op with
    | true => simp [State.didIssue, presented, hguard, hissued hguard, State.laneIs, hl', hfault, htrap]
    | false => simp [State.didIssue, presented, hguard, State.laneIs, hl', hfault, htrap]
  have hover : (od.filter fun j => !(([presented s k l x].any fun e => e.k == j)) && !u.gone j) = [] :=
    List.filter_eq_nil_iff.2 fun j hj => by simp [presented, hod j hj]
  have hhalf : (decide (s.slot k < 32) || decide (32 ≤ s.slot k)) = true := by simpa using Nat.lt_or_ge _ _
  rw [after_eq]
  simp only [censusClose, List.filter_cons, List.filter_nil, hdid, if_true]
  rw [← after_eq, after_all_cons, after_all_cons, after_all_cons, after_all_nil, after_each_cons, after_each_nil, after_updLane u k _ l' hl']
  rw [hover]
  simp only [presented, List.any_cons, List.any_nil, List.all_cons, List.all_nil, Bool.or_false, Bool.and_true, beq_self_eq_true, if_true, hhalf,
    List.isEmpty_cons, Bool.false_eq_true, if_false, List.length_cons, List.length_nil, after_updPeloton, after_updPort]
  rfl

/-- A lone lane's census is the issue of its word and the closing. -/
theorem after_stepCensus_lone (h : LoneLane s port slot k l x) : ∃ od : List LaneId, (∀ j ∈ od, j = k) ∧ s.after (stepCensus port) =
    (s.after (issueClass [presented s k l x])).after (censusClose port slot [(k, l)] od [presented s k l x]) := by
  have hod := overdueNow_lone (s := s) (k := k) (l := l) _ h.notOverdue
  refine ⟨_, hod, ?_⟩
  have hport : ¬ 2304 ≤ port := Nat.not_le.2 h.port_
  have hyields : s.after (Act.each (((List.range 4).map fun i => 4 * (port % 4) + i).filter fun sl => some sl ≠ some slot) (spendYields (port / 4))) = s :=
    after_each_id s _ _ fun sl _ => after_spendYields_id h.noSpawn _ sl
  have hcensus : s.after (censusOf port slot [(k, l)]) = (s.after (issueClass [presented s k l x])).after
      (censusClose port slot [(k, l)] (s.overdueNow (s.peloton (port / 4) slot) [(k, l)]) [presented s k l x]) := by
    rw [after_eq]
    simp only [censusOf, winner_lone _ hod, presenting_lone h.latched]
    rw [← after_eq, after_all_cons, after_all_cons, after_all_cons, after_all_nil, after_censusOpen_lone h]
  rw [after_eq]
  simp only [stepCensus, h.turn, h.picked, h.fresh, hport, Bool.false_and, Bool.false_eq_true, or_self, if_false]
  rw [← after_eq, after_all_cons, after_all_cons, after_all_nil, hyields, after_opt_some, ← hcensus, after_eq, h.alone, ← after_eq]

end

/-! ### O12 -/

/-- Settles O12: the opening changes nothing, the issue is the word's major (or the retirement of `retire`), and the closing counts it. -/
theorem censusIssuesLoneLane : Obligations.CensusIssuesLoneLane := by
  unfold Obligations.CensusIssuesLoneLane
  refine ⟨fun s port slot k l x l' h hguard => ?_, fun s port slot k l x h hguard => ?_⟩
  · intro u hl' hfault htrap
    obtain ⟨od, hod, hafter⟩ := after_stepCensus_lone h
    refine next_settled_congr (a := recordsInOrder (stepCensus port)) ?_
    rw [after_recordsInOrder _ _ h.calm, hafter, after_issueClass_go hguard h.noParity]
    exact after_censusClose_lone hod (fun _ => h.noParity) hl' hfault htrap
  · obtain ⟨od, hod, hafter⟩ := after_stepCensus_lone h
    have hwait : l.parks.wait = [] := by rw [h.noPark]; rfl
    obtain ⟨hfault, htrap⟩ : (l.issued (l.pc + 12) x.op.w).parks.fault = false ∧ (l.issued (l.pc + 12) x.op.w).parks.trap = false := by
      rw [issued_of_no_wait hwait, h.noPark]
      cases x.op.w <;> exact ⟨rfl, rfl⟩
    refine next_settled_congr (a := recordsInOrder (stepCensus port)) ?_
    rw [after_recordsInOrder _ _ h.calm, hafter, after_issueClass_noop hguard h.here,
      after_censusClose_lone hod (fun _ => h.noParity) (Map.get?_set_self ..) hfault htrap, Map.set_set, issued_of_no_wait hwait]
    rfl

end Sys2Proof.Machine
end

section
/-! PROOFS. Source lines (R54): the word of ILLEGAL, and the check that every other accepted line's word has passed. -/

namespace Sys2Proof.Machine

open Sys2Proof

section

variable {ε α β : Type}

/-- Where two parts in a row give a value, the first part has given one and the second has gone on from it. -/
theorem exists_of_bind_eq_ok {x : Except ε α} {f : α → Except ε β} {b : β} (h : x >>= f = .ok b) : ∃ a, x = .ok a ∧ f a = .ok b := by
  cases x with
  | error e => cases h
  | ok a => exact ⟨a, rfl, h⟩

/-- Behind a test that ends in an error, only the other branch gives a value. -/
theorem eq_ok_of_ite_error {c : Prop} [Decidable c] {e : ε} {x : Except ε β} {b : β} (h : (if c then .error e else x) = .ok b) :
    x = .ok b := by
  split at h
  · cases h
  · exact h

end

/-- The line ILLEGAL takes no operands and no guard, and has one word (R54). -/
theorem lineWord_illegal (sc : Scope) (guard : Option (Bool × Nat)) (prio regs : Nat) (at_ : Nat × Nat) {head : List Char} (rest : List Tok)
    (h : upper head = "ILLEGAL") : lineWord sc guard prio regs at_ head rest =
      if rest.isEmpty && guard.isNone then .ok (0xFF#96 <<< 88, none) else .error .operands := by
  unfold lineWord
  rw [if_pos (by simpa using h)]
  rfl

/-- A line that is not ILLEGAL is accepted with a word in which the assembler finds no failing check, the last thing it looks at. -/
theorem failingCheck_of_lineWord {sc : Scope} {guard : Option (Bool × Nat)} {prio regs : Nat} {at_ : Nat × Nat} {head : List Char}
    {rest : List Tok} {w : BitVec 96} {rel : Option LitRel} (hhead : upper head ≠ "ILLEGAL")
    (h : lineWord sc guard prio regs at_ head rest = .ok (w, rel)) : failingCheck regs w = none := by
  unfold lineWord at h
  rw [if_neg (by simpa using hhead)] at h
  obtain ⟨⟨m, mn, t⟩, -, h⟩ := exists_of_bind_eq_ok h
  obtain ⟨⟨left, hs⟩, -, h⟩ := exists_of_bind_eq_ok (eq_ok_of_ite_error (eq_ok_of_ite_error h))
  obtain ⟨d, -, h⟩ := exists_of_bind_eq_ok h
  obtain ⟨⟨lit, litRel⟩, -, h⟩ := exists_of_bind_eq_ok h
  have hchecked := eq_ok_of_ite_error h
  split at hchecked
  · cases hchecked
  · next hnone =>
    cases hchecked
    exact hnone

end Sys2Proof.Machine

namespace Sys2Proof

open Machine

/-- Settles O60: ILLEGAL is the one line whose word the assembler does not check, and every other word has passed `failingCheck`. -/
theorem linesBecomeWords : Obligations.LinesBecomeWords := by
  unfold Obligations.LinesBecomeWords
  refine ⟨fun sc prio regs at_ => lineWord_illegal sc none prio regs at_ [] (by decide), ?_⟩
  intro sc guard prio regs at_ head rest w rel h
  by_cases hhead : upper head = "ILLEGAL"
  · rw [lineWord_illegal _ _ _ _ _ _ hhead] at h
    split at h
    · next hbare =>
      obtain ⟨hrest, hguard⟩ : rest = [] ∧ guard = none := by simpa using hbare
      cases h
      exact .inl ⟨hhead, hrest, hguard, rfl⟩
    · cases h
  · exact .inr (decode_of_failingCheck (failingCheck_of_lineWord hhead h))

end Sys2Proof
end

section
/-! PROOFS. TTAKE.TRY with nothing to take (R350), issued by one lane: what it leaves in every state. The values go to every result of the lane
that has the number taken at issue, which is that of the issue alone where no older result has it. -/

namespace Sys2Proof.Machine

open Sys2Proof

/-! ### Results that are given their values -/

/-- The lane with one more result outstanding. -/
def Lane.owing (l : Lane) (r : Result) : Lane := { l with results := l.results ++ [r] }

/-- What becomes of a result where the result of a number is given its values. -/
def Result.resolved (x : Result) (id : Nat) (vs : Writes) : Result := if x.id = id then { x with vals := some vs } else x

theorem resolve_eq (l : Lane) (id : Nat) (vs : Writes) : l.resolve id vs = { l with results := l.results.map (·.resolved id vs) } := rfl

theorem resolved_self (r : Result) (vs : Writes) : r.resolved r.id vs = { r with vals := some vs } := if_pos rfl

theorem resolved_eq_self_iff (x : Result) (id : Nat) (vs : Writes) : x.resolved id vs = x ↔ (x.id = id → x.vals = some vs) := by
  unfold Result.resolved
  split
  · next hid => exact ⟨fun h _ => (congrArg Result.vals h).symm, fun h => by rw [← h hid]⟩
  · next hid => exact ⟨fun _ h => absurd h hid, fun _ => rfl⟩

/-- The result that a lane came to owe last is the only one that its values change, exactly where every older one of its number has them. -/
theorem resolve_owing_iff (l : Lane) (r : Result) (vs : Writes) :
    (l.owing r).resolve r.id vs = l.owing { r with vals := some vs } ↔ ∀ x ∈ l.results, x.id = r.id → x.vals = some vs := by
  have hold : l.results.map (·.resolved r.id vs) = l.results ↔ ∀ x ∈ l.results, x.resolved r.id vs = x := by
    simpa using List.map_inj_left (l := l.results) (f := (·.resolved r.id vs)) (g := id)
  have hresults : (l.owing r).resolve r.id vs = l.owing { r with vals := some vs } ↔ l.results.map (·.resolved r.id vs) = l.results := by
    rw [resolve_eq, Lane.owing, Lane.owing, List.map_append, List.map_singleton, resolved_self]
    exact ⟨fun h => List.append_cancel_right (congrArg Lane.results h), fun h => by rw [h]⟩
  rw [hresults, hold]
  exact forall₂_congr fun x _ => resolved_eq_self_iff x r.id vs

/-! ### TTAKE.TRY -/

/-- A result of a lane's instruction under the next free number, with the values that are known of it. -/
def Env.owed (e : Env) (vals : Option Writes) : Result :=
  { id := e.s.fresh, vals := vals, flags := 0, err := none, readyAt := e.s.now + 1, req := none, silent := Op.silent e.op }

/-- What a TTAKE.TRY that takes nothing writes: zeros and false. -/
def Env.takesNothing (e : Env) : Writes := groupWrites e.op (List.replicate 16 0) false

/-- One element takes one number. -/
theorem after_withIds_one {α : Type} (s : State) (x : α) (f : α × Nat → Act) :
    s.after (withIds [x] fun ys => Act.each ys f) = ({ s with fresh := s.fresh + 1 } : State).after (f (x, s.fresh)) := by
  change s.after (Act.seq (fun s => [.fresh (s.fresh + 1)]) (Act.each [(x, s.fresh + 0)] f)) = _
  rw [after_seq, after_each_cons, after_each_nil]
  rfl

theorem after_addResult (s : State) (k : LaneId) (r : Result) (l : Lane) (hl : s.lanes.get? k = some l) :
    s.after (addResult k r) = { s with lanes := s.lanes.set k (l.owing r) } :=
  after_updLane s k _ l hl

/-- Which record a lane's TTAKE takes depends on no lane and on no number. -/
theorem takeable_of_lanes (s : State) (k : LaneId) (n cl : Nat) (ls : Map LaneId Lane) :
    ({ s with fresh := n, lanes := ls } : State).takeable cl (({ s with fresh := n, lanes := ls } : State).ctxOf k) =
      s.takeable cl (s.ctxOf k) := rfl

/-- A TTAKE.TRY with no record to take gives its result the values at once: the lane retires, its result becomes outstanding under the next
number, and every result of that number is zeros and false. -/
theorem after_issueTtake_try_none (s : State) (e : Env) (hs : e.s = s) (hl : s.lanes.get? e.k = some e.l) (hmn : e.mn = 1)
    (hnone : s.takeable (s.clusterOf e.k) (s.ctxOf e.k) = none) :
    s.after (issueTtake [e]) = { s with
      fresh := s.fresh + 1,
      lanes := s.lanes.set e.k (((e.l.owing (e.owed none)).resolve s.fresh e.takesNothing).issued (e.l.pc + 12) e.op.w) } := by
  subst hs
  have hordered : e.s.ordered [e] = [e] := List.mergeSort_singleton e
  have hwait : ¬ e.mn = 0 := by omega
  have htakeable : e.s.takeable e.cl (e.s.ctxOf e.k) = none := hnone
  rw [after_eq]
  simp only [issueTtake, hordered]
  rw [← after_eq, after_all_cons, after_all_cons, after_all_nil, after_retire _ _ _ hl, after_withIds_one]
  simp only [hwait, if_false, after_all_cons, after_all_nil]
  change (State.after _ (addResult e.k (e.owed none))).after _ = _
  rw [after_addResult _ _ _ (e.l.issued (e.l.pc + 12) e.op.w) (Map.get?_set_self ..), after_eq]
  simp only [takeable_of_lanes, htakeable]
  rw [← after_eq]
  change State.after _ (updLane e.k fun l => l.resolve e.s.fresh e.takesNothing) = _
  rw [after_updLane _ _ _ _ (Map.get?_set_self ..)]
  simp only [Map.set_set]
  rfl

/-- A TTAKE.TRY with no record to take leaves the lane's older results as they are, exactly where each of them that has the number of the new
one has its values. -/
theorem after_issueTtake_try_none_iff (s : State) (e : Env) (hs : e.s = s) (hl : s.lanes.get? e.k = some e.l) (hmn : e.mn = 1)
    (hnone : s.takeable (s.clusterOf e.k) (s.ctxOf e.k) = none) :
    s.after (issueTtake [e]) = { s with
      fresh := s.fresh + 1, lanes := s.lanes.set e.k ((e.l.owing (e.owed (some e.takesNothing))).issued (e.l.pc + 12) e.op.w) } ↔
    ∀ x ∈ e.l.results, x.id = s.fresh → x.vals = some e.takesNothing := by
  rw [after_issueTtake_try_none s e hs hl hmn hnone]
  subst hs
  change _ ↔ ∀ x ∈ e.l.results, x.id = (e.owed none).id → x.vals = some e.takesNothing
  rw [← resolve_owing_iff e.l (e.owed none) e.takesNothing]
  constructor
  · intro h
    have hlane := congrArg (fun t : State => t.lanes.get? e.k) h
    simp only [Map.get?_set_self, Option.some.injEq] at hlane
    have hresults := congrArg (fun l : Lane => ({ e.l with results := l.results } : Lane)) hlane
    exact hresults
  · intro h
    have hid : (e.owed none).id = e.s.fresh := rfl
    rw [← hid, h]
    rfl

/-! ### A lane whose older result has the next free number -/

/-- An outstanding result whose value is to come, under the number that the small state gives next. -/
def sameNumber : Result := { id := 10, vals := none, flags := 0, err := none, readyAt := 0, req := none }

/-- The small state's lane, owed it, at a TTAKE.TRY. -/
def takesAgain : Env := Tests.env (Tests.lane.owing sameNumber) { Tests.word .ttake .b32 with min := 1 }

theorem takesAgain_takeable : takesAgain.s.takeable (takesAgain.s.clusterOf takesAgain.k) (takesAgain.s.ctxOf takesAgain.k) = none := rfl

end Sys2Proof.Machine

namespace Sys2Proof

open Machine

/-- Refutes O58: no hypothesis says that the lane's outstanding results have other numbers than the one that the issue takes, and the model gives
the values of TTAKE.TRY, QPUSH and QPOP to every result of that number. The lane of `takesAgain` is owed one whose value is to come: its
TTAKE.TRY, which takes nothing, gives that one the zeros too, and the clause says that it stays without a value. The model gives out each number
once, so what the clause lacks is a hypothesis that the results' numbers lie below the next free one, as other statements have it of fault records;
`after_issueTtake_try_none_iff` says exactly what this clause needs. -/
theorem not_launchesRun : ¬ Obligations.LaunchesRun := by
  unfold Obligations.LaunchesRun
  rintro ⟨hissue, -⟩
  obtain ⟨-, httake, -⟩ := hissue takesAgain.s takesAgain rfl rfl
  obtain ⟨-, hnothing, -⟩ := httake rfl
  have hclaim := hnothing rfl takesAgain_takeable
  have holder := (after_issueTtake_try_none_iff _ takesAgain rfl rfl rfl takesAgain_takeable).1 hclaim sameNumber (by decide) rfl
  cases holder

end Sys2Proof
end

section
/-! PROOFS. Integer instructions issued by one lane: the sums and differences of R130, LEA (R131), the divisions of R133, the shifts of R135
and ISEL (R139). -/

namespace Sys2Proof.Machine

open Sys2Proof

/-! ### Words as values of the types (R95, R126), and values as words (R31) -/

/-- The sign extension of a word's own width is its signed value. -/
theorem signed_toNat {w : Nat} (v : BitVec w) : signed w v.toNat = v.toInt := by
  have hlt := v.isLt
  rw [signed, BitVec.toInt_eq_toNat_cond, Nat.mod_eq_of_lt hlt]
  cases w with
  | zero => simp
  | succ n =>
    have hhalf : v.toNat < 2 ^ n ↔ 2 * v.toNat < 2 ^ (n + 1) := by rw [pow_succ]; omega
    simp only [Nat.add_sub_cancel, hhalf]

theorem value_s32 (v : Word) : Typ.value .s32 v.toNat = v.toInt := signed_toNat v

theorem value_n32 (v : Word) : Typ.value .n32 v.toNat = v.toNat := congrArg Nat.cast (Nat.mod_eq_of_lt v.isLt)

/-- A pair takes a value modulo 2^64, low word first. -/
theorem put64_eq (e : Env) (x : Int) : e.put64 x = (dest e.op.fx (words64 (BitVec.ofInt 64 x)), 0) := by
  have hlow : wrapTo 32 x = (BitVec.ofInt 64 x).setWidth 32 := by
    apply BitVec.eq_of_toNat_eq
    simp only [wrapTo, BitVec.toNat_ofInt, BitVec.toNat_setWidth]
    omega
  have hhigh : wrapTo 32 (x / 2 ^ 32) = (BitVec.ofInt 64 x >>> 32).setWidth 32 := by
    apply BitVec.eq_of_toNat_eq
    simp only [wrapTo, BitVec.toNat_ofInt, BitVec.toNat_setWidth, BitVec.toNat_ushiftRight, Nat.shiftRight_eq_div_pow]
    omega
  rw [Env.put64, hlow, hhigh, words64]

section Operands

variable {e : Env}

theorem val_s32 (o : Opnd) : e.val .s32 o = (e.src o).toInt := value_s32 _

theorem val_n32 (o : Opnd) : e.val .n32 o = (e.src o).toNat := value_n32 _

theorem val_32 {t : Typ} (ht : t = .s32 ∨ t = .n32) (o : Opnd) :
    e.val t o = if t = .s32 then (e.src o).toInt else ((e.src o).toNat : Int) := by
  rcases ht with rfl | rfl
  · exact val_s32 o
  · exact val_n32 o

theorem ofInt_val_32 {t : Typ} (ht : t = .s32 ∨ t = .n32) (o : Opnd) : BitVec.ofInt 32 (e.val t o) = e.src o := by
  rcases ht with rfl | rfl
  · rw [val_s32, BitVec.ofInt_toInt]
  · rw [val_n32, BitVec.ofInt_natCast, BitVec.ofNat_toNat, BitVec.setWidth_eq]

/-- Modulo 2^64 the value of a 32-bit operand is its word, extended by the type. -/
theorem ofInt_val_extends {t : Typ} (ht : t = .s32 ∨ t = .n32) (o : Opnd) :
    BitVec.ofInt 64 (e.val t o) = if t = .s32 then (e.src o).signExtend 64 else (e.src o).setWidth 64 := by
  rcases ht with rfl | rfl
  · rw [val_s32]
    rfl
  · rw [val_n32, BitVec.ofInt_natCast, BitVec.ofNat_toNat]
    rfl

/-- The raw bits of a word go to FX as they are. -/
theorem putRaw_word (h : e.op.typ.is64 = false) (v : Word) : e.putRaw v.toNat = (dest e.op.fx [v], 0) := by
  simp [Env.putRaw, h, Env.put32]

/-- The raw bits of a pair go to the FX pair as they are. -/
theorem putRaw_pair (h : e.op.typ.is64 = true) (v : DWord) : e.putRaw v.toNat = (dest e.op.fx (words64 v), 0) := by
  simp [Env.putRaw, h, put64_eq]

/-- FY and FZ as raw bits are the words, or the pairs, that they name. -/
theorem ra_word (h : e.op.typ.is64 = false) : e.ra = (e.src e.op.fy).toNat := by simp [Env.ra, Env.raw, h]
theorem rb_word (h : e.op.typ.is64 = false) : e.rb = (e.src e.op.fz).toNat := by simp [Env.rb, Env.raw, h]
theorem ra_pair (h : e.op.typ.is64 = true) : e.ra = (e.src64 e.op.typ e.op.fy).toNat := by simp [Env.ra, Env.raw, h]
theorem rb_pair (h : e.op.typ.is64 = true) : e.rb = (e.src64 e.op.typ e.op.fz).toNat := by simp [Env.rb, Env.raw, h]

/-- A value of a 32-bit type goes to FX modulo 2^32. -/
theorem put_word (h64 : e.op.typ.is64 = false) (hwidth : e.op.typ.width = 32) (x : Int) : e.put x = dest e.op.fx [BitVec.ofInt 32 x] := by
  simp [Env.put, Typ.words, h64, hwidth, wrapTo]

end Operands

/-! ### ISEL (R139) -/

theorem runIsel_word {e : Env} (h : e.op.typ.is64 = false) :
    runIsel e = (dest e.op.fx [if e.cond then e.src e.op.fy else e.src e.op.fz], 0) := by
  rw [runIsel, ra_word h, rb_word h, ← apply_ite BitVec.toNat, putRaw_word h]

theorem runIsel_pair {e : Env} (h : e.op.typ.is64 = true) :
    runIsel e = (dest e.op.fx (words64 (if e.cond then e.src64 e.op.typ e.op.fy else e.src64 e.op.typ e.op.fz)), 0) := by
  rw [runIsel, ra_pair h, rb_pair h, ← apply_ite BitVec.toNat, putRaw_pair h]

theorem isBN_iff (t : Typ) : t.isBN = true ↔ t = .b32 ∨ t = .n64 := by cases t <;> decide

theorem minTypOk_isel (mn : Nat) (t : Typ) : minTypOk .isel mn t = true ↔ mn = 0 ∧ (t = .b32 ∨ t = .n64) := by
  rw [← isBN_iff]
  simp [minTypOk]

/-! ### LEA (R131) -/

theorem ofInt_mul_two_pow (w k : Nat) (x : Int) : BitVec.ofInt w (x * (2 ^ k : Nat)) = BitVec.ofInt w x <<< k := by
  have hpow : BitVec.ofNat w (2 ^ k) = BitVec.twoPow w k := BitVec.eq_of_toNat_eq (BitVec.toNat_twoPow w k).symm
  rw [BitVec.ofInt_mul, BitVec.ofInt_natCast, hpow, BitVec.shiftLeft_eq_mul_twoPow]

theorem runLea_eq {e : Env} (ht : e.op.typ = .s32 ∨ e.op.typ = .n32) :
    runLea e = (dest e.op.fx (words64 (e.src64 .n64 e.op.fy +
      ((if e.op.typ = .s32 then (e.src e.op.fz).signExtend 64 else (e.src e.op.fz).setWidth 64 : DWord) <<< e.op.min.toNat) +
      (e.src e.op.third).signExtend 64)), 0) := by
  have hdisp : BitVec.ofInt 64 (e.src e.third).toInt = (e.src e.op.third).signExtend 64 := rfl
  rw [runLea, put64_eq, BitVec.ofInt_add, BitVec.ofInt_add, BitVec.ofInt_natCast, BitVec.ofNat_toNat, BitVec.setWidth_eq, Env.mn,
    ofInt_mul_two_pow, Env.b, ofInt_val_extends ht, hdisp]

/-! ### Sums and differences of 32 bits, wrapped or saturated (R130) -/

/-- A saturating form whose exact value lies outside the range of the type. -/
def Env.saturates (e : Env) (x : Int) : Bool := e.op.min.toNat == 1 && (decide (x < e.op.typ.lo) || decide (e.op.typ.hi < x))

section WrapSat

variable {e : Env} {x : Int}

theorem wrapSat_of_not_saturates (h : e.saturates x = false) (hmn : e.op.min.toNat ≤ 1) : e.wrapSat x = (e.put x, 0) := by
  rcases Nat.le_one_iff_eq_zero_or_eq_one.1 hmn with h0 | h1
  · simp [Env.wrapSat, Env.mn, h0]
  · simp only [Env.saturates, h1, BEq.rfl, Bool.true_and, Bool.or_eq_false_iff, decide_eq_false_iff_not] at h
    simp [Env.wrapSat, Env.mn, h1, clampTo, h]

theorem wrapSat_of_saturates (h : e.saturates x = true) :
    e.wrapSat x = (e.put (if x < e.op.typ.lo then e.op.typ.lo else e.op.typ.hi), fSAT) := by
  simp only [Env.saturates, Bool.and_eq_true, beq_iff_eq, Bool.or_eq_true, decide_eq_true_eq] at h
  obtain ⟨h1, hout⟩ := h
  by_cases hlo : x < e.op.typ.lo
  · simp [Env.wrapSat, Env.mn, h1, clampTo, hlo]
  · simp [Env.wrapSat, Env.mn, h1, clampTo, hlo, hout.resolve_left hlo]

end WrapSat

/-- The exact result of IADD, or of ISUB. -/
def Env.sumOrDiff (e : Env) (sub : Bool) : Int := if sub then e.a - e.b else e.a + e.b

theorem issueMaj_addSub (sub : Bool) (es : List Env) :
    issueMaj (if sub then .isub else .iadd) es = issueShort (fun e => e.wrapSat (e.sumOrDiff sub)) es := by
  cases sub <;> rfl

theorem ofInt_sumOrDiff {e : Env} (ht : e.op.typ = .s32 ∨ e.op.typ = .n32) (sub : Bool) :
    BitVec.ofInt 32 (e.sumOrDiff sub) = if sub then e.src e.op.fy - e.src e.op.fz else e.src e.op.fy + e.src e.op.fz := by
  have ha : BitVec.ofInt 32 e.a = e.src e.op.fy := ofInt_val_32 ht _
  have hb : BitVec.ofInt 32 e.b = e.src e.op.fz := ofInt_val_32 ht _
  cases sub with
  | false => exact (BitVec.ofInt_add ..).trans (by rw [ha, hb]; rfl)
  | true =>
    change BitVec.ofInt 32 (e.a - e.b) = e.src e.op.fy - e.src e.op.fz
    rw [Int.sub_eq_add_neg, BitVec.ofInt_add, BitVec.ofInt_neg, ha, hb, BitVec.sub_eq_add_neg]

/-! ### Shifts of 32 bits (R135) -/

theorem toNat_shiftLeft_of_clamp {w : Nat} (a : BitVec w) (k : Nat) : (if k ≥ w then 0 else a.toNat * 2 ^ k % 2 ^ w) = (a <<< k).toNat := by
  split
  case isTrue h => rw [BitVec.shiftLeft_eq_zero h]; rfl
  case isFalse => rw [BitVec.toNat_shiftLeft, Nat.shiftLeft_eq]

theorem toNat_ushiftRight_of_clamp {w : Nat} (a : BitVec w) (k : Nat) : (if k ≥ w then 0 else a.toNat / 2 ^ k) = (a >>> k).toNat := by
  split
  case isTrue h => rw [BitVec.ushiftRight_eq_zero h]; rfl
  case isFalse => rw [BitVec.toNat_ushiftRight, Nat.shiftRight_eq_div_pow]

/-- From its width on, every count of an arithmetic shift leaves copies of the sign. -/
theorem sshiftRight_min_width {w : Nat} (a : BitVec w) (k : Nat) : a.sshiftRight (min k w) = a.sshiftRight k := by
  rcases Nat.le_total k w with h | h
  · rw [Nat.min_eq_left h]
  · rw [Nat.min_eq_right h]
    apply BitVec.eq_of_getLsbD_eq
    intro i hi
    simp only [BitVec.getLsbD_sshiftRight, show ¬ w + i < w by omega, show ¬ k + i < w by omega, if_false]

theorem ofInt_div_two_pow {w : Nat} (a : BitVec w) (k : Nat) : BitVec.ofInt w (a.toInt / (2 ^ k : Nat)) = a.sshiftRight k := by
  rw [← Int.shiftRight_eq_div_pow, ← BitVec.toInt_sshiftRight, BitVec.ofInt_toInt]

/-- The count of a 32-bit shift: modulo 32 in the form MOD. -/
def Env.shiftBy (e : Env) : Nat := if e.op.min.toNat = 1 then (e.src e.op.fz).toNat % 32 else (e.src e.op.fz).toNat

section Shifts

variable {e : Env}

theorem runShl_word (h64 : e.op.typ.is64 = false) (hwidth : e.op.typ.width = 32) :
    runShl e = (dest e.op.fx [e.src e.op.fy <<< e.shiftBy], 0) := by
  rw [← putRaw_word h64, ← toNat_shiftLeft_of_clamp, runShl, ra_word h64, show e.n = 32 from hwidth]
  rfl

theorem runShr_word (h64 : e.op.typ.is64 = false) (hwidth : e.op.typ.width = 32) :
    runShr e = (dest e.op.fx [e.src e.op.fy >>> e.shiftBy], 0) := by
  rw [← putRaw_word h64, ← toNat_ushiftRight_of_clamp, runShr, ra_word h64, show e.n = 32 from hwidth]
  rfl

theorem runSar_s32 (ht : e.op.typ = .s32) : runSar e = (dest e.op.fx [(e.src e.op.fy).sshiftRight e.shiftBy], 0) := by
  have hn : e.n = 32 := by rw [Env.n, ht]; rfl
  have ha : e.a = (e.src e.op.fy).toInt := by rw [Env.a, ht, val_s32]
  rw [runSar, put_word (by rw [ht]; rfl) hn, hn, ha, ofInt_div_two_pow, Env.shiftBy, Env.mn, Env.count]
  split
  · rfl
  · rw [sshiftRight_min_width]

end Shifts

theorem typ_of_shift_word {m : Maj} {mn : Nat} {t : Typ} (hm : m = .shl ∨ m = .shr) (hok : minTypOk m mn t = true) (h64 : t.is64 = false) :
    t = .b32 := by
  have hbn : t.isBN = true := by rcases hm with rfl | rfl <;> exact (Bool.and_eq_true_iff.1 hok).2
  exact ((isBN_iff t).1 hbn).resolve_right (by rintro rfl; cases h64)

theorem typ_of_sar_word {mn : Nat} {t : Typ} (hok : minTypOk .sar mn t = true) (h64 : t.is64 = false) : t = .s32 := by
  have ht : t = .s32 ∨ t = .s64 := by simpa using (Bool.and_eq_true_iff.1 hok).2
  exact ht.resolve_right (by rintro rfl; cases h64)

/-! ### Division (R133) -/

section Division

variable {t : Typ} {a b : Int}

theorem lo_of_signed (h : t.isSigned = true) : t.lo = -((2 ^ (t.width - 1) : Nat) : Int) := if_pos h

theorem hi_of_signed (h : t.isSigned = true) : t.hi = ((2 ^ (t.width - 1) : Nat) : Int) - 1 := if_pos h

theorem hi_of_unsigned (h : t.isSigned = false) : t.hi = ((2 ^ t.width : Nat) : Int) - 1 := if_neg (by rw [h]; exact Bool.false_ne_true)

/-- The overflowing division: the least value of a signed type, by −1. -/
def divOverflows (t : Typ) (a b : Int) : Bool := t.isSigned && a == -((2 ^ (t.width - 1) : Nat) : Int) && b == -1

theorem divOverflows_eq : divOverflows t a b = (t.isSigned && a == t.lo && b == -1) := by
  cases hsigned : t.isSigned
  · simp [divOverflows, hsigned]
  · rw [divOverflows, hsigned, lo_of_signed hsigned]

theorem divide_zero (t : Typ) (a : Int) : divide t a 0 =
    ((if t.isSigned then (if a < 0 then -((2 ^ (t.width - 1) : Nat) : Int) else ((2 ^ (t.width - 1) : Nat) : Int) - 1)
      else ((2 ^ t.width : Nat) : Int) - 1, fDZ), (a, fDZ)) := by
  cases hsigned : t.isSigned
  · simp [divide, hsigned, hi_of_unsigned]
  · simp [divide, hsigned, lo_of_signed, hi_of_signed]

theorem divide_overflowing (hb : b ≠ 0) (hovf : divOverflows t a b = true) :
    divide t a b = ((((2 ^ (t.width - 1) : Nat) : Int) - 1, fSAT), ((0 : Int), 0)) := by
  rw [divOverflows_eq] at hovf
  have hsigned : t.isSigned = true := by
    simp only [Bool.and_eq_true] at hovf
    obtain ⟨⟨h, -⟩, -⟩ := hovf
    exact h
  rw [divide, if_neg hb, if_pos hovf, hi_of_signed hsigned]

/-- The remainder of a division that is no edge case is a − q · b (R133). -/
theorem divide_regular (hb : b ≠ 0) (hovf : divOverflows t a b = false) : divide t a b = ((a.tdiv b, 0), (a - a.tdiv b * b, 0)) := by
  rw [divOverflows_eq] at hovf
  rw [divide, if_neg hb, if_neg (by rw [hovf]; exact Bool.false_ne_true), Int.tmod_def, Int.mul_comm b]

end Division

/-- IREM, or IDIV. -/
def runDivRem (rem : Bool) : Env → Result2 := if rem then runIrem else runIdiv

theorem runDivRem_eq (rem : Bool) (e : Env) : runDivRem rem e =
    let d := divide e.op.typ e.a e.b
    (e.put (if rem then d.2.1 else d.1.1), if rem then d.2.2 else d.1.2) := by
  cases rem <;> rfl

theorem issueMaj_divRem (rem : Bool) (es : List Env) : issueMaj (if rem then .irem else .idiv) es = issueLong (runDivRem rem) es := by
  cases rem <;> rfl

theorem silent_divRem {e : Env} {rem : Bool} (hmaj : e.op.maj = (if rem then .irem else .idiv)) : Op.silent e.op = decide (e.op.fx = .z) := by
  have hpop : (e.op.maj == .dpop || e.op.maj == .dpeek) = false := by rw [hmaj]; cases rem <;> rfl
  rw [Op.silent, hpop, Bool.false_and, Bool.not_false, Bool.and_true, beq_eq_decide]

theorem minTypOk_divRem (m : Maj) (hm : m = .idiv ∨ m = .irem) (mn : Nat) (t : Typ) : minTypOk m mn t = true ↔ mn = 0 ∧ t.isW = true := by
  rcases hm with rfl | rfl <;> simp [minTypOk]

end Sys2Proof.Machine

namespace Sys2Proof

open Machine

/-- Settles O15. -/
theorem iselChooses : Obligations.IselChooses := by
  unfold Obligations.IselChooses
  refine ⟨minTypOk_isel, ?_⟩
  intro s e hs hl hmaj htyp c ws
  have hrun : runIsel e = (dest e.op.fx ws, 0) := by
    rcases htyp with h | h
    · rw [runIsel_word (by rw [h]; rfl)]
      simp only [ws, h, reduceCtorEq, if_false]
      rfl
    · rw [runIsel_pair (by rw [h]; rfl)]
      simp only [ws, h, if_true]
      rfl
  rw [hmaj]
  exact after_short s e runIsel _ hrun hl

/-- Settles O17. -/
theorem leaAddress : Obligations.LeaAddress := by
  unfold Obligations.LeaAddress
  intro s e hs hl hmaj htyp i v
  rw [hmaj]
  exact after_short s e runLea _ (runLea_eq htyp) hl

/-- Settles O18: a value inside the range changes no crew; one outside it sets SAT, as it issues (log 59). -/
theorem addSubWrapSat : Obligations.AddSubWrapSat := by
  unfold Obligations.AddSubWrapSat
  intro s e cr sub hs hl hexited hcr hidx hmaj htyp hmn x a b exact lo hi sat v
  have hexact : e.sumOrDiff sub = exact := by
    simp only [Env.sumOrDiff, Env.a, Env.b, val_32 htyp]
    rfl
  have hlo : e.op.typ.lo = lo := by rcases htyp with h | h <;> simp only [lo, h] <;> rfl
  have hhi : e.op.typ.hi = hi := by rcases htyp with h | h <;> simp only [hi, h] <;> rfl
  have hput (z : Int) : e.put z = dest e.op.fx [BitVec.ofInt 32 z] := by
    rcases htyp with h | h <;> exact put_word (by rw [h]; rfl) (by rw [h]; rfl) z
  have hsaturates : e.saturates (e.sumOrDiff sub) = sat := by rw [Env.saturates, hlo, hhi, hexact]
  rw [hmaj, issueMaj_addSub]
  cases hsat : sat with
  | false =>
    have hv : v = BitVec.ofInt 32 exact := by
      rw [← hexact, ofInt_sumOrDiff htyp]
      simp only [v, hsat, Bool.false_eq_true, if_false]
      rfl
    have hrun : e.wrapSat (e.sumOrDiff sub) = (dest e.op.fx [v], 0) := by
      rw [hv, ← hput, ← hexact]
      exact wrapSat_of_not_saturates (hsaturates.trans hsat) hmn
    exact after_short s e _ _ hrun hl
  | true =>
    have hv : v = BitVec.ofInt 32 (if exact < lo then lo else hi) := by
      simp only [v, hsat, if_true]
      split <;> rfl
    have hrun : e.wrapSat (e.sumOrDiff sub) = (dest e.op.fx [v], fSAT) := by
      rw [hv, ← hput, ← hexact, ← hlo, ← hhi]
      exact wrapSat_of_saturates (hsaturates.trans hsat)
    exact after_short_flags s e cr _ _ _ hrun hl hexited hcr hidx

/-- Settles O19. -/
theorem shiftCounts : Obligations.ShiftCounts := by
  unfold Obligations.ShiftCounts
  intro s e hs hl hmaj hok h64 n k a v
  rcases hmaj with h | h | h <;> rw [h] at hok ⊢
  · have ht := typ_of_shift_word (.inl rfl) hok h64
    have hrun : runShl e = (dest e.op.fx [v], 0) := by
      simp only [v, h, if_true]
      exact runShl_word h64 (by rw [ht]; rfl)
    exact after_short s e runShl _ hrun hl
  · have ht := typ_of_shift_word (.inr rfl) hok h64
    have hrun : runShr e = (dest e.op.fx [v], 0) := by
      simp only [v, h, reduceCtorEq, if_false, if_true]
      exact runShr_word h64 (by rw [ht]; rfl)
    exact after_short s e runShr _ hrun hl
  · have hrun : runSar e = (dest e.op.fx [v], 0) := by
      simp only [v, h, reduceCtorEq, if_false]
      exact runSar_s32 (typ_of_sar_word hok h64)
    exact after_short s e runSar _ hrun hl

/-- Settles O20. -/
theorem divideCorners : Obligations.DivideCorners := by
  unfold Obligations.DivideCorners
  refine ⟨⟨rfl, rfl, rfl, rfl, fun mn t => ⟨minTypOk_divRem _ (.inl rfl) mn t, minTypOk_divRem _ (.inr rfl) mn t⟩⟩, ?_⟩
  intro s e rem hs hl hmaj hw t n a b ovf q r f
  have hdiv : divide t a b = ((q, if b = 0 then 8#7 else if ovf then 1#7 else 0), (r, if b = 0 then 8#7 else 0)) := by
    by_cases hb : b = 0
    · rw [hb, divide_zero]
      simp only [q, r, hb, if_true]
      rfl
    · cases hovf : ovf with
      | false =>
        rw [divide_regular hb hovf]
        simp only [q, r, hb, hovf, Bool.false_eq_true, if_false]
      | true =>
        rw [divide_overflowing hb hovf]
        simp only [q, r, hb, hovf, if_false, if_true]
        rfl
  have hrun : runDivRem rem e = (dest e.op.fx (t.words (if rem then r else q)), f) := by
    rw [runDivRem_eq, show divide e.op.typ e.a e.b = _ from hdiv]
    cases rem <;> simp [f, Env.put, t]
  rw [hmaj, issueMaj_divRem, after_long s e _ hl, hrun, silent_divRem hmaj]

end Sys2Proof
end

section
/-! PROOFS. Float instructions that copy bits, issued by one lane: FABS and FNEG (R151) and FSEL (R153). -/

namespace Sys2Proof.Machine

open Sys2Proof

/-! ### FABS and FNEG (R151) -/

/-- The value modulo 2^31 is the word with its sign bit cleared. -/
theorem ofNat_toNat_mod_signBit (v : Word) : BitVec.ofNat 32 (v.toNat % 2 ^ 31) = v &&& 0x7FFFFFFF#32 := by
  have hmask : v.toNat % 2 ^ 31 = v.toNat &&& 0x7FFFFFFF := (Nat.and_two_pow_sub_one_eq_mod v.toNat 31).symm
  rw [hmask, BitVec.ofNat_and, BitVec.ofNat_toNat, BitVec.setWidth_eq]

/-- The value with bit 31 inverted is the word with its sign bit inverted. -/
theorem ofNat_toNat_xor_signBit (v : Word) : BitVec.ofNat 32 (Nat.xor v.toNat (2 ^ 31)) = v ^^^ 0x80000000#32 := by
  have hxor : Nat.xor v.toNat (2 ^ 31) = v.toNat ^^^ 0x80000000 := rfl
  rw [hxor, BitVec.ofNat_xor, BitVec.ofNat_toNat, BitVec.setWidth_eq]

/-- FNEG where `neg` is set, else FABS. -/
def runSign (neg : Bool) (e : Env) : Result2 := if neg then runFneg e else runFabs e

theorem issueMaj_sign (neg : Bool) (es : List Env) : issueMaj (if neg then .fneg else .fabs) es = issueShort (runSign neg) es := by
  cases neg <;> rfl

theorem runSign_eq (neg : Bool) (e : Env) :
    runSign neg e = (dest e.op.fx [if neg then e.src e.op.fy ^^^ 0x80000000#32 else e.src e.op.fy &&& 0x7FFFFFFF#32], 0) := by
  cases neg with
  | false => exact congrArg (fun v => (dest e.op.fx [v], 0)) (ofNat_toNat_mod_signBit _)
  | true => exact congrArg (fun v => (dest e.op.fx [v], 0)) (ofNat_toNat_xor_signBit _)

/-! ### FSEL (R153) -/

theorem issueMaj_fsel (es : List Env) : issueMaj .fsel es = issueShort runFsel es := rfl

/-- FSEL reads its condition in the third source, as ISEL does. -/
theorem runFsel_eq (e : Env) :
    runFsel e = (dest e.op.fx [if e.src e.op.third != 0 then e.src e.op.fy else e.src e.op.fz], 0) := rfl

end Sys2Proof.Machine

namespace Sys2Proof

open Machine

/-- Settles O14, by the word that each of the two writes. -/
theorem fabsFnegBits : Obligations.FabsFnegBits := by
  unfold Obligations.FabsFnegBits
  intro s e neg hs hl hmaj v
  rw [hmaj, issueMaj_sign]
  exact after_short s e (runSign neg) _ (runSign_eq neg e) hl

/-- Settles O16. -/
theorem fselChooses : Obligations.FselChooses := by
  unfold Obligations.FselChooses
  intro s e hs hl hmaj
  rw [hmaj, issueMaj_fsel]
  exact after_short s e runFsel _ (runFsel_eq e) hl

end Sys2Proof
end

section
/-! PROOFS. Every step goes on: whatever instruction comes next, its meaning answers a next state (R180, R388, R390). -/

namespace Sys2Proof

open Machine

/-- Settles O2: a step is the meaning of one instruction, and every meaning answers what an action leaves, settled. -/
theorem everyStepGoesOn : Obligations.EveryStepGoesOn := by
  unfold Obligations.EveryStepGoesOn
  intro s
  obtain ⟨a, ha⟩ := exec_next s.nextStep.2 s.advance
  exact ⟨_, ha⟩

end Sys2Proof
end

section
/-! PROOFS. The vote of a census (R170): how two classes compare, and the class that is left after all have been compared. -/

namespace Sys2Proof.Machine

open Sys2Proof

/-! ### How two classes compare -/

/-- How many of the ready lanes present a class. -/
def classCount (rs : List (LaneId × Lane)) (c : Nat) : Nat := (rs.filter fun r => r.2.keyOf == c).length

/-- The smallest block priority among the lanes that present a class. -/
def classLow (rs : List (LaneId × Lane)) (c : Nat) : Nat := ((rs.filter fun r => r.2.keyOf == c).map fun r => r.2.bpOf).foldl Nat.min 64

/-- More lanes win; of equally many the smaller block priority; of these the smaller key (R170). -/
theorem beats_iff {rs : List (LaneId × Lane)} {a b : Nat} : beats rs a b = true ↔ classCount rs b < classCount rs a ∨
    classCount rs b = classCount rs a ∧ (classLow rs a < classLow rs b ∨ classLow rs a = classLow rs b ∧ a ≤ b) := by
  rw [eq_comm (a := classCount rs b)]
  simp only [beats, Bool.or_eq_true, Bool.and_eq_true, decide_eq_true_eq, beq_iff_eq, classCount, classLow]

theorem beats_refl (rs : List (LaneId × Lane)) (a : Nat) : beats rs a a = true := by
  rw [beats_iff]
  omega

theorem beats_trans {rs : List (LaneId × Lane)} {a b c : Nat} (hab : beats rs a b = true) (hbc : beats rs b c = true) : beats rs a c = true := by
  rw [beats_iff] at *
  omega

theorem beats_of_not_beats {rs : List (LaneId × Lane)} {a b : Nat} (h : ¬ beats rs a b = true) : beats rs b a = true := by
  rw [beats_iff] at *
  omega

/-! ### The class that is left -/

/-- The better of the best class so far and one more. -/
def betterClass (rs : List (LaneId × Lane)) (best : Option Nat) (k : Nat) : Option Nat :=
  match best with
  | some b => some (if beats rs b k then b else k)
  | none => some k

theorem betterClass_some (rs : List (LaneId × Lane)) (b k : Nat) : betterClass rs (some b) k = some (if beats rs b k then b else k) := rfl

theorem winner_nil (rs : List (LaneId × Lane)) : winner rs [] = (rs.map fun r => r.2.keyOf).foldl (betterClass rs) none := rfl

/-- The class left of a best one and several more is one of them and beats them all. -/
theorem foldl_betterClass (rs : List (LaneId × Lane)) (ks : List Nat) (b : Nat) :
    ∃ a ∈ b :: ks, ks.foldl (betterClass rs) (some b) = some a ∧ ∀ k ∈ b :: ks, beats rs a k = true := by
  induction ks generalizing b with
  | nil => exact ⟨b, by simp, rfl, by simp [beats_refl]⟩
  | cons c ks ih =>
    rw [List.foldl_cons, betterClass_some]
    obtain ⟨a, hmem, hfold, hbeats⟩ := ih (if beats rs b c then b else c)
    have hbest := hbeats _ List.mem_cons_self
    have hrest : ∀ k ∈ ks, beats rs a k = true := fun k hk => hbeats k (List.mem_cons_of_mem _ hk)
    refine ⟨a, ?_, hfold, ?_⟩
    · split at hmem <;> simp only [List.mem_cons] at hmem ⊢ <;> tauto
    · have hboth : beats rs a b = true ∧ beats rs a c = true := by
        split at hbest
        · next h => exact ⟨hbest, beats_trans hbest h⟩
        · next h => exact ⟨beats_trans hbest (beats_of_not_beats h), hbest⟩
      simpa [hboth] using hrest

/-- Where a lane is ready a class wins, which some lane presents and which beats every lane's class. -/
theorem winner_cons (r : LaneId × Lane) (rs : List (LaneId × Lane)) : ∃ a, winner (r :: rs) [] = some a ∧
    (∃ x ∈ r :: rs, x.2.keyOf = a) ∧ ∀ x ∈ r :: rs, beats (r :: rs) a x.2.keyOf = true := by
  obtain ⟨a, hmem, hfold, hbeats⟩ := foldl_betterClass (r :: rs) (rs.map fun x => x.2.keyOf) r.2.keyOf
  rw [← List.map_cons (f := fun x : LaneId × Lane => x.2.keyOf)] at hmem hbeats
  refine ⟨a, ?_, List.mem_map.1 hmem, fun x hx => hbeats _ (List.mem_map_of_mem hx)⟩
  rw [winner_nil, List.map_cons, List.foldl_cons]
  exact hfold

theorem winner_none_iff (rs : List (LaneId × Lane)) : winner rs [] = none ↔ rs = [] := by
  cases rs with
  | nil => simp [winner]
  | cons r rs =>
    obtain ⟨a, ha, -⟩ := winner_cons r rs
    simp [ha]

/-! ### Overdue lanes -/

/-- The lane that stands first in the overdue order is found among the ready lanes, each of which stands there once. -/
theorem find?_lane_of_nodup {rs : List (LaneId × Lane)} {k : LaneId} {l : Lane} (hmem : (k, l) ∈ rs) (hnodup : (rs.map (·.1)).Nodup) :
    rs.find? (fun r => r.1 == k) = some (k, l) := by
  induction rs with
  | nil => simp at hmem
  | cons r rs ih =>
    obtain ⟨hnot, hnodup⟩ := List.nodup_cons.1 hnodup
    rcases List.mem_cons.1 hmem with rfl | hmem
    · simp
    · have hkey : k ∈ rs.map (·.1) := List.mem_map_of_mem (f := Prod.fst) hmem
      have hne : r.1 ≠ k := (ne_of_mem_of_not_mem hkey hnot).symm
      rw [List.find?_cons_of_neg (by simpa using hne), ih hmem hnodup]

/-- The class of the first overdue lane wins, whatever the others present. -/
theorem winner_overdue {rs : List (LaneId × Lane)} {k : LaneId} {l : Lane} (od : List LaneId) (hmem : (k, l) ∈ rs)
    (hnodup : (rs.map (·.1)).Nodup) : winner rs (k :: od) = some l.keyOf := by
  simp only [winner, List.findSome?_cons, find?_lane_of_nodup hmem hnodup]

end Sys2Proof.Machine

namespace Sys2Proof

open Machine

/-- Settles O13, by the order of the classes (`beats_iff`) and the class that is left of all (`winner_cons`). -/
theorem censusVote : Obligations.CensusVote := by
  unfold Obligations.CensusVote
  refine ⟨?_, winner_none_iff, fun rs od k l => winner_overdue od⟩
  intro rs a ha
  cases rs with
  | nil => simp [winner] at ha
  | cons r rs =>
    obtain ⟨b, hb, hpresented, hbeats⟩ := winner_cons r rs
    obtain rfl : b = a := Option.some.inj (hb.symm.trans ha)
    exact ⟨hpresented, fun x hx => beats_iff.1 (hbeats x hx)⟩

end Sys2Proof
end

section
/-! PROOFS. A trap that one lane raises (R180, R392 to R395): the cases of its handler, and those of a trap that is open already. -/

namespace Sys2Proof.Machine

open Sys2Proof

section
variable {s : State} {c : CrewId} {r : Raise} {l : Lane}

/-- With no trap open, a lane whose class has no handler, or a misaligned one, takes no trap. -/
theorem after_crewTrap_bad (hopen : s.trapOpen c = false)
    (hbad : s.handler (s.ctxOf r.lane) r.cls = 0 ∨ s.handler (s.ctxOf r.lane) r.cls % 4 ≠ 0) : s.after (crewTrap c [r]) = s :=
  after_of_nil (by simp only [crewTrap, List.mergeSort_singleton, hopen, Bool.false_eq_true, if_false, hbad, if_true])

/-- While a trap of its crew is open a lane that raises one waits trap-pending. -/
theorem after_crewTrap_pending (hl : s.lanes.get? r.lane = some l) (hopen : s.trapOpen c = true) :
    s.after (crewTrap c [r]) = { s with lanes := s.lanes.set r.lane { l with parks := { l.parks with trap := true } } } := by
  rw [after_eq]
  simp only [crewTrap, List.mergeSort_singleton, hopen, if_true]
  rw [← after_eq, after_each_cons, after_each_nil, after_updParks s _ _ l hl]

theorem trapFails_taken (hopen : s.trapOpen c = false) (hsome : s.handler (s.ctxOf r.lane) r.cls ≠ 0)
    (haligned : s.handler (s.ctxOf r.lane) r.cls % 4 = 0) : s.trapFails c [r] = [] := by
  simp [State.trapFails, hopen, hsome, haligned]

theorem trapFails_noHandler (hl : s.lanes.get? r.lane = some l) (hopen : s.trapOpen c = false) (hnone : s.handler (s.ctxOf r.lane) r.cls = 0) :
    s.trapFails c [r] = [(7, r.cls, ⟨r.lane, 0x40, l.pc⟩)] := by
  simp [State.trapFails, hopen, hnone, State.pcOf, hl]

theorem trapFails_misaligned (hopen : s.trapOpen c = false) (hmis : s.handler (s.ctxOf r.lane) r.cls % 4 ≠ 0) :
    s.trapFails c [r] = [(2, 0, ⟨r.lane, 0x07, BitVec.ofNat 64 (s.handler (s.ctxOf r.lane) r.cls)⟩)] := by
  have hsome : s.handler (s.ctxOf r.lane) r.cls ≠ 0 := by omega
  simp [State.trapFails, hopen, hsome, hmis]

/-- With a trap open only a trap lane fails. -/
theorem trapFails_open (hl : s.lanes.get? r.lane = some l) (hopen : s.trapOpen c = true) :
    s.trapFails c [r] = if l.trapLane then [(8, 0, ⟨r.lane, 0x41, l.pc⟩)] else [] := by
  cases htrap : l.trapLane <;> simp [State.trapFails, hopen, State.laneIs, State.pcOf, hl, htrap]

end

end Sys2Proof.Machine

namespace Sys2Proof

open Machine

/-- Settles O34, by what the crew of the lane does (`after_crewTrap_one`, `after_crewTrap_bad`, `after_crewTrap_pending`) and by which
lanes fail there (`State.trapFails`). -/
theorem trapIsTaken : Obligations.TrapIsTaken := by
  unfold Obligations.TrapIsTaken
  intro s r l cr hl hcr h
  refine ⟨?taken, ?noHandler, ?misaligned, ?pending⟩
  case taken =>
    intro hopen hsome haligned
    rw [after_raiseTraps_one, after_crewTrap_one s _ r l cr hl hcr hopen hsome haligned, trapFails_taken hopen hsome haligned, after_faultAll_nil]
    rfl
  case noHandler =>
    intro hopen hnone
    rw [after_raiseTraps_one, after_crewTrap_bad hopen (.inl hnone), trapFails_noHandler hl hopen hnone, after_faultAll_one]
  case misaligned =>
    intro hopen hmis
    rw [after_raiseTraps_one, after_crewTrap_bad hopen (.inr hmis), trapFails_misaligned hopen hmis, after_faultAll_one]
  case pending =>
    intro hopen u
    rw [after_raiseTraps_one, after_crewTrap_pending hl hopen, trapFails_open hl hopen]
    refine ⟨fun htrap => ?_, fun htrap => ?_⟩
    · rw [if_neg (Bool.eq_false_iff.1 htrap), after_faultAll_nil]
    · rw [if_pos htrap, after_faultAll_one]

end Sys2Proof
end

section
/-! PROOFS. Changes of several lanes, each with a change of its own, and the flags that go to crews between them. -/

namespace Sys2Proof.Machine

open Sys2Proof

variable {α : Type}

/-- Changes of lanes that are apart change each of them, and nothing else. -/
theorem after_each_updLane_of_nodup (s : State) (xs : List α) (key : α → LaneId) (hnodup : (xs.map key).Nodup) (f : α → Lane → Lane) :
    s.after (Act.each xs fun x => updLane (key x) (f x)) = { s with lanes := (s.after (Act.each xs fun x => updLane (key x) (f x))).lanes } ∧
    (∀ x ∈ xs, (s.after (Act.each xs fun x => updLane (key x) (f x))).lanes.get? (key x) = (s.lanes.get? (key x)).map (f x)) ∧
    ∀ k, (∀ x ∈ xs, key x ≠ k) → (s.after (Act.each xs fun x => updLane (key x) (f x))).lanes.get? k = s.lanes.get? k := by
  induction xs generalizing s with
  | nil => simp
  | cons y xs ih =>
    obtain ⟨hnot, hnodup⟩ := List.nodup_cons.1 hnodup
    have hframe := after_updLane_frame s (key y) (f y)
    have hget := get?_lanes_after_updLane s (key y)
    obtain ⟨ihframe, ihmem, ihnot⟩ := ih (s.after (updLane (key y) (f y))) hnodup
    rw [after_each_cons]
    refine ⟨by rw [ihframe, hframe], fun x hx => ?_, fun k hk => ?_⟩
    · rcases List.mem_cons.1 hx with rfl | hx
      · rw [ihnot (key x) fun z hz hzx => hnot (hzx ▸ List.mem_map_of_mem hz), hget, if_pos rfl]
      · have hne : key x ≠ key y := ne_of_mem_of_not_mem (List.mem_map_of_mem hx) hnot
        rw [ihmem x hx, hget, if_neg hne]
    · rw [ihnot k fun x hx => hk x (List.mem_cons_of_mem _ hx), hget, if_neg (hk y List.mem_cons_self).symm]

/-! ### Flags and lanes -/

/-- Which lanes have gone is a matter of the lanes alone. -/
theorem gone_of_lanes_eq {s t : State} (h : t.lanes = s.lanes) (k : LaneId) : t.gone k = s.gone k := by simp only [State.gone, h]

/-- Flags change crews alone. -/
theorem after_each_setFlags_frame (s : State) (xs : List α) (key : α → LaneId) (f : α → BitVec 7) :
    s.after (Act.each xs fun x => setFlags (key x) (f x)) = { s with crews := (s.after (Act.each xs fun x => setFlags (key x) (f x))).crews } := by
  induction xs generalizing s with
  | nil => rfl
  | cons x xs ih => rw [after_each_cons, ih, after_setFlags_frame]

/-- Flags go to crews as they would before a change of the lanes by which no lane exits. -/
theorem after_setFlags_lanes {s : State} {ls : Map LaneId Lane} (hgone : ∀ k, ({ s with lanes := ls } : State).gone k = s.gone k) (k : LaneId)
    (f : BitVec 7) : ({ s with lanes := ls } : State).after (setFlags k f) = { s.after (setFlags k f) with lanes := ls } := by
  have hcrew : ({ s with lanes := ls } : State).crewOf k = s.crewOf k := rfl
  rw [after_eq, after_eq]
  simp only [setFlags, hgone, hcrew]
  split
  · rfl
  · split
    · split <;> rfl
    · rfl

theorem after_each_setFlags_lanes {s : State} {ls : Map LaneId Lane} (hgone : ∀ k, ({ s with lanes := ls } : State).gone k = s.gone k) (xs : List α)
    (key : α → LaneId) (f : α → BitVec 7) : ({ s with lanes := ls } : State).after (Act.each xs fun x => setFlags (key x) (f x)) =
      { s.after (Act.each xs fun x => setFlags (key x) (f x)) with lanes := ls } := by
  induction xs generalizing s with
  | nil => rfl
  | cons x xs ih =>
    have hsame : (s.after (setFlags (key x) (f x))).lanes = s.lanes := by rw [after_setFlags_frame]
    rw [after_each_cons, after_each_cons, after_setFlags_lanes hgone, ih]
    exact fun k => (hgone k).trans (gone_of_lanes_eq hsame k).symm

/-- A change of a lane is a matter of the lanes alone. -/
theorem after_each_updLane_lanes_congr {s t : State} (h : t.lanes = s.lanes) (xs : List α) (key : α → LaneId) (f : α → Lane → Lane) :
    (t.after (Act.each xs fun x => updLane (key x) (f x))).lanes = (s.after (Act.each xs fun x => updLane (key x) (f x))).lanes := by
  induction xs generalizing s t with
  | nil => exact h
  | cons x xs ih =>
    rw [after_each_cons, after_each_cons]
    refine ih ?_
    cases hl : s.lanes.get? (key x) with
    | none => rw [after_updLane_none s _ _ hl, after_updLane_none t _ _ (h ▸ hl), h]
    | some l => rw [after_updLane s _ _ l hl, after_updLane t _ _ l (h ▸ hl), h]

/-- A change of a lane that keeps whether it has exited leaves the same lanes gone. -/
theorem gone_after_updLane (s : State) (k : LaneId) {f : Lane → Lane} (hf : ∀ l, (f l).exited = l.exited) (j : LaneId) :
    (s.after (updLane k f)).gone j = s.gone j := by
  simp only [State.gone, get?_lanes_after_updLane]
  cases s.lanes.get? j with
  | none => simp
  | some l => by_cases hj : j = k <;> simp [hj, hf]

/-- Lanes that change, none of which exits, with flags between the changes: the lanes change as they do without the flags, and crews as they
do without the changes. -/
theorem after_each_updLane_setFlags (s : State) (xs : List α) (key : α → LaneId) (f : α → Lane → Lane) (hf : ∀ x l, (f x l).exited = l.exited)
    (fl : α → BitVec 7) : s.after (Act.each xs fun x => Act.all [updLane (key x) (f x), setFlags (key x) (fl x)]) =
      { s.after (Act.each xs fun x => setFlags (key x) (fl x)) with lanes := (s.after (Act.each xs fun x => updLane (key x) (f x))).lanes } := by
  induction xs generalizing s with
  | nil => rfl
  | cons x xs ih =>
    have hgone : ∀ k, ({ s with lanes := (s.after (updLane (key x) (f x))).lanes } : State).gone k = s.gone k := fun k => by
      rw [← after_updLane_frame, gone_after_updLane s _ (hf x)]
    have hsame : (s.after (setFlags (key x) (fl x))).lanes = s.lanes := by rw [after_setFlags_frame]
    simp only [after_each_cons, after_all_cons, after_all_nil, ih]
    rw [after_updLane_frame s (key x) (f x), after_setFlags_lanes hgone, after_each_setFlags_lanes]
    · exact congrArg (fun ls => ({ (s.after (setFlags (key x) (fl x))).after (Act.each xs fun x => setFlags (key x) (fl x)) with lanes := ls } : State))
        (after_each_updLane_lanes_congr (by rfl) xs key f)
    · exact fun k => (hgone k).trans (gone_of_lanes_eq hsame k).symm

end Sys2Proof.Machine
end

section
/-! PROOFS. COLLECTIVE_EXECUTE (R184 to R188): who takes part, what each collective gives, and what the step leaves. -/

namespace Sys2Proof.Machine

open Sys2Proof

/-! ### Who takes part -/

/-- What a partial map keeps of a list's keys stands in the order of that list. -/
theorem map_filterMap_sublist {α β γ : Type} {g : α → Option β} {p : β → γ} {q : α → γ} (h : ∀ a b, g a = some b → p b = q a) (xs : List α) :
    ((xs.filterMap g).map p).Sublist (xs.map q) := by
  induction xs with
  | nil => simp
  | cons a xs ih =>
    cases hg : g a with
    | none =>
      rw [List.filterMap_cons_none hg, List.map_cons]
      exact ih.cons _
    | some b =>
      rw [List.filterMap_cons_some hg, List.map_cons, List.map_cons, h a b hg]
      exact ih.cons_cons _

/-- The lanes at a collective are lanes of the crew, in rank order. -/
theorem atCollective_sublist {s : State} {c : CrewId} {xs : List (LaneId × Coll)} (h : s.atCollective c = some xs) :
    (xs.map (·.1)).Sublist (s.crewLive c) := by
  simp only [State.atCollective] at h
  split at h
  · obtain rfl := Option.some.inj h
    have hkeys := map_filterMap_sublist (g := fun k => ((s.lanes.get? k).bind fun l => l.parks.coll).map fun x => (k, x)) (p := (·.1)) (q := id)
      (fun k x hx => by obtain ⟨y, -, rfl⟩ := Option.map_eq_some_iff.1 hx; rfl) (s.crewLive c)
    simpa using hkeys
  · exact absurd h (by simp)

/-- The participants of a collective are different lanes. -/
theorem nodup_parts_lane {s : State} {c : CrewId} {cr : Crew} (hcr : s.crews.get? c = some cr) (hnodup : cr.lanes.Nodup) :
    ((s.parts c).map (·.lane)).Nodup := by
  have hlive : (s.crewLive c).Nodup := by
    simp only [State.crewLive, hcr]
    exact (hnodup.map fun i j hij => (LaneId.mk.inj hij).2).filter _
  simp only [State.parts, hcr]
  cases hat : s.atCollective c with
  | none => simp
  | some xs =>
    refine hlive.sublist (List.Sublist.trans (map_filterMap_sublist (q := (·.1)) ?_ xs) (atCollective_sublist hat))
    intro x p hp
    obtain ⟨y, -, rfl⟩ := Option.map_eq_some_iff.1 hp
    rfl

/-! ### What each collective gives (R186, R187) -/

section Values
variable (ps : List Part) (n lit : Nat) (me : Part)

theorem collValue_lvoteAll (hmaj : me.c.op.maj = .lvote) (hmin : me.c.op.min = 0) :
    collValue ps n lit me = ([if ps.all fun p => p.c.a != 0 then 1 else 0], 0) := by
  simp only [collValue, hmaj, hmin]
  rfl

theorem collValue_lvoteAny (hmaj : me.c.op.maj = .lvote) (hmin : me.c.op.min = 1) :
    collValue ps n lit me = ([if ps.any fun p => p.c.a != 0 then 1 else 0], 0) := by
  simp only [collValue, hmaj, hmin]
  rfl

theorem collValue_lvoteUni (hmaj : me.c.op.maj = .lvote) (hmin : me.c.op.min = 2) (p0 : Part) (rest : List Part) (hps : ps = p0 :: rest) :
    collValue ps n lit me = ([if ps.all fun p => p.c.a == p0.c.a then 1 else 0], 0) := by
  subst hps
  simp only [collValue, hmaj, hmin]
  rfl

theorem collValue_lrdv (hmaj : me.c.op.maj = .lrdv) : collValue ps n lit me = ([BitVec.ofNat 32 ps.length], 0) := by
  simp only [collValue, hmaj]

/-- A mask of ranks has the bits of the participants that it takes. -/
theorem testBit_rankMask {ps : List Part} (hranks : (ps.map (·.rank)).Nodup) (q : Part → Bool) (i : Nat) :
    (rankMask ps q).testBit i = ps.any fun p => p.rank == i && q p := by
  have hsub : ((ps.filter q).map (·.rank)).Nodup := hranks.sublist (List.filter_sublist.map _)
  have hmem := testBit_foldl_add_two_pow _ hsub i
  rw [List.map_map] at hmem
  rw [Bool.eq_iff_iff, rankMask]
  refine hmem.trans ?_
  simp only [List.mem_map, List.mem_filter, List.any_eq_true, Bool.and_eq_true, beq_iff_eq]
  exact ⟨fun ⟨p, ⟨hp, hq⟩, hi⟩ => ⟨p, hp, hi, hq⟩, fun ⟨p, hp, hi, hq⟩ => ⟨p, ⟨hp, hq⟩, hi⟩⟩

/-- LBALL gives the mask of the ranks whose lanes read a value that is not 0, in two words. -/
theorem collValue_lball (hmaj : me.c.op.maj = .lball) (hranks : (ps.map (·.rank)).Nodup) : ∃ lo hi : Word, collValue ps n lit me = ([lo, hi], 0) ∧
    ∀ i < 64, (if i < 32 then lo.getLsbD i else hi.getLsbD (i - 32)) = ps.any fun p => p.rank == i && p.c.a != 0 := by
  refine ⟨BitVec.ofNat 32 (rankMask ps fun p => p.c.a != 0), BitVec.ofNat 32 (rankMask ps (fun p => p.c.a != 0) / 2 ^ 32), ?_, ?_⟩
  · simp only [collValue, hmaj]
  · intro i hi
    rw [← testBit_rankMask hranks]
    split
    · next hlow => rw [BitVec.getLsbD_ofNat, decide_eq_true hlow, Bool.true_and]
    · next hhigh =>
      have h32 : i - 32 + 32 = i := by omega
      have hlt : i - 32 < 32 := by omega
      rw [BitVec.getLsbD_ofNat, Nat.testBit_div_two_pow, h32, decide_eq_true hlt, Bool.true_and]

/-- One more word of a sum of words. -/
theorem collOp_add (a b : Nat) : collOp .n32 0 a b = ((a + b) % 2 ^ 32, 0) := rfl

theorem foldl_collOp_add (ws : List Nat) (a : Nat) :
    ws.foldl (fun r x => ((collOp .n32 0 r.1 x).1, r.2 ||| (collOp .n32 0 r.1 x).2)) (a % 2 ^ 32, 0) = (ws.foldl (· + ·) a % 2 ^ 32, 0) := by
  induction ws generalizing a with
  | nil => rfl
  | cons w ws ih =>
    rw [List.foldl_cons, List.foldl_cons, ← ih (a + w)]
    simp only [collOp_add, Nat.mod_add_mod]
    rfl

/-- A sum of words in ascending rank is their sum modulo 2^32, and no flag. -/
theorem collFold_add {vs : List Nat} (hne : vs ≠ []) (hlt : ∀ v ∈ vs, v < 2 ^ 32) : collFold .n32 0 vs = (vs.foldl (· + ·) 0 % 2 ^ 32, 0) := by
  cases vs with
  | nil => exact absurd rfl hne
  | cons v ws =>
    have hv : v % 2 ^ 32 = v := Nat.mod_eq_of_lt (hlt v List.mem_cons_self)
    have hfold := foldl_collOp_add ws v
    rw [hv] at hfold
    rw [List.foldl_cons, Nat.zero_add, ← hfold]
    cases ws <;> rfl

theorem collValue_lredAdd (hmaj : me.c.op.maj = .lred) (hmin : me.c.op.min = 0) (htyp : me.c.op.typ = .n32) (hne : ps ≠ [])
    (hlt : ∀ p ∈ ps, p.c.a.toNat < 2 ^ 32) :
    collValue ps n lit me = ([BitVec.ofNat 32 ((ps.map fun p => p.c.a.toNat).foldl (· + ·) 0)], 0) := by
  have hsum := collFold_add (vs := ps.map fun p => p.c.a.toNat) (by simpa using hne) (by simpa using hlt)
  have hzero : (0 : BitVec 6).toNat = 0 := rfl
  have hword (x : Nat) : BitVec.ofNat 32 (x % 2 ^ 32) = BitVec.ofNat 32 x := BitVec.eq_of_toNat_eq (by simp)
  simp only [collValue, hmaj, hmin, htyp, hzero, hsum]
  rw [hword]

end Values

/-! ### What the step leaves -/

/-- A participant that has got the words `ws`: it has left the park, and the result that its collective owes it is known from the next cycle on. -/
def Lane.given (l : Lane) (p : Part) (ws : List Word) (now : Nat) : Lane := { l with
  parks := { l.parks with coll := none },
  results := l.results.map fun x => if some x.id = p.c.res then { x with vals := some (dest p.c.op.fx ws), readyAt := now + 1 } else x }

theorem after_stepCollective {s : State} {c : CrewId} {cr : Crew} (hcr : s.crews.get? c = some cr) (hmeets : s.meets c = true)
    (hperformed : ∀ p ∈ s.parts c, s.allPerformed p.c.after = true) :
    s.after (stepCollective c) = s.after (Act.each (s.parts c) fun p =>
      let v := collValue (s.parts c) cr.lanes.length (((s.parts c).head?.map fun p => p.c.op.lit.toNat).getD 0) p
      Act.all [updLane p.lane fun l => l.given p v.1 s.now, setFlags p.lane v.2]) := by
  have hall : (s.parts c).all (fun p => s.allPerformed p.c.after) = true := List.all_eq_true.2 hperformed
  rw [after_eq]
  simp only [stepCollective, hmeets, hall, hcr, Bool.not_true, Bool.or_self, Bool.false_eq_true, if_false]
  rfl

end Sys2Proof.Machine

namespace Sys2Proof

open Machine

/-- Settles O39: the participants are different lanes, so that each is given its value once (`after_each_updLane_setFlags`); the values are
those of the lemmas on `collValue`. -/
theorem collectiveGivesValues : Obligations.CollectiveGivesValues := by
  unfold Obligations.CollectiveGivesValues
  refine ⟨?step, fun ps n lit me => ⟨collValue_lvoteAll ps n lit me, collValue_lvoteAny ps n lit me, collValue_lvoteUni ps n lit me,
    fun hmaj hranks _ => collValue_lball ps n lit me hmaj hranks, collValue_lrdv ps n lit me, collValue_lredAdd ps n lit me⟩⟩
  case step =>
    intro s c cr hcr hnodup hmeets hperformed lit
    have hafter := (after_stepCollective hcr hmeets hperformed).trans
      (after_each_updLane_setFlags s (s.parts c) (·.lane) (fun p l => l.given p (collValue (s.parts c) cr.lanes.length lit p).1 s.now) (fun _ _ => rfl)
        fun p => (collValue (s.parts c) cr.lanes.length lit p).2)
    obtain ⟨-, hmem, hnot⟩ := after_each_updLane_of_nodup s (s.parts c) (·.lane) (nodup_parts_lane hcr hnodup)
      fun p l => l.given p (collValue (s.parts c) cr.lanes.length lit p).1 s.now
    refine ⟨s.after (stepCollective c), rfl, ?_, ?_, ?_⟩
    · rw [hafter, after_each_setFlags_frame]
    · intro p hp l hl
      rw [hafter]
      exact (hmem p hp).trans (congrArg (Option.map _) hl)
    · intro k hk
      rw [hafter]
      exact hnot k hk

end Sys2Proof
end

section
/-! PROOFS. RENDEZVOUS_MISMATCH (R185): a fault record of several lanes (R388, R390), and what the step leaves. -/

namespace Sys2Proof.Machine

open Sys2Proof

/-! ### A fault record of several lanes -/

/-- An update of a context or of a byte of memory. -/
def Upd.onRings : Upd → Prop
  | .ctx _ _ | .byte _ _ => True
  | _ => False

/-- An action on contexts and memory alone leaves everything else. -/
theorem after_onRings_frame {a : Act} (h : a.Only Upd.onRings) (s : State) : s.after a = { s with ctxs := (s.after a).ctxs, mem := (s.after a).mem } :=
  after_keeps (P := fun t => t = { s with ctxs := t.ctxs, mem := t.mem }) h
    (fun t u hu ht => by
      cases u with
      | ctx k v | byte k v => rw [ht]; rfl
      | _ => exact hu.elim)
    s rfl

theorem onRings_updCtx (c : Nat) (f : Ctx → Ctx) : (updCtx c f).Only Upd.onRings := fun s u hu => by
  simp only [updCtx] at hu
  split at hu
  · rw [List.mem_singleton.1 hu]; trivial
  · simp at hu

theorem onRings_storeBytes (key : Nat) (bs : List Byte) : (storeBytes key bs).Only Upd.onRings := fun s u hu => by
  obtain ⟨b, -, rfl⟩ := List.mem_map.1 hu
  trivial

theorem onRings_writeRecord (c : Nat) (r : Ring) (n : Nat) : (writeRecord c r n).Only Upd.onRings := fun s u hu => by
  simp only [writeRecord] at hu
  split at hu
  · simp at hu
  · exact only_seq (onRings_storeBytes _ _) (onRings_updCtx _ _) s u hu

theorem onRings_writeWaitingFault (c : Nat) : (writeWaitingFault c).Only Upd.onRings := fun s u hu => by
  simp only [writeWaitingFault] at hu
  split at hu
  · simp at hu
  · split at hu
    · simp at hu
    · split at hu
      · simp at hu
      · exact only_seq (onRings_storeBytes _ _) (only_seq (onRings_writeRecord _ _ _) (only_seq (onRings_updCtx _ _) only_skip)) s u hu

/-- A lane in the fault park, held by record number `n`. -/
def Lane.stopped (l : Lane) (n : Nat) : Lane := { l with parks := { l.parks with fault := true }, heldBy := some n }

/-- A fault record takes the next number and stops its lanes; then contexts and memory change alone. -/
theorem faultRecord_eq (s : State) (kind aux : Nat) {fs : List Failing} (hne : fs ≠ []) :
    ∃ (ks : List LaneId) (a : Act), (∀ k, k ∈ ks ↔ k ∈ fs.map (·.lane)) ∧ a.Only Upd.onRings ∧ s.after (faultRecord kind aux fs) =
      (({ s with fresh := s.fresh + 1 } : State).after (Act.each ks fun k => updLane k (Lane.stopped · s.fresh))).after a := by
  have hperm := List.mergeSort_perm fs fun a b => decide (s.slot a.lane ≤ s.slot b.lane)
  cases hsort : fs.mergeSort fun a b => decide (s.slot a.lane ≤ s.slot b.lane) with
  | nil => exact absurd (List.nil_perm.1 (hsort ▸ hperm)) hne
  | cons f r =>
    rw [hsort] at hperm
    rw [after_eq]
    simp only [faultRecord, hsort]
    rw [← after_eq, after_fresh, after_all_cons]
    exact ⟨(f :: r).map (·.lane), _, fun k => (hperm.map _).mem_iff,
      only_seq (onRings_updCtx _ _) (only_seq (onRings_writeWaitingFault _) only_skip),
      by rw [Act.each, Act.each, List.map_map]; rfl⟩

/-- The lanes of a record fault-park, held by the next number; besides them contexts and memory change alone. -/
theorem after_faultRecord (s : State) (kind aux : Nat) {fs : List Failing} (hne : fs ≠ []) :
    s.after (faultRecord kind aux fs) = { s with
      lanes := (s.after (faultRecord kind aux fs)).lanes, ctxs := (s.after (faultRecord kind aux fs)).ctxs,
      mem := (s.after (faultRecord kind aux fs)).mem, fresh := s.fresh + 1 } ∧
    ∀ k, (s.after (faultRecord kind aux fs)).lanes.get? k =
      (s.lanes.get? k).map fun l => if k ∈ fs.map (·.lane) then l.stopped s.fresh else l := by
  obtain ⟨ks, a, hks, honly, hafter⟩ := faultRecord_eq s kind aux hne
  obtain ⟨hlanes, hget⟩ := after_each_updLane { s with fresh := s.fresh + 1 } ks (Lane.stopped · s.fresh) fun _ => rfl
  have hrings := after_onRings_frame honly
    (({ s with fresh := s.fresh + 1 } : State).after (Act.each ks fun k => updLane k (Lane.stopped · s.fresh)))
  rw [hafter]
  refine ⟨by rw [hrings, hlanes], fun k => ?_⟩
  rw [hrings, hget]
  simp only [hks]

/-! ### RENDEZVOUS_MISMATCH -/

/-- A participant that is put back to its collective: its sources, its result and its wait for results are discarded. -/
def Lane.putBack (l : Lane) (p : Part) : Lane := { l with
  pc := l.pc - 12, latch := none,
  parks := { l.parks with coll := none, wait := l.parks.wait.filter fun w => decide (w ≠ .results) },
  results := l.results.filter fun x => some x.id ≠ p.c.res }

/-- The participants are put back, and then fault-park in one record. -/
theorem after_stepMismatch {s : State} {c : CrewId} (hparts : s.parts c ≠ []) (hmeets : s.meets c = false) :
    let u := s.after (Act.each (s.parts c) fun p => updLane p.lane fun l => l.putBack p)
    s.after (stepMismatch c) = u.after (faultRecord 3 0 ((s.parts c).map fun p => ⟨p.lane, 0x0A, u.pcOf p.lane⟩)) := by
  have hempty : (s.parts c).isEmpty = false := List.isEmpty_eq_false_iff.2 hparts
  intro u
  rw [after_eq]
  simp only [stepMismatch, hempty, hmeets, Bool.or_self, Bool.false_eq_true, if_false]
  rw [← after_eq, after_all_cons, after_all_cons, after_all_nil, after_read]
  rfl

end Sys2Proof.Machine

namespace Sys2Proof

open Machine

/-- Settles O40: the participants are different lanes, so that each is put back once (`after_each_updLane_of_nodup`), and the record stops
them all (`after_faultRecord`). -/
theorem mismatchParksCrew : Obligations.MismatchParksCrew := by
  unfold Obligations.MismatchParksCrew
  intro s c cr hcr hnodup hparts hmeets hstop
  obtain ⟨hframe, hback, hother⟩ := after_each_updLane_of_nodup s (s.parts c) (·.lane) (nodup_parts_lane hcr hnodup) fun p l => l.putBack p
  have hstep := after_stepMismatch hparts hmeets
  generalize s.after (Act.each (s.parts c) fun p => updLane p.lane fun l => l.putBack p) = u at hframe hback hother hstep
  have hfresh : u.fresh = s.fresh := by rw [hframe]
  have hne : ((s.parts c).map fun p => (⟨p.lane, 0x0A, u.pcOf p.lane⟩ : Failing)) ≠ [] := by simpa using hparts
  obtain ⟨htframe, htget⟩ := after_faultRecord u 3 0 hne
  rw [List.map_map, hfresh] at htget
  refine ⟨u, hframe, fun p hp l hl => (hback p hp).trans (congrArg (Option.map _) hl), hother, ?_⟩
  intro t
  refine ⟨?_, ?_, fun p hp l hl => ⟨by simp only [State.pcOf, hl], ?_⟩, fun k hk => ?_⟩
  · change run (recordsInOrder (stepMismatch c)) s = _
    rw [run, after_recordsInOrder _ _ hstop, hstep]
  · exact htframe.trans (congrArg (fun v : State => { v with lanes := t.lanes, ctxs := t.ctxs, mem := t.mem, fresh := v.fresh + 1 }) hframe)
  · have hmem : p.lane ∈ (s.parts c).map (·.lane) := List.mem_map_of_mem hp
    exact (htget p.lane).trans (by rw [hl]; exact congrArg some (if_pos hmem))
  · have hnot : k ∉ (s.parts c).map (·.lane) := fun h => by
      obtain ⟨p, hp, hpk⟩ := List.mem_map.1 h
      exact hk p hp hpk
    rw [← hother k hk]
    refine (htget k).trans ?_
    cases u.lanes.get? k with
    | none => rfl
    | some l => exact congrArg some (if_neg hnot)

end Sys2Proof
end

section
/-! PROOFS. A K-step on a row that need not be rescaled (R193): products aligned to the row's exponent, and their sums. -/

namespace Sys2Proof.Machine

open Sys2Proof

/-! ### Alignment -/

/-- A product as an integer multiple of 2^e, rounded toward minus infinity (R193). -/
def addend (e : Int) (x : Product) : Int := if x.2 ≥ e then x.1 * 2 ^ (x.2 - e).toNat else x.1 / 2 ^ (e - x.2).toNat

/-- Is a product an integer multiple of 2^e? -/
def isMultiple (e : Int) (x : Product) : Bool := decide (x.2 ≥ e) || decide (x.1 % 2 ^ (e - x.2).toNat = 0)

theorem natAbs_lt_two_pow_bitlen (q : Int) : q.natAbs < 2 ^ bitlen q.natAbs := by
  unfold bitlen
  split
  · next h => rw [h]; exact Nat.one_pos
  · exact Nat.lt_log2_self

/-- A divisor above the magnitude leaves a quotient of 0 or -1, and a remainder of 0 for 0 alone. -/
theorem ediv_emod_of_natAbs_lt {q : Int} {d : Nat} (h : q.natAbs < d) :
    q / (d : Int) = (if q < 0 then -1 else 0) ∧ (q % (d : Int) = 0 ↔ q = 0) := by
  constructor
  · split
    · next hneg => exact Int.ediv_eq_neg_one_of_neg_of_le hneg (by omega)
    · exact Int.ediv_eq_zero_of_lt (by omega) (by omega)
  · refine ⟨fun hmod => ?_, fun hq => by rw [hq, Int.zero_emod]⟩
    exact Int.eq_zero_of_dvd_of_natAbs_lt_natAbs (Int.dvd_of_emod_eq_zero hmod) h

/-- A shift by more places than the magnitude has bits gives what a shift by one place more than these gives. -/
theorem ediv_emod_min_bitlen (q : Int) (n : Nat) :
    q / ((2 ^ min n (bitlen q.natAbs + 1) : Nat) : Int) = q / 2 ^ n ∧
      (q % ((2 ^ min n (bitlen q.natAbs + 1) : Nat) : Int) = 0 ↔ q % 2 ^ n = 0) := by
  have hcast : (2 : Int) ^ n = ((2 ^ n : Nat) : Int) := by norm_cast
  rw [hcast]
  rcases Nat.le_total n (bitlen q.natAbs + 1) with hle | hge
  · rw [Nat.min_eq_left hle]
    exact ⟨rfl, Iff.rfl⟩
  · have hlt {k : Nat} (hk : bitlen q.natAbs ≤ k) : q.natAbs < 2 ^ k :=
      (natAbs_lt_two_pow_bitlen q).trans_le (Nat.pow_le_pow_right Nat.two_pos hk)
    obtain ⟨hdiv, hmod⟩ := ediv_emod_of_natAbs_lt (hlt (Nat.le_succ _))
    obtain ⟨hdiv', hmod'⟩ := ediv_emod_of_natAbs_lt (hlt ((Nat.le_succ _).trans hge))
    rw [Nat.min_eq_right hge]
    exact ⟨hdiv.trans hdiv'.symm, hmod.trans hmod'.symm⟩

/-- The bounded shift of `align` gives the integer of R193 and says whether bits were lost. -/
theorem align_eq (e : Int) (x : Product) : align e x = (addend e x, !isMultiple e x) := by
  unfold align addend isMultiple
  by_cases h : x.2 ≥ e
  · simp [h]
  · obtain ⟨hdiv, hmod⟩ := ediv_emod_min_bitlen x.1 (e - x.2).toNat
    simp only [if_neg h, hdiv, decide_eq_false h, Bool.false_or, bne, ← hmod]
    rfl

/-! ### Products of 0 -/

/-- The products of each element that are not 0 (R193's P). -/
def nonzeros (ps : List (List Product)) : List (List Product) := ps.map fun p => p.filter fun x => x.1 != 0

theorem addend_of_zero (e : Int) {x : Product} (h : x.1 = 0) : addend e x = 0 := by simp [addend, h]

theorem isMultiple_of_zero (e : Int) {x : Product} (h : x.1 = 0) : isMultiple e x = true := by simp [isMultiple, h]

/-- The integers that one element gains (R193). -/
def gain (e : Int) (p : List Product) : Int := (p.map (addend e)).foldl (· + ·) 0

theorem gain_filter_ne_zero (e : Int) (p : List Product) : gain e (p.filter fun x => x.1 != 0) = gain e p := by
  simp only [gain, ← List.sum_eq_foldl]
  induction p with
  | nil => rfl
  | cons x p ih =>
    by_cases h : x.1 = 0
    · simp [h, addend_of_zero e h, ih]
    · simp [h, ih]

theorem any_not_isMultiple_filter_ne_zero (e : Int) (p : List Product) :
    ((p.filter fun x => x.1 != 0).any fun x => !isMultiple e x) = p.any fun x => !isMultiple e x := by
  rw [List.any_filter]
  congr 1
  funext x
  by_cases h : x.1 = 0
  · simp [isMultiple_of_zero e h]
  · simp [h]

/-! ### A row's step -/

/-- What the products add to a row (R193): products of 0 change nothing. -/
theorem add_nonzeros (r : TRow) (ps : List (List Product)) :
    let m := (r.m.zip ps).map fun y => BitVec.ofInt 64 (y.1.toInt + gain r.e y.2)
    r.add (nonzeros ps) = ({ r with m := m, h := hOf m, rho := (((r.rho : Int) + (ps.map (gain r.e)).foldl (· + ·) 0) % 255).toNat },
      if ps.any fun p => p.any fun x => !isMultiple r.e x then fALT else 0) := by
  have hsums : ((nonzeros ps).map fun p => p.map (align r.e)).map (fun a => (a.map (·.1)).foldl (· + ·) 0) = ps.map (gain r.e) := by
    simp only [nonzeros, List.map_map]
    refine List.map_congr_left fun p _ => ?_
    rw [← gain_filter_ne_zero]
    simp [gain, align_eq, Function.comp_def]
  have hlost : (((nonzeros ps).map fun p => p.map (align r.e)).any fun a => a.any (·.2)) =
      ps.any fun p => p.any fun x => !isMultiple r.e x := by
    simp only [nonzeros, List.any_map, Function.comp_def, align_eq, any_not_isMultiple_filter_ne_zero]
  have hm : (r.m.zip (ps.map (gain r.e))).map (fun x => wrapTo 64 (x.1.toInt + x.2)) =
      (r.m.zip ps).map fun y => BitVec.ofInt 64 (y.1.toInt + gain r.e y.2) := by
    rw [List.zip_map_right, List.map_map]
    rfl
  simp only [TRow.add, hsums, hlost, hm]
  rfl

theorem foldl_max_le {t b : Int} {ts : List Int} (h : ∀ u ∈ t :: ts, u ≤ b) : ts.foldl max t ≤ b :=
  (List.max?_le_iff List.max?_cons').2 h

/-- One more than the place of the highest bit of each product that is not 0 (R193: their greatest is T). -/
def tops (ps : List (List Product)) : List Int := (nonzeros ps).flatMap fun p => p.map fun x => x.2 + (bitlen x.1.natAbs : Int)

theorem mem_tops {ps : List (List Product)} {u : Int} :
    u ∈ tops ps ↔ ∃ p ∈ ps, ∃ x ∈ p, x.1 ≠ 0 ∧ x.2 + (bitlen x.1.natAbs : Int) = u := by
  simp [tops, nonzeros, and_assoc]

/-- A row that is not empty, to which some product that is not 0 comes and whose mantissas and products all stay below 2^63 with g places
free, only takes the products (R193). -/
theorem step_of_fits {r : TRow} {g : Nat} {ps : List (List Product)} (hrow : r.empty = false) (hg : g ≤ r.h)
    (hsome : ∃ p ∈ ps, ∃ x ∈ p, x.1 ≠ 0) (hfits : ∀ p ∈ ps, ∀ x ∈ p, x.1 ≠ 0 → x.2 + (bitlen x.1.natAbs : Int) + g ≤ r.e + 63) :
    r.step g ps = { row := (r.add (nonzeros ps)).1, flags := (r.add (nonzeros ps)).2, event := false, bad := false } := by
  simp only [TRow.step]
  split
  · next hnil =>
    obtain ⟨p, hp, x, hx, hne⟩ := hsome
    have hmem := mem_tops.2 ⟨p, hp, x, hx, hne, rfl⟩
    rw [show tops ps = [] from hnil] at hmem
    exact absurd hmem List.not_mem_nil
  · next t ts hcons =>
    have htop : ts.foldl max t ≤ r.e + 63 - g := foldl_max_le fun u hu => by
      obtain ⟨p, hp, x, hx, hne, rfl⟩ := mem_tops.1 ((show tops ps = t :: ts from hcons) ▸ hu)
      have := hfits p hp x hx hne
      omega
    have hshift : max (r.e + 63 - r.h) (ts.foldl max t) + g - (r.e + 63) ≤ 0 := by omega
    simp only [hrow, Bool.false_eq_true, if_false, if_pos hshift]
    rfl

end Sys2Proof.Machine

namespace Sys2Proof

open Machine

/-- Settles O51: no rescaling comes before the addition (`step_of_fits`), and the addition of the products that are not 0 is that of all
(`add_nonzeros`). -/
theorem kStepAddsProducts : Obligations.KStepAddsProducts := by
  unfold Obligations.KStepAddsProducts
  intro r g ps hrow hg hsome hfits
  rw [step_of_fits hrow hg hsome hfits, add_nonzeros]
  rfl

end Sys2Proof
end

section
/-! PROOFS. MATRIX_COMMAND_ACCEPT and TILE_COMMAND_REACHED (R207, R212 to R214): an acceptance leaves a saddle that a live crew holds where it
is, and a reached command leaves one new tile and no place in the queue. -/

namespace Sys2Proof.Machine

open Sys2Proof

/-! ### A saddle that stays with its holder -/

/-- A crew with a live lane holds the saddle of a core, and no pass of it waits (R205). -/
structure SaddleHeld (s : State) (core : Nat) (h : CrewId) : Prop where
  passing : (s.core core).passing = none
  saddle : (s.core core).saddle = some h
  live : s.crewLive h ≠ []

section SaddleHeld

variable {s : State} {core : Nat} {h : CrewId} (held : SaddleHeld s core h)

include held

/-- A core whose saddle is held is not as at reset. -/
theorem SaddleHeld.get?_core : s.cores.get? core = some (s.core core) := by
  have hsaddle := held.saddle
  cases hget : s.cores.get? core with
  | none => simp [State.core, Map.getD, hget, Core.init] at hsaddle
  | some c => simp [State.core, Map.getD, hget]

/-- There is no pass to make, no saddle to take from a crew that has exited, and none to grant. -/
theorem SaddleHeld.after_serveSaddle : s.after (serveSaddle core) = s := by
  have hlive : (s.crewLive h).isEmpty = false := by simpa using held.live
  have hkeep : ∀ c : Core, c.saddle = some h →
      { c with passing := if c.saddle.isNone then none else c.passing, requeue := c.requeue && c.saddle.isSome } = c := by
    intro c hc
    cases c
    simp_all
  simp only [serveSaddle, after_all_cons, after_all_nil]
  rw [after_of_nil (s := s) (by simp only [held.passing]),
    after_of_nil (s := s) (by simp [held.saddle, hlive]),
    after_updCore_id s core _ held.get?_core _ (hkeep _ held.saddle),
    after_of_nil (by simp only [grantSaddle, held.saddle])]

theorem SaddleHeld.after_updCore {f : Core → Core} (hpassing : ∀ c, (f c).passing = c.passing) (hsaddle : ∀ c, (f c).saddle = c.saddle) :
    SaddleHeld (s.after (updCore core f)) core h where
  passing := by rw [Machine.after_updCore, core_set_self, hpassing, held.passing]
  saddle := by rw [Machine.after_updCore, core_set_self, hsaddle, held.saddle]
  live := held.live

theorem SaddleHeld.after_updTile (tile : Nat) (f : Tile → Tile) : SaddleHeld (s.after (updTile core tile f)) core h :=
  held.after_updCore (fun _ => rfl) fun _ => rfl

theorem SaddleHeld.after_updMq (f : List MCmd → List MCmd) : SaddleHeld (s.after (updMq core f)) core h :=
  held.after_updCore (fun _ => rfl) fun _ => rfl

theorem SaddleHeld.after_updLane (k : LaneId) {f : Lane → Lane} (hf : ∀ l, (f l).exited = l.exited) :
    SaddleHeld (s.after (updLane k f)) core h := by
  have hcores : (s.after (updLane k f)).core core = s.core core := by rw [after_updLane_frame]; rfl
  have hcrews : (s.after (updLane k f)).crews = s.crews := by rw [after_updLane_frame]
  refine ⟨hcores ▸ held.passing, hcores ▸ held.saddle, ?_⟩
  simpa only [State.crewLive, hcrews, gone_after_updLane s k hf] using held.live

/-- Unbinding a tile changes its core's tiles and the regions of a lane (R228). -/
theorem SaddleHeld.after_unbindTile (tile : Nat) : SaddleHeld (s.after (unbindTile core tile)) core h := by
  rw [after_eq]
  simp only [unbindTile]
  split
  · rw [← after_eq]
    simp only [after_all_cons, after_all_nil]
    exact (held.after_updTile tile _).after_updLane _ (by intro l; rfl)
  · exact held

/-- What an acceptance does at once leaves the saddle and the lanes' exits alone (R212, R423). -/
theorem SaddleHeld.after_onAccept (m : MCmd) : SaddleHeld (s.after (onAccept core m)) core h := by
  cases hkind : m.kind with
  | free =>
    simp only [onAccept, hkind, after_all_cons, after_all_nil]
    exact (held.after_unbindTile m.tile).after_updTile m.tile _
  | loop l =>
    simp only [onAccept, hkind]
    exact held.after_updTile m.tile _
  | zero | ren | out | stat => simpa only [onAccept, hkind, after_skip] using held

end SaddleHeld

/-! ### MATRIX_COMMAND_ACCEPT -/

/-- A command takes its place in the order of acceptance, and its lane goes on (R207). -/
def takePlace (core : Nat) (m : MCmd) : Act := Act.all [
  Act.fresh fun n => updMq core fun q => q.map fun x => if x.id = m.id then { x with accepted := true, queued := true, arr := n } else x,
  updParks m.lane fun p => { p with queue := if p.queue = some (.matrix m.id) then none else p.queue }]

section Accept

variable {s : State} {core : Nat} {m : MCmd}

theorem after_takePlace {l : Lane} (hlane : s.lanes.get? m.lane = some l) (hpark : l.parks.queue = some (.matrix m.id)) :
    s.after (takePlace core m) = { s with
      fresh := s.fresh + 1,
      cores := s.cores.set core { s.core core with
        mq := (s.core core).mq.map fun x => if x.id = m.id then { x with accepted := true, queued := true, arr := s.fresh } else x },
      lanes := s.lanes.set m.lane { l with parks := { l.parks with queue := none } } } := by
  simp only [takePlace, after_all_cons, after_all_nil, after_fresh]
  rw [updMq, after_updCore, after_updParks (l := l) (h := by exact hlane), if_pos hpark]
  rfl

theorem SaddleHeld.after_takePlace {h : CrewId} (held : SaddleHeld s core h) : SaddleHeld (s.after (takePlace core m)) core h := by
  simp only [takePlace, after_all_cons, after_all_nil, after_fresh]
  have hfresh : SaddleHeld { s with fresh := s.fresh + 1 } core h := ⟨held.passing, held.saddle, held.live⟩
  exact (hfresh.after_updMq _).after_updLane m.lane (by intro l; rfl)

/-- The first waiting command is accepted when there is room (R207); the saddle then stays where it is. -/
theorem after_stepMatrixAccept {h : CrewId} (hfirst : (s.core core).mq.find? (fun m => !m.accepted) = some m) (hroom : (s.core core).load < 32)
    (held : SaddleHeld s core h) : s.after (stepMatrixAccept core) = (s.after (takePlace core m)).after (onAccept core m) := by
  have hserve := ((held.after_takePlace (m := m)).after_onAccept m).after_serveSaddle
  rw [after_eq]
  simp only [stepMatrixAccept, hfirst, Nat.not_le.2 hroom, if_false]
  rw [← after_eq]
  simp only [takePlace, after_all_cons, after_all_nil] at hserve ⊢
  exact hserve

end Accept

/-! ### TILE_COMMAND_REACHED -/

/-- A new tile of a core, and the end of a command in its queue, are one new value of the core. -/
theorem after_updTile_dropCmd (s : State) (core tile id : Nat) (f : Tile → Tile) :
    (s.after (updTile core tile f)).after (dropCmd core id) = { s with cores := s.cores.set core { s.core core with
      tiles := (s.core core).tiles.set tile (f ((s.core core).tile tile)), mq := (s.core core).mq.filter fun y => y.id != id } } := by
  rw [updTile, dropCmd, updMq, after_updCore_updCore]
  rfl

/-- A tile may as well change before a command leaves the queue. -/
theorem after_dropCmd_updTile (s : State) (core tile id : Nat) (f : Tile → Tile) :
    (s.after (dropCmd core id)).after (updTile core tile f) = (s.after (updTile core tile f)).after (dropCmd core id) := by
  rw [updTile, dropCmd, updMq, after_updCore_updCore, after_updCore_updCore]
  rfl

theorem mq_after_dropCmd (s : State) (core id : Nat) :
    ((s.after (dropCmd core id)).core core).mq = (s.core core).mq.filter fun y => y.id != id := by
  rw [dropCmd, updMq, after_updCore, core_set_self]

section Reached

variable {s : State} {core tile : Nat} {m : MCmd} (hhead : (s.core core).head? tile = some m)

include hhead

theorem after_stepTileReached_zero (hkind : m.kind = .zero) : s.after (stepTileReached core tile) =
    (s.after (updTile core tile fun t => { t.empty with evt := 0, arm := none })).after (dropCmd core m.id) := by
  rw [after_eq]
  simp only [stepTileReached, hhead, hkind]
  rw [← after_eq, after_all_cons, after_all_cons, after_all_nil]

/-- MREN.UP where no row's check fails takes no error (R198). -/
theorem after_stepTileReached_ren (hkind : m.kind = .ren) (hrows : ∀ r ∈ ((s.core core).tile tile).rows, r.fails = false) :
    s.after (stepTileReached core tile) =
      (s.after (updTile core tile fun t => { t with rows := t.rows.map fun r => r.raise (t.lastG.getD 7) })).after (dropCmd core m.id) := by
  have hbad : ((s.core core).tile tile).rows.filter (·.fails) = [] := by simpa using hrows
  rw [after_eq]
  simp only [stepTileReached, hhead, hkind, hbad]
  rw [← after_eq]
  simp only [after_all_cons, after_all_nil, after_when, List.isEmpty_nil, Bool.not_true, Bool.false_eq_true, if_false]

/-- Another MFREE of the tile is an accepted one that is left when the reached one has gone from the queue (R212). -/
theorem after_stepTileReached_free (hkind : m.kind = .free) : s.after (stepTileReached core tile) =
    (s.after (updTile core tile fun t => { t.empty with
      owner := none, bound := none, arm := none,
      freeing := (s.core core).mq.any fun x => x.id != m.id && x.accepted && x.tile == tile && x.kind == .free })).after (dropCmd core m.id) := by
  rw [after_eq]
  simp only [stepTileReached, hhead, hkind]
  rw [← after_eq]
  simp only [after_all_cons, after_all_nil]
  rw [← after_dropCmd_updTile]
  refine (after_read _ _).trans ?_
  simp only [mq_after_dropCmd, List.any_filter, Bool.and_assoc]
  rfl

end Reached

/-! ### What the steps answer -/

theorem exec_matrixCommandAccept (s : State) (core : Nat) :
    exec (.matrixCommandAccept core) s = .next (s.after (stepMatrixAccept core)).settled := rfl

theorem exec_tileCommandReached (s : State) (core tile : Nat) :
    exec (.tileCommandReached core tile) s = .next (s.after (stepTileReached core tile)).settled := rfl

end Sys2Proof.Machine

namespace Sys2Proof

open Machine

/-- Settles O52: an acceptance that leaves the saddle with its holder (`SaddleHeld`), and the three commands when they are reached. -/
theorem tileCommandsRun : Obligations.TileCommandsRun := by
  unfold Obligations.TileCommandsRun
  intro s core m c t gone
  refine ⟨?accepted, fun hhead => ⟨?zero, ?ren, ?free⟩⟩
  case accepted =>
    intro h l hfirst hroom hpassing hsaddle hlive hlane hpark
    rw [exec_matrixCommandAccept, after_stepMatrixAccept hfirst hroom ⟨hpassing, hsaddle, hlive⟩, after_takePlace hlane hpark]
  case zero =>
    intro hkind
    rw [exec_tileCommandReached, after_stepTileReached_zero hhead hkind, after_updTile_dropCmd]
    rfl
  case ren =>
    intro hkind hrows
    rw [exec_tileCommandReached, after_stepTileReached_ren hhead hkind hrows, after_updTile_dropCmd]
  case free =>
    intro hkind
    rw [exec_tileCommandReached, after_stepTileReached_free hhead hkind, after_updTile_dropCmd]
    rfl

end Sys2Proof
end

section
/-! PROOFS. The effective address (R234), the values of the integer atomics (R248, R249), and bytes stored and read back (R239, R241). -/

namespace Sys2Proof.Machine

open Sys2Proof

/-! ### Addresses -/

/-- The probe begins with the address itself, so it catches bits above 55 first (R235). -/
theorem probeAligned_of_high (s : State) (ctx gang : Nat) {n : Nat} {va : DWord} (need : Need) (hn : 0 < n) (haligned : va.toNat % n = 0)
    (hhigh : va.extractLsb' 56 8 ≠ 0#8) : s.probeAligned ctx gang va n need = some (0x02, va) := by
  have hcanonical : canonical va = false := by
    refine decide_eq_false fun hlt => hhigh ?_
    apply BitVec.eq_of_toNat_eq
    simp only [BitVec.extractLsb'_toNat, Nat.shiftRight_eq_div_pow, Nat.div_eq_of_lt hlt]
    rfl
  have hgranules : ∃ rest, granules va n = va :: rest := ⟨_, by rw [granules, if_neg (Nat.ne_of_gt hn)]⟩
  obtain ⟨rest, hgranules⟩ := hgranules
  rw [State.probeAligned, if_neg (not_not_intro haligned), State.probe]
  simp only [hgranules, List.find?_cons, hcanonical, Bool.not_false]

/-! ### Atomics -/

section Compare

variable (t : Typ) (old a b : Nat)

theorem rmwNew_min : rmwNew .min t old a b = (if t.value a < t.value old then a else old, 0) := by
  simp only [rmwNew, decide_eq_true_eq]

theorem rmwNew_max : rmwNew .max t old a b = (if t.value old < t.value a then a else old, 0) := by
  simp only [rmwNew, decide_eq_true_eq]

/-- The integer operations set no flag (R248, R249). -/
theorem rmwNew_flags {op : Rmw} (h : op ≠ .fadd) : (rmwNew op t old a b).2 = 0 := by
  cases op with
  | fadd => exact absurd rfl h
  | _ => rfl

end Compare

/-! ### Bytes of memory -/

/-- Of bytes stored under different keys each is read back. -/
theorem read_foldl_write_of_mem {l : List (Nat × Byte)} {m : List Host.Cell} (hm : Memory.wf m) (hnodup : (l.map (·.1)).Nodup) {c : Nat × Byte}
    (hc : c ∈ l) : Memory.read (l.foldl (fun m c => Memory.write m c.1 c.2) m) c.1 = c.2 := by
  induction l generalizing m with
  | nil => exact absurd hc List.not_mem_nil
  | cons d l ih =>
    obtain ⟨hd, hnodup⟩ := List.nodup_cons.1 hnodup
    have hwf := Memory.wf_write m hm d.1 d.2
    rw [List.foldl_cons]
    rcases List.mem_cons.1 hc with rfl | hc
    · rw [read_foldl_write l _ hwf _ fun x hx hkey => hd (List.mem_map.2 ⟨x, hx, hkey⟩), Memory.read_write m hm, if_pos rfl]
    · exact ih hwf hnodup hc

/-- Where nothing has been migrated, the bytes after a store are those of the memory it leaves. -/
theorem byte_after_storeBytes {s : State} (hmoved : s.dev.moved = []) (key : Nat) (bs : List Byte) (a : Nat) :
    (s.after (storeBytes key bs)).byte a = Memory.read (s.after (storeBytes key bs)).mem a := by
  rw [State.byte, phys_id]
  rw [after_storeBytes_frame]
  exact hmoved

section Store

variable {s : State} (hwf : Memory.wf s.mem) (hmoved : s.dev.moved = [])

include hwf hmoved

theorem byte_after_storeBytes_at (key : Nat) (bs : List Byte) (i : Nat) (hi : i < bs.length) :
    (s.after (storeBytes key bs)).byte (key + i) = bs[i] := by
  rw [byte_after_storeBytes hmoved, after_storeBytes]
  simp only [phys_id s hmoved]
  have hmem : (key + i, bs[i]) ∈ bs.zipIdx.map fun b => (key + b.2, b.1) :=
    List.mem_map.2 ⟨(bs[i], i), List.mem_zipIdx_iff_getElem?.2 (by simp [hi]), rfl⟩
  have hnodup : ((bs.zipIdx.map fun b => (key + b.2, b.1)).map (·.1)).Nodup := by
    have hkeys : (bs.zipIdx.map fun b => (key + b.2, b.1)).map (·.1) = (List.range' 0 bs.length).map (key + ·) := by
      rw [← List.zipIdx_map_snd 0 bs, List.map_map, List.map_map]
      rfl
    rw [hkeys]
    exact (List.nodup_range' (step := 1)).map fun _ _ => Nat.add_left_cancel
  exact read_foldl_write_of_mem hwf hnodup hmem

theorem byte_after_storeBytes_outside (key : Nat) (bs : List Byte) (a : Nat) (ha : a < key ∨ key + bs.length ≤ a) :
    (s.after (storeBytes key bs)).byte a = s.byte a := by
  rw [byte_after_storeBytes hmoved, byte_storeBytes_ne s hwf, State.byte, phys_id s hmoved]
  intro i hi
  rw [phys_id s hmoved]
  omega

end Store

end Sys2Proof.Machine

namespace Sys2Proof

open Machine

/-- Settles O21, by the operands that name the base and the index, and by the probe of a high address (`probeAligned_of_high`). -/
theorem effectiveAddress : Obligations.EffectiveAddress := by
  unfold Obligations.EffectiveAddress
  refine ⟨?sum, fun s ctx gang n va need => probeAligned_of_high s ctx gang need⟩
  case sum =>
    intro e base index hbase hindex
    have hfy : e.src64 .n64 e.op.fy = base := by
      obtain ⟨h, rfl⟩ | ⟨n, h, rfl⟩ | ⟨n, h, rfl⟩ := hbase <;> rw [h] <;> rfl
    have hfz : (e.src e.op.fz).signExtend 64 = index := by
      obtain ⟨h, rfl⟩ | ⟨n, h, rfl⟩ | ⟨n, h, rfl⟩ := hindex <;> rw [h] <;> rfl
    rw [Env.ea, hfy, hfz]

/-- Settles O43, operation by operation; MIN and MAX by which of the two values is the smaller. -/
theorem atomicValues : Obligations.AtomicValues := by
  unfold Obligations.AtomicValues
  intro t old a b _ _ n
  refine ⟨rfl, ⟨_, rmwNew_min t old a b, ?min⟩, ⟨_, rmwNew_max t old a b, ?max⟩, rfl, rfl, rfl, rfl, rfl, rfl, rfl⟩
  case min =>
    split
    · next hlt => exact ⟨.inr rfl, Int.le_of_lt hlt, Int.le_refl _⟩
    · next hle => exact ⟨.inl rfl, Int.le_refl _, Int.not_lt.1 hle⟩
  case max =>
    split
    · next hlt => exact ⟨.inr rfl, Int.le_of_lt hlt, Int.le_refl _⟩
    · next hle => exact ⟨.inl rfl, Int.le_refl _, Int.not_lt.1 hle⟩

/-- Settles O41: the keys of the bytes stored differ, so each byte read back is the one stored there, and no other key is written. -/
theorem storedBytesReadBack : Obligations.StoredBytesReadBack := by
  unfold Obligations.StoredBytesReadBack
  intro s key bs hwf hmoved
  refine ⟨?_, byte_after_storeBytes_outside hwf hmoved key bs⟩
  refine List.ext_getElem (by simp [State.bytes]) fun i _ hi => ?_
  simp only [State.bytes, List.getElem_map, List.getElem_range]
  exact byte_after_storeBytes_at hwf hmoved key bs i hi

end Sys2Proof
end

section
/-! PROOFS. What home agents write, and the accesses of one lane that they perform (R238, R241, R248, R349). -/

namespace Sys2Proof.Machine

open Sys2Proof

/-! ### What a home agent writes -/

/-- Outside the control space a write is followed by a look at launches and at lanes that wait for join counters (R337, R352). -/
theorem after_homeWrite {s : State} {key : Nat} (hmem : s.controlOff key = none) (bs : List Byte) :
    s.after (homeWrite key bs) = ((s.after (storeBytes key bs)).after watchCounters).after serveJoins := by
  rw [after_eq]
  simp only [homeWrite, hmem]
  rw [← after_eq]
  simp only [after_all_cons, after_all_nil]

theorem after_watchCounters_of_no_launch {s : State} (h : s.launches = []) : s.after watchCounters = s :=
  after_eachFilter_id s State.launches _ _ fun _ he => absurd (h ▸ he) List.not_mem_nil

theorem after_serveJoins_of_no_queue {s : State} (h : ∀ e ∈ s.lanes, e.2.parks.queue = none) : s.after serveJoins = s :=
  after_eachFilter_id s State.lanes _ _ fun e he => by simp only [h e he]

/-- With no launch and no lane in a queue a write stores its bytes and does nothing else. -/
theorem after_homeWrite_alone {s : State} {key : Nat} (hmem : s.controlOff key = none) (hlaunches : s.launches = [])
    (hqueue : ∀ e ∈ s.lanes, e.2.parks.queue = none) (bs : List Byte) : s.after (homeWrite key bs) = s.after (storeBytes key bs) := by
  rw [after_homeWrite hmem, after_watchCounters_of_no_launch (by rw [after_storeBytes_frame]; exact hlaunches),
    after_serveJoins_of_no_queue (by rw [after_storeBytes_frame]; exact hqueue)]

theorem homeNum_of_memory {s : State} {key : Nat} (hmem : s.controlOff key = none) (n : Nat) : s.homeNum key n = s.num key n := by
  simp only [State.homeNum, hmem]

/-! ### Accesses of one lane -/

/-- A result of a number that is given its values by an access (R37). -/
def Result.known (z : Result) (id : Nat) (vs : Writes) (now : Nat) (req : Nat) : Result :=
  if z.id = id then { z with vals := some vs, flags := 0, err := none, readyAt := now, req := some req } else z

theorem after_knowResult {s : State} {k : LaneId} {l : Lane} (hl : s.lanes.get? k = some l) (id : Nat) (vs : Writes) (now req : Nat) :
    s.after (knowResult k id vs 0 none now (some req)) =
      { s with lanes := s.lanes.set k { l with results := l.results.map (·.known id vs now req) } } :=
  after_updLane s k _ l hl

section Perform

variable {s : State} {r : Req} {now : Nat} {a : Access} {l : Lane} (hmem : s.controlOff a.key = none) (hgood : s.poisoned a.key = false)
  (hlane : a.lane ≠ outsider)

/-- What a write of bytes to memory outside the control space comes to, with the copy in the cluster's L1. -/
def State.wrote (s : State) (cl key : Nat) (bs : List Byte) : State :=
  (((s.after (storeBytes key bs)).after watchCounters).after serveJoins).after (dropCleanLine cl (lineOf key))

include hmem hlane

/-- A lane's write at the home agent of its own bytes. -/
theorem after_homeWrite_own (bs : List Byte) :
    s.after (Act.all [homeWrite a.key bs, Act.when (a.lane != outsider) (dropCleanLine r.cluster (lineOf a.key))]) =
      s.wrote r.cluster a.key bs := by
  rw [after_all_cons, after_homeWrite hmem, after_all_cons, after_all_nil, bne_iff_ne.2 hlane]
  rfl

include hgood

theorem after_performAccess_store {bs : List Byte} (hop : a.op = .store bs) (hparent : r.parent = none) :
    s.after (performAccess r now a) = s.wrote r.cluster a.key bs := by
  rw [after_eq]
  simp only [performAccess, hop, hgood, hparent]
  exact after_homeWrite_own hmem hlane bs

theorem after_performAccess_joinInc (hop : a.op = .joinInc) :
    s.after (performAccess r now a) = s.wrote r.cluster a.key (bytesLE 8 ((s.num a.key 8 + 1) % 2 ^ 64)) := by
  rw [after_eq]
  simp only [performAccess, hop, hgood, homeNum_of_memory hmem, Bool.false_eq_true, if_false]
  exact after_homeWrite_own hmem hlane _

theorem after_performAccess_joinDec (hop : a.op = .joinDec) :
    s.after (performAccess r now a) = s.wrote r.cluster a.key (bytesLE 8 ((s.num a.key 8 + (2 ^ 64 - 1)) % 2 ^ 64)) := by
  have hdec (n : Nat) : n + 2 ^ 64 - 1 = n + (2 ^ 64 - 1) := Nat.add_sub_assoc Nat.one_le_two_pow n
  rw [after_eq]
  simp only [performAccess, hop, hgood, homeNum_of_memory hmem, hdec, Bool.false_eq_true, if_false]
  exact after_homeWrite_own hmem hlane _

/-- The value that an atomic leaves in memory (R248). -/
def State.atomic (s : State) (a : Access) (op : Rmw) (t : Typ) (x y : DWord) : Nat :=
  (rmwNew op t (s.num a.key a.size) (x.toNat % 2 ^ (8 * a.size)) (y.toNat % 2 ^ (8 * a.size))).1

/-- The words of the old value, for the registers from `reg` on. -/
def State.oldWords (s : State) (a : Access) (reg : Nat) : Writes :=
  (List.range (a.size / 4)).map fun i => (reg + i, BitVec.ofNat 32 (s.num a.key a.size / 2 ^ (32 * i)))

theorem after_performAccess_rmw {op : Rmw} {t : Typ} {x y : DWord} {res reg : Nat} (hop : a.op = .rmw op t x y (some (res, reg)))
    (hfadd : op ≠ .fadd) (hl : s.lanes.get? a.lane = some l) (hlaunches : s.launches = [])
    (hqueue : ∀ e ∈ s.lanes, e.2.parks.queue = none) :
    s.after (performAccess r now a) = (({ s.after (storeBytes a.key (bytesLE a.size (s.atomic a op t x y))) with
      lanes := s.lanes.set a.lane { l with results := l.results.map (·.known res (s.oldWords a reg) now r.id) } } : State).after
        (dropCleanLine r.cluster (lineOf a.key))) := by
  have hlanes : (s.after (storeBytes a.key (bytesLE a.size (s.atomic a op t x y)))).lanes = s.lanes := by rw [after_storeBytes_frame]
  rw [after_eq]
  simp only [performAccess, hop, hgood, bne_iff_ne.2 hlane, hlane, homeNum_of_memory hmem, rmwNew_flags _ _ _ _ hfadd, false_and,
    Bool.false_eq_true, if_false]
  rw [← after_eq]
  simp only [after_all_cons, after_all_nil, after_when, if_true, after_opt_some, after_setFlags_zero]
  rw [after_homeWrite_alone hmem hlaunches hqueue]
  change ((s.after (storeBytes a.key (bytesLE a.size (s.atomic a op t x y)))).after
    (knowResult a.lane res (s.oldWords a reg) 0 none now (some r.id))).after _ = _
  rw [after_knowResult (hlanes ▸ hl), hlanes]

omit hgood hlane in
theorem after_performAccess_load {t : Typ} {reg res : Nat} (hop : a.op = .load (.raw t reg) [] res) (hl : s.lanes.get? a.lane = some l)
    (hbytes : ∀ i < a.size, s.poisoned (a.key + i) = false ∧ s.keyReach (a.key + i) = true) :
    s.after (performAccess r now a) = { s with
      lanes := s.lanes.set a.lane { l with
        results := l.results.map (·.known res ((t.words (t.value (s.num a.key a.size))).zipIdx.map fun w => (reg + w.2, w.1)) now r.id) } } := by
  have hnone : (((List.range a.size).map (a.key + ·)).any fun k => s.poisoned k || !s.keyReach k) = false := by
    simp only [List.any_eq_false, List.forall_mem_map, List.mem_range]
    intro i hi
    simp [hbytes i hi]
  rw [after_eq]
  simp only [performAccess, hop, Option.toList_none, List.append_nil, List.any_nil, Bool.not_false, Bool.true_and, hnone, homeNum_of_memory hmem,
    Bool.false_eq_true, if_false, reduceCtorEq, false_and, LoadAs.words]
  rw [← after_eq]
  exact after_knowResult hl ..

end Perform

end Sys2Proof.Machine
end

section
/-! PROOFS. The issue of LD, ST, LDE, STE and the atomics by one lane whose line the cluster's L1 does not hold (R234 to R247, R361). -/

namespace Sys2Proof.Machine

open Sys2Proof

/-! ### What there is nothing to write back of -/

/-- No element of an STE waits for its scale byte (R244). -/
def State.NoSte (s : State) : Prop := ∀ r ∈ s.reqs, ∀ a ∈ r.acc, ∀ p v t l kn d h, a.op ≠ .ste p v t l kn d h

/-- Neither the L1 of a cluster nor an STE has anything of a line. -/
structure State.Cold (s : State) (cl line : Nat) : Prop where
  notHeld : (s.cluster cl).line? line = none
  noSte : s.NoSte

section Cold

variable {s : State} {cl line : Nat}

theorem State.NoSte.after_steHome (h : s.NoSte) : s.after (steHome cl line) = s := by
  refine after_of_nil (if_neg ?_)
  simp only [List.any_eq_true, not_exists, not_and]
  intro r hr a ha
  split
  · next hop => exact absurd hop (h r hr a ha _ _ _ _ _ _ _)
  · exact Bool.false_ne_true

theorem State.Cold.after_sendWback (h : s.Cold cl line) : s.after (sendWback cl line) = s := by
  have hdirty : s.after (sendDirty cl line) = s := after_of_nil (by simp only [sendDirty, h.notHeld])
  rw [sendWback, after_all_cons, h.noSte.after_steHome, after_all_cons, hdirty, after_all_nil]

/-- The clusters once the clean bytes that an L1 holds of a line are gone. -/
def State.dropped (s : State) (cl line : Nat) : Map Nat Cluster := s.clusters.set cl ((s.cluster cl).dropClean fun l _ => l.line == line)

theorem State.Cold.after_homeLine (h : s.Cold cl line) : s.after (homeLine cl line) = { s with clusters := s.dropped cl line } := by
  rw [after_eq]
  simp only [homeLine, h.notHeld]
  rw [← after_eq]
  simp only [after_all_cons, after_all_nil, h.after_sendWback]
  rfl

end Cold

/-! ### Requests of one access -/

/-- The request of one access that reads no scale byte. -/
def State.request (s : State) (id : Nat) (a : Access) (l : Loc) : Req :=
  { id := id, ctx := s.ctxOf a.lane, cluster := s.clusterOf a.lane, line := lineOf a.key, home := l.home, st := .flying, acc := [a],
    reply := a.op.replies, cache := l.cache, also := [], after := [], acceptedAt := 0, order := 0 }

theorem bringing_nil (s : State) (cl : Nat) : s.bringing cl [] = [] := by
  simp [State.bringing]

theorem after_sendLines_one (s : State) {a : Access} (l : Loc) (halso : a.op.also = []) (hscale : a.scaleOnly = false) :
    s.after (sendLines [] [(a, l)]) = { s with fresh := s.fresh + 1, reqs := s.reqs ++ [s.request s.fresh a l] } := by
  have hkeys : [(lineOf a.key, l.home)].dedup = [(lineOf a.key, l.home)] := List.dedup_eq_self.2 (List.nodup_singleton _)
  rw [after_eq]
  simp only [sendLines, List.map_cons, List.map_nil, hkeys]
  rw [← after_eq, after_each_cons, after_each_nil, after_read]
  simp only [List.filter_cons, BEq.rfl, Bool.and_self, if_true, List.filter_nil, List.mergeSort_singleton, List.map_cons, List.map_nil,
    List.flatMap_cons, List.flatMap_nil, halso, List.append_nil, bringing_nil, List.any_cons, List.any_nil, Bool.or_false]
  rw [sendReq, sendReqFor, after_fresh, after_updReqs]
  simp only [List.any_cons, List.any_nil, Bool.or_false, hscale, List.flatMap_cons, List.flatMap_nil, halso, List.append_nil, List.filter_nil]
  rfl

theorem after_withIds {α : Type} (s : State) (xs : List α) (f : List (α × Nat) → Act) :
    s.after (withIds xs f) = ({ s with fresh := s.fresh + xs.length } : State).after (f (xs.zipIdx.map fun x => (x.1, s.fresh + x.2))) :=
  after_seq s (fun s => [.fresh (s.fresh + xs.length)]) (f (xs.zipIdx.map fun (x : α × Nat) => (x.1, s.fresh + x.2)))

theorem partition_singleton_of_not {α : Type} {p : α → Bool} {x : α} (h : p x = false) : [x].partition p = ([], [x]) := by
  simp [h]

/-! ### Loads -/

section Loads

variable {s : State} {x : Load}

theorem Load.data_of_cold (hcold : s.Cold x.e.cl (lineOf x.loc.key)) : x.data s = [] := by
  have hknown : (s.cluster x.e.cl).known x.loc.key x.n = [] := by simp only [Cluster.known, hcold.notHeld]
  simp only [Load.data, Load.held, hknown, ite_self]

theorem Load.hits_of_cold (hcold : s.Cold x.e.cl (lineOf x.loc.key)) : x.hits s = false := by
  simp only [Load.hits, Load.data_of_cold hcold, List.isEmpty_nil, Bool.not_true, Bool.false_and]

/-- What a load sends: it fills the L1 where it reads through it. -/
def Load.sends (x : Load) (s : State) (res : Nat) : Access :=
  { x.e.access x.loc.key x.n (.load x.as [] res) with fill := x.cached s x.loc }

/-- A result of a number that is still to come (R37). -/
def Result.awaited (id now : Nat) : Result := { id := id, vals := none, flags := 0, err := none, readyAt := now + 1, req := none }

variable (hscale : x.scale = none)

include hscale

theorem Load.asks_of_no_scale (res : Nat) : x.asks s res = ([], [(x.sends s res, x.loc)]) := by
  simp only [Load.asks, hscale, Load.sends]
  cases x.cached s x.loc <;> rfl

theorem Load.bad_of_cold (hcold : s.Cold x.e.cl (lineOf x.loc.key)) : x.bad s = false := by
  simp only [Load.bad, Load.data_of_cold hcold, hscale, List.isEmpty_nil, Bool.not_true, Bool.false_and, Bool.or_false]

theorem Load.also_of_no_scale (res : Nat) : (x.sends s res).op.also = [] := by
  have has : x.as = .lde x.loc.typ (x.e.op.min.toNat % 2 == 1) none x.e.op.typ (fxReg x.e.op) ∨ x.as = .quad (fxReg x.e.op) ∨
      x.as = .raw x.e.op.typ (fxReg x.e.op) := by
    simp only [Load.as, Env.loadAs, hscale, Option.map_none]
    split
    · exact .inl rfl
    · split
      · exact .inr (.inl rfl)
      · exact .inr (.inr rfl)
  change AccOp.also (.load x.as [] res) = []
  rcases has with h | h | h <;> rw [h] <;> rfl

/-- A load of a line that the L1 does not hold is sent to its home agent, and its result is awaited. -/
theorem after_issueLoads_cold {l : Lane} (hcold : s.Cold x.e.cl (lineOf x.loc.key)) (hcl : s.clusterOf x.e.k = x.e.cl)
    (hl : s.lanes.get? x.e.k = some l) : s.after (issueLoads [x]) = { s with
      fresh := s.fresh + 2,
      lanes := s.lanes.set x.e.k (l.owing (.awaited s.fresh s.now)),
      reqs := s.reqs ++ [s.request (s.fresh + 1) (x.sends s s.fresh) x.loc] } := by
  generalize hnext : ({ s with fresh := s.fresh + 1 } : State) = t
  have hcold' : t.Cold x.e.cl (lineOf x.loc.key) := hnext ▸ ⟨hcold.notHeld, hcold.noSte⟩
  have hcl' : t.clusterOf x.e.k = x.e.cl := hnext ▸ hcl
  have hl' : t.lanes.get? x.e.k = some l := hnext ▸ hl
  rw [issueLoads, after_withIds, List.length_singleton, hnext, after_eq]
  simp only [List.zipIdx_cons, List.zipIdx_nil, List.map_cons, List.map_nil, Nat.add_zero,
    partition_singleton_of_not, Load.bad_of_cold hscale hcold', Load.hits_of_cold hcold',
    Load.asks_of_no_scale hscale, List.flatMap_cons, List.flatMap_nil, List.append_nil, List.nil_append]
  rw [← after_eq]
  simp only [after_all_cons, after_all_nil, after_each_cons, after_each_nil]
  change ((t.after (sendWback (t.clusterOf x.e.k) (lineOf x.loc.key))).after (addResult x.e.k (.awaited s.fresh t.now))).after _ = _
  rw [hcl', hcold'.after_sendWback, after_addResult _ _ _ _ hl', after_sendLines_one _ _ (Load.also_of_no_scale hscale _) rfl, ← hnext]
  rfl

end Loads

/-! ### Stores -/

section Stores

variable {s : State} {x : Store}

theorem wbServed_eq_false (xs : List Store) (i : Nat) (h : x.wb = false ∨ x.loc.cache = false) : wbServed s xs i x = false := by
  rcases h with h | h <;> simp [wbServed, h]

/-- A store that the L1 does not take is sent to its home agent. -/
theorem after_issueStores_cold (h : x.wb = false ∨ x.loc.cache = false) (hcold : s.Cold x.e.cl (lineOf x.loc.key)) :
    s.after (issueStores [x]) = { s with
      fresh := s.fresh + 1, clusters := s.dropped x.e.cl (lineOf x.loc.key),
      reqs := s.reqs ++ [s.request s.fresh (x.e.access x.loc.key x.bytes.length (.store x.bytes)) x.loc] } := by
  rw [after_eq]
  simp only [issueStores, List.mergeSort_singleton, List.zipIdx_cons, List.zipIdx_nil, partition_singleton_of_not, wbServed_eq_false _ _ h,
    List.map_cons, List.map_nil]
  rw [← after_eq]
  simp only [after_all_cons, after_all_nil, after_each_cons, after_each_nil]
  rw [hcold.after_homeLine, after_sendLines_one _ _ rfl rfl]
  rfl

end Stores

/-! ### What every issue of one lane does -/

/-- A lane's address leads to a place of whose line neither the cluster's L1 nor a waiting STE has anything. -/
structure Env.Sends (e : Env) (at_ : Loc) : Prop where
  lane : e.s.lanes.get? e.k = some e.l
  place : e.s.locate (e.s.ctxOf e.k) (e.s.gangOf e.k) e.ea = some at_
  cold : e.s.Cold e.cl (lineOf at_.key)

/-- The state once the leaf entry that a lane's probe used is kept (R361). -/
def Env.kept (e : Env) : State := { e.s with ctxs := (e.s.after (keepLeaves [e])).ctxs }

theorem after_keepLeaves (e : Env) : e.s.after (keepLeaves [e]) = e.kept := by
  rw [Env.kept, keepLeaves, after_each_cons, after_each_nil, after_when]
  split
  · rw [after_eq]
    simp only [keepLeaf]
    split
    · split <;> rfl
    · rfl
  · rfl

/-- An atomic of a lane leaves a result outstanding where it returns one (R247). -/
theorem after_each_addResult_if {s : State} {e : Env} {l : Lane} (hl : s.lanes.get? e.k = some l) (ret : Env × Nat → Bool) (n : Nat) :
    s.after (Act.each ([(e, n)].filter ret) fun y => fun t => addResult y.1.k
      { id := y.2, vals := none, flags := 0, err := none, readyAt := t.now + 1, req := none } t) =
      { s with lanes := s.lanes.set e.k { l with results := l.results ++ if ret (e, n) then [.awaited n s.now] else [] } } := by
  cases hret : ret (e, n) with
  | true =>
    rw [List.filter_cons_of_pos hret, List.filter_nil, after_each_cons, after_each_nil]
    exact after_addResult s e.k (.awaited n s.now) l hl
  | false =>
    rw [List.filter_cons_of_neg (by simp [hret]), List.filter_nil, after_each_nil]
    simp only [Bool.false_eq_true, if_false, List.append_nil]
    rw [Map.set_get? _ _ _ hl]

theorem after_countAccess_retire (s : State) (e : Env) (l : Lane) (hl : s.lanes.get? e.k = some l) :
    (s.after (countAccess [e])).after (retire [e]) =
      { s with lanes := s.lanes.set e.k (({ l with seq := l.seq + 1 } : Lane).issued (l.pc + 12) e.op.w) } := by
  have hcount : s.after (countAccess [e]) = { s with lanes := s.lanes.set e.k { l with seq := l.seq + 1 } } := by
    rw [countAccess, after_each_cons, after_each_nil, after_updLane _ _ _ _ hl]
  rw [hcount, after_retire _ _ _ (Map.get?_set_self ..)]
  simp only [Map.set_set]

/-- The state after a lane has sent a request and gone on, owed some results, where `n` numbers have been taken. -/
def Env.sent (e : Env) (n : Nat) (r : Req) (rs : List Result) : State :=
  { e.s with
    fresh := e.s.fresh + n, ctxs := (e.s.after (keepLeaves [e])).ctxs, reqs := e.s.reqs ++ [r],
    lanes := e.s.lanes.set e.k (({ e.l with results := e.l.results ++ rs, seq := e.l.seq + 1 } : Lane).issued (e.l.pc + 12) e.op.w) }

/-- The operation and the operands of ATOM (R248). -/
def Env.atomOperands (e : Env) : Rmw × DWord × DWord :=
  (atomOp e.mn, if e.op.typ.is64 then e.src64 e.op.typ e.op.fx else (e.src e.op.fx).setWidth 64, 0)

/-- Those of ACAS (R249). -/
def Env.acasOperands (e : Env) : Rmw × DWord × DWord := match e.group e.op.fx 4 with
  | [a, b, c, d] => if e.op.typ.is64 then (.cas, b ++ a, d ++ c) else (.cas, a.setWidth 64, b.setWidth 64)
  | _ => (.cas, 0, 0)

/-- Those of AFADD (R250). -/
def Env.afaddOperands (e : Env) : Rmw × DWord × DWord := (.fadd, (e.src e.op.fx).setWidth 64, 0)

section Issue

variable {e : Env} {at_ : Loc} (h : e.Sends at_)

include h

theorem Env.Sends.loc_eq : e.loc = at_ := by
  rw [Env.loc, h.place, Option.getD_some]

theorem Env.Sends.kept_cold : e.kept.Cold e.cl (lineOf at_.key) := ⟨h.cold.notHeld, h.cold.noSte⟩

theorem Env.Sends.after_load {x : Load} (hx : x.e = e) (hloc : x.loc = at_) (hscale : x.scale = none) :
    e.s.after (Act.all [keepLeaves [e], issueLoads [x], countAccess [e], retire [e]]) =
      e.sent 2 (e.s.request (e.s.fresh + 1) (x.sends e.s e.s.fresh) at_) [.awaited e.s.fresh e.s.now] := by
  subst hx hloc
  simp only [after_all_cons, after_all_nil]
  rw [after_keepLeaves, after_issueLoads_cold hscale h.kept_cold rfl h.lane, after_countAccess_retire _ _ _ (Map.get?_set_self ..)]
  simp only [Map.set_set]
  rfl

theorem Env.Sends.after_issueLd (hprobe : e.probeStop (ldSize e.op) { rd := true, wr := false } = none) :
    e.s.after (issueLd [e]) = e.sent 2 (e.s.request (e.s.fresh + 1) { e.access at_.key (ldSize e.op) (.load (e.loadAs at_.typ none) [] e.s.fresh) with
      fill := !(e.op.min.toNat % 2 == 1) && (at_.cache && (e.s.cluster e.cl).hasL1) } at_) [.awaited e.s.fresh e.s.now] := by
  have hca : (!(e.op.min.toNat % 2 == 1)) = (e.op.min.toNat % 2 == 0) := by
    rcases Nat.mod_two_eq_zero_or_one e.op.min.toNat with hmin | hmin <;> rw [hmin] <;> rfl
  rw [issueLd, after_split_go hprobe]
  simp only [List.map_cons, List.map_nil, h.loc_eq]
  rw [h.after_load rfl rfl rfl, hca, ← Bool.and_assoc]
  rfl

theorem Env.Sends.after_issueLde
    (hprobe : e.s.probeElem (e.s.ctxOf e.k) (e.s.gangOf e.k) e.ea false (e.op.min.toNat % 2 == 1) = none) (hscaled : at_.typ.scaled = false) :
    e.s.after (issueLde [e]) = e.sent 2 (e.s.request (e.s.fresh + 1) {
      e.access at_.key (elemSize at_.typ) (.load (e.loadAs at_.typ none) [] e.s.fresh) with
      fill := at_.cache && (e.s.cluster e.cl).hasL1 } at_) [.awaited e.s.fresh e.s.now] := by
  have hscale : e.scaleOf at_ = none := by simp only [Env.scaleOf, hscaled, Bool.false_eq_true, if_false]
  rw [issueLde, after_split_go (by simp only [hprobe, Machine.probeStop, Option.map_none])]
  simp only [List.map_cons, List.map_nil, h.loc_eq, hscale]
  rw [h.after_load rfl rfl rfl]
  rfl

/-- The request of a lane's store at a place. -/
def Env.storeReq (e : Env) (at_ : Loc) (bs : List Byte) : Req := e.s.request e.s.fresh (e.access at_.key bs.length (.store bs)) at_

theorem Env.Sends.after_store {x : Store} (hx : x.e = e) (hloc : x.loc = at_) (hserved : x.wb = false ∨ x.loc.cache = false) :
    e.s.after (Act.all [keepLeaves [e], issueStores [x], countAccess [e], retire [e]]) =
      { e.sent 1 (e.storeReq at_ x.bytes) [] with clusters := e.s.dropped e.cl (lineOf at_.key) } := by
  subst hx hloc
  simp only [after_all_cons, after_all_nil]
  rw [after_keepLeaves, after_issueStores_cold hserved h.kept_cold, after_countAccess_retire _ _ x.e.l]
  · simp only [Env.sent, List.append_nil]
    rfl
  · exact h.lane

theorem Env.Sends.after_issueSt (hprobe : e.probeStop (ldSize e.op) { rd := false, wr := true } = none) (hcg : e.op.min.toNat % 2 = 1) :
    e.s.after (issueSt [e]) = { e.sent 1 (e.storeReq at_ e.stBytes) [] with clusters := e.s.dropped e.cl (lineOf at_.key) } := by
  rw [issueSt, after_split_go hprobe]
  simp only [List.map_cons, List.map_nil, h.loc_eq]
  exact h.after_store rfl rfl (.inl (by rw [hcg]; rfl))

omit h in
/-- The three majors of atomics differ in the operation and its operands alone (R248 to R250). -/
theorem issueMaj_rmw (es : List Env) : issueMaj .atom es = issueRmw es Env.atomOperands ∧ issueMaj .acas es = issueRmw es Env.acasOperands ∧
    issueMaj .afadd es = issueRmw es Env.afaddOperands := ⟨rfl, rfl, rfl⟩

/-- Does a lane's atomic return the old value (R247)? -/
def Env.returns (e : Env) : Bool := decide (e.op.min.toNat < 32)

/-- What ATOM, ACAS and AFADD ask of the home agent. -/
def Env.atomic (e : Env) (at_ : Loc) (x : Rmw × DWord × DWord) : Access := e.access at_.key (atomSize e.op)
  (.rmw x.1 e.op.typ x.2.1 x.2.2 (if e.returns then some (e.s.fresh, fxReg e.op) else none))

omit h in
theorem replies_atomic (x : Rmw × DWord × DWord) : (e.atomic at_ x).op.replies = e.returns := by
  change (if e.returns then some (e.s.fresh, fxReg e.op) else none).isSome = e.returns
  cases e.returns <;> rfl

theorem Env.Sends.after_issueRmw (op : Env → Rmw × DWord × DWord) (hprobe : e.probeStop (atomSize e.op) atomNeed = none) :
    e.s.after (issueRmw [e] op) = { e.sent 2 { e.s.request (e.s.fresh + 1) (e.atomic at_ (op e)) at_ with reply := e.returns }
        (if e.returns then [.awaited e.s.fresh e.s.now] else []) with
      clusters := e.s.dropped e.cl (lineOf at_.key) } := by
  have hreply : ({ e.s.request (e.s.fresh + 1) (e.atomic at_ (op e)) at_ with reply := e.returns } : Req) =
      e.s.request (e.s.fresh + 1) (e.atomic at_ (op e)) at_ := by
    rw [← replies_atomic (at_ := at_) (op e)]
    rfl
  rw [hreply, issueRmw, after_split_go hprobe]
  simp only [after_all_cons, after_all_nil, after_each_cons, after_each_nil, h.loc_eq]
  rw [after_keepLeaves, h.kept_cold.after_sendWback, dropCleanLine, after_updCluster, after_withIds]
  simp only [List.zipIdx_cons, List.zipIdx_nil, List.map_cons, List.map_nil, after_all_cons, after_all_nil, List.length_singleton, Nat.add_zero,
    h.loc_eq]
  rw [after_each_addResult_if (s := { e.kept with fresh := _, clusters := _ }) h.lane, after_sendLines_one _ _ rfl rfl,
    after_countAccess_retire _ _ _ (Map.get?_set_self ..)]
  simp only [Map.set_set]
  rfl

/-! ### STE -/

/-- How a lane's STE goes that is alone in its issue and needs no scale byte: at once. -/
def Env.steWay (e : Env) : SteWay := { x := { e := e, v := e.src e.op.fx, t := e.op.typ, scale := none }, known := none, late := false, behind := [] }

omit h in
theorem steWays_one (s : State) (hmx4 : e.loc.typ ≠ .mx4) : steWays s [{ e := e, v := e.src e.op.fx, t := e.op.typ, scale := none }] = [e.steWay] := by
  have hlate : (e.loc.typ == .mx4) = false := beq_eq_false_iff_ne.2 hmx4
  simp [steWays, Env.steWay, hlate]

omit h in
theorem steValue_of_no_bound (hbound : steBound e.op = none) : e.steValue = (some (e.src e.op.fx, e.op.typ), 0) := by
  simp only [Env.steValue, hbound]

omit h in
theorem after_sendStes_nil (s : State) : s.after (sendStes []) = s := rfl

/-- The element that a lane's STE encodes for a page without scale bytes, and its flags. -/
def Env.element (e : Env) (p : Typ) : Nat × BitVec 7 := encodeElem p (e.src e.op.fx) e.op.typ 0

omit h in
/-- An STE alone in its issue that its bound register lets pass: its flags, and a store of its element under WB. -/
theorem after_issueSte_one (hbound : steBound e.op = none)
    (hprobe : e.s.probeElem (e.s.ctxOf e.k) (e.s.gangOf e.k) e.ea true (e.op.min.toNat % 2 == 1) = none) (hscale : e.scaleOf e.loc = none)
    (hmx4 : e.loc.typ ≠ .mx4) :
    e.s.after (issueSte [e]) = e.s.after (Act.all [keepLeaves [e], setFlags e.k (e.element e.loc.typ).2,
      issueStores [{ e := e, loc := e.loc, bytes := bytesLE (elemSize e.loc.typ) (e.element e.loc.typ).1, wb := true }],
      countAccess [e], retire [e]]) := by
  rw [issueSte, after_split_go (by simp [firstStop, hbound, hprobe, probeStop]), after_read]
  simp only [List.mergeSort_singleton, List.map_cons, List.map_nil, steValue_of_no_bound hbound, List.filterMap_cons, Option.map_some,
    List.filterMap_nil, hscale, steWays_one e.s hmx4]
  have hdirect : [e.steWay].filter (fun w => !w.late) = [e.steWay] := rfl
  have hlate : [e.steWay].filter (·.late) = [] := rfl
  simp only [hdirect, hlate, List.filter_cons, List.filter_nil, List.append_nil, List.map_cons, List.map_nil, Option.isNone_some,
    Bool.false_eq_true, if_false, after_all_cons, after_all_nil, after_each_cons, after_each_nil, after_setFlags_zero, after_sendStes_nil]
  rfl

theorem Env.Sends.after_issueSte (hbound : steBound e.op = none)
    (hprobe : e.s.probeElem (e.s.ctxOf e.k) (e.s.gangOf e.k) e.ea true (e.op.min.toNat % 2 == 1) = none) (hscaled : at_.typ.scaled = false)
    (hmx4 : at_.typ ≠ .mx4) (hcache : at_.cache = false) :
    e.s.after (issueSte [e]) = { e.sent 1 (e.storeReq at_ (bytesLE (elemSize at_.typ) (e.element at_.typ).1)) [] with
      clusters := e.s.dropped e.cl (lineOf at_.key), crews := (e.s.after (setFlags e.k (e.element at_.typ).2)).crews } := by
  have hscale : e.scaleOf at_ = none := by simp only [Env.scaleOf, hscaled, Bool.false_eq_true, if_false]
  have hcrews : (e.kept.after (setFlags e.k (e.element at_.typ).2)).crews = (e.s.after (setFlags e.k (e.element at_.typ).2)).crews :=
    after_setFlags_congr e.s e.kept _ _ rfl rfl rfl
  rw [after_issueSte_one hbound hprobe (h.loc_eq ▸ hscale) (h.loc_eq ▸ hmx4), h.loc_eq]
  simp only [after_all_cons, after_all_nil]
  rw [after_keepLeaves, after_setFlags_frame, hcrews]
  generalize (e.s.after (setFlags e.k (e.element at_.typ).2)).crews = crews
  have hcold : ({ e.kept with crews := crews } : State).Cold e.cl (lineOf at_.key) := ⟨h.cold.notHeld, h.cold.noSte⟩
  rw [after_issueStores_cold (x := { e := e, loc := at_, bytes := _, wb := true }) (.inr hcache) hcold, after_countAccess_retire _ _ e.l]
  · simp only [Env.sent, List.append_nil]
    rfl
  · exact h.lane

end Issue

/-! ### A lane whose probe fails (R236) -/

/-- An issue in which no lane goes on makes its records alone. -/
theorem after_split (s : State) (es : List Env) (bad : Env → Option Stop) (run : List Env → Act) :
    s.after (split es bad run) = (s.after (split es bad fun _ => Act.skip)).after (run (es.filter fun e => (bad e).isNone)) := by
  simp only [after_eq s (split _ _ _), split, ← after_eq, after_all_cons, after_all_nil, after_skip]

theorem after_split_stopped {s : State} {e : Env} {bad : Env → Option Stop} {run : List Env → Act} {b : Stop} (hbad : bad e = some b)
    (hrun : ∀ t : State, t.after (run []) = t) : s.after (split [e] bad run) = s.after (faultRecord b.kind 0 [⟨e.k, b.cause, b.addr⟩]) := by
  rw [after_split, after_split_stop hbad rfl, List.filter_cons_of_neg (by simp [hbad]), List.filter_nil, hrun]

theorem after_issueStores_nil (s : State) : s.after (issueStores []) = s := by
  rw [after_eq]
  simp only [issueStores, List.mergeSort_nil]
  rfl

section Stopped

variable {e : Env} {cause : Nat} {addr : DWord}

theorem after_issueLd_stopped
    (hprobe : e.s.probeAligned (e.s.ctxOf e.k) (e.s.gangOf e.k) e.ea (ldSize e.op) { rd := true, wr := false }
      = some (cause, addr)) :
    e.s.after (issueLd [e]) = e.s.after (faultRecord 1 0 [⟨e.k, cause, addr⟩]) :=
  after_split_stopped (b := ⟨1, cause, addr⟩) (congrArg probeStop hprobe) fun _ => rfl

theorem after_issueSt_stopped
    (hprobe : e.s.probeAligned (e.s.ctxOf e.k) (e.s.gangOf e.k) e.ea (ldSize e.op) { rd := false, wr := true }
      = some (cause, addr)) :
    e.s.after (issueSt [e]) = e.s.after (faultRecord 1 0 [⟨e.k, cause, addr⟩]) := by
  refine after_split_stopped (b := ⟨1, cause, addr⟩) (congrArg probeStop hprobe) fun t => ?_
  simp only [after_all_cons, List.map_nil, after_issueStores_nil]
  rfl

theorem after_issueLde_stopped
    (hprobe : e.s.probeElem (e.s.ctxOf e.k) (e.s.gangOf e.k) e.ea false (e.op.min.toNat % 2 == 1) = some (cause, addr)) :
    e.s.after (issueLde [e]) = e.s.after (faultRecord 1 0 [⟨e.k, cause, addr⟩]) :=
  after_split_stopped (b := ⟨1, cause, addr⟩) (congrArg probeStop hprobe) fun _ => rfl

theorem after_issueSte_stopped (hbound : steBound e.op = none)
    (hprobe : e.s.probeElem (e.s.ctxOf e.k) (e.s.gangOf e.k) e.ea true (e.op.min.toNat % 2 == 1) = some (cause, addr)) :
    e.s.after (issueSte [e]) = e.s.after (faultRecord 1 0 [⟨e.k, cause, addr⟩]) := by
  refine after_split_stopped (b := ⟨1, cause, addr⟩) (by simp [firstStop, hbound, hprobe, probeStop]) fun t => ?_
  rw [after_read, List.mergeSort_nil]
  change State.after _ (Act.all [_, _, _, _, _, _, issueStores [], _, _, _]) = t
  simp only [after_all_cons, after_issueStores_nil]
  rfl

theorem after_issueRmw_stopped (op : Env → Rmw × DWord × DWord)
    (hprobe : e.s.probeAligned (e.s.ctxOf e.k) (e.s.gangOf e.k) e.ea (atomSize e.op) atomNeed = some (cause, addr)) :
    e.s.after (issueRmw [e] op) = e.s.after (faultRecord 1 0 [⟨e.k, cause, addr⟩]) :=
  after_split_stopped (b := ⟨1, cause, addr⟩) (congrArg probeStop hprobe) fun _ => rfl

end Stopped

end Sys2Proof.Machine

namespace Sys2Proof

open Machine

/-- Settles O42. A lane that stops: the split of the issue (`after_split_stopped`). A lane that goes on: what each major sends (`Env.Sends`).
At the home agent: what each access comes to (`State.wrote` for those that write a lane's own bytes). -/
theorem accessesArePerformed : Obligations.AccessesArePerformed := by
  unfold Obligations.AccessesArePerformed
  refine ⟨?issue, ?home⟩
  case issue =>
    rintro s e rfl hlane hmaj hbound
    obtain ⟨hatom, hacas, hafadd⟩ := issueMaj_rmw [e]
    refine ⟨fun cause addr hprobe => ?stops, fun at_ hprobe hplace hheld hste => ?sends⟩
    case stops =>
      simp only [List.mem_cons, List.not_mem_nil, or_false] at hmaj
      rcases hmaj with h | h | h | h | h | h | h <;> rw [h] at hprobe ⊢
      · exact after_issueLd_stopped hprobe
      · exact after_issueSt_stopped hprobe
      · exact after_issueLde_stopped hprobe
      · exact after_issueSte_stopped hbound hprobe
      · rw [hatom, after_issueRmw_stopped _ hprobe]
      · rw [hacas, after_issueRmw_stopped _ hprobe]
      · rw [hafadd, after_issueRmw_stopped _ hprobe]
    case sends =>
      have hsends : e.Sends at_ := ⟨hlane, hplace, hheld, hste⟩
      refine ⟨?ld, ?lde, ?st, ?ste, ?atomics⟩
      case ld =>
        intro h _
        rw [h] at hprobe ⊢
        exact hsends.after_issueLd (congrArg probeStop hprobe)
      case lde =>
        intro h hscaled _
        rw [h] at hprobe ⊢
        exact hsends.after_issueLde hprobe hscaled
      case st =>
        intro h hcg
        rw [h] at hprobe ⊢
        exact hsends.after_issueSt (congrArg probeStop hprobe) (beq_iff_eq.1 hcg)
      case ste =>
        intro h hscaled hmx4 hcache
        rw [h] at hprobe ⊢
        exact hsends.after_issueSte hbound hprobe hscaled hmx4 hcache
      case atomics =>
        intro h
        simp only [List.mem_cons, List.not_mem_nil, or_false] at h
        rcases h with h | h | h <;> rw [h] at hprobe ⊢
        · rw [hatom, hsends.after_issueRmw _ (congrArg probeStop hprobe)]
          rfl
        · rw [hacas, hsends.after_issueRmw _ (congrArg probeStop hprobe)]
          rfl
        · rw [hafadd, hsends.after_issueRmw _ (congrArg probeStop hprobe)]
          rfl
  case home =>
    intro s r now a l hmem hgood hl hlane
    exact ⟨fun _ => after_performAccess_store hmem hgood hlane, after_performAccess_joinInc hmem hgood hlane,
      after_performAccess_joinDec hmem hgood hlane,
      fun _ _ _ _ _ _ hfadd hop hlaunches hqueue => after_performAccess_rmw hmem hgood hlane hop hfadd hl hlaunches hqueue,
      fun _ _ _ hop _ hbytes => after_performAccess_load hmem hop hl hbytes⟩

end Sys2Proof
end

section
/-! PROOFS. HOST_MEM_ACCESS (R231, R251, R261, R262, R290, R424): accesses of the host and of other devices, a line that the home slice holds,
and the reply that a host gets. -/

namespace Sys2Proof.Machine

open Sys2Proof

/-! ### What reaches a home slice -/

theorem exec_hostMemAccess (s : State) (a : HostAccess) : exec (.hostMemAccess a) s = .next (s.after (stepHost a)).settled := rfl

/-- The access of an agent that is no lane. -/
def outsideOp (key n : Nat) (op : AccOp) : Access :=
  { lane := outsider, slot := 0, pc := 0, seq := 0, va := 0, key := key, size := n, ch := 0, op := op }

theorem after_outsideAccess (s : State) (key n : Nat) (op : AccOp) : s.after (outsideAccess key n op) =
    (s.after (sendReq 4096 nowhere (lineOf key) (.slice (s.sliceFor (lineOf key))) true [] [outsideOp key n op])).after (stepAccept s.fresh) :=
  after_seq s _ _

section Reach

variable {s : State}

theorem after_stepHost_read (hup : s.dev.up = true) {la n key : Nat} (hkey : s.hdm la n = some key) (keep : Bool) :
    s.after (stepHost (.read la n keep)) = s.after (outsideAccess key n (.unitRead (.host keep))) := by
  rw [stepHost, after_ifUp s _ hup, after_eq]
  simp only [hkey]
  rfl

theorem after_stepHost_write (hup : s.dev.up = true) {la key : Nat} {bs : List Byte} (hkey : s.hdm la bs.length = some key) :
    s.after (stepHost (.write la bs)) = s.after (outsideAccess key bs.length (.unitWrite (.host false) bs)) := by
  rw [stepHost, after_ifUp s _ hup, after_eq]
  simp only [hkey]
  rfl

theorem after_stepHost_device (hup : s.dev.up = true) {dev la key : Nat} {x : DeviceAccess} (hother : dev ≠ s.dev.devno.toNat) (hdev : dev < 256)
    (hlink : ∃ i < 18, (s.link i).up = true) (hkey : s.own la (deviceSize x) = some key)
    (haligned : deviceAligned x = true → la % deviceSize x = 0) : s.after (stepHost (.device dev la x)) = s.after (deviceAct dev key x) := by
  have hapart : (deviceAligned x && la % deviceSize x != 0) = false := by
    cases h : deviceAligned x with
    | false => rfl
    | true => simp [haligned h]
  have hup' : ((List.range 18).any fun i => (s.link i).up) = true := by
    obtain ⟨i, hi, hlink⟩ := hlink
    exact List.any_eq_true.2 ⟨i, List.mem_range.2 hi, hlink⟩
  rw [stepHost, after_ifUp s _ hup, after_eq]
  simp only [hapart, hup', hother, Nat.not_le.2 hdev, hkey, Bool.false_eq_true, Bool.true_eq_false, or_self, if_false]
  rfl

/-- A read of a headgate window gives the records held, the drop count, or 0 (R334). -/
theorem after_stepHost_window (hup : s.dev.up = true) {q off n : Nat} (hq : q < 2048) (hoff : off + n ≤ 4096) :
    s.after (stepHost (.window q off n)) = { s with
      dev := { s.dev with
        hostRead := bytesLE n (if n ≠ 4 then 0 else if off = 0 then (s.wq q).recs.length else if off = 4 then (s.wq q).drops.toNat else 0) } } := by
  rw [stepHost, after_ifUp s _ hup, after_when, if_pos (by simp [hq, hoff])]
  rfl

theorem after_stepHost_own {addr : Nat} {bs : List Byte} (h : addr + bs.length ≤ 2 ^ 52) :
    s.after (stepHost (.own addr bs)) = s.after (homeWrite (hostBase + addr) bs) := by
  rw [stepHost, after_when, if_pos (decide_eq_true h)]

theorem after_deviceAct_acquire {dev key : Nat} (excl try_ : Bool) (halive : key / 65536 ∉ s.dev.retired) :
    s.after (deviceAct dev key (.acquire excl try_)) = ({ s with
      fresh := s.fresh + 1,
      slreqs := s.slreqs ++ [
        { id := s.fresh, lane := outsider, va := 0, key := key, excl := excl, try_ := if try_ then some (0, 0) else none, waiting := false,
          slot := 0, home := .slice (s.sliceFor (lineOf key)) }] } : State).after (stepSluiceArrive s.fresh) := by
  rw [after_eq]
  simp only [deviceAct]
  rw [← after_eq, after_when, if_pos (by simp [halive]), after_fresh]
  simp only [after_all_cons, after_all_nil, after_updSlReqs]

theorem after_deviceAct_release {dev key : Nat} (excl : Bool) (halive : key / 65536 ∉ s.dev.retired) :
    s.after (deviceAct dev key (.release excl)) = ({ s with
      fresh := s.fresh + 1,
      slrels := s.slrels ++ [
        { id := s.fresh, lane := outsider, key := key, va := 0, excl := excl, publish := false,
          home := .slice (s.sliceFor (lineOf key)) }] } : State).after (stepSluiceRelease s.fresh) := by
  rw [after_eq]
  simp only [deviceAct]
  rw [← after_eq, after_when, if_pos (by simp [halive]), after_fresh]
  simp only [after_all_cons, after_all_nil, after_updSlRels]

/-- Memory keys below the control space of their device are no registers (R18). -/
theorem controlOff_of_low {key : Nat} (h : key % 2 ^ 44 < controlBase) : s.controlOff key = none :=
  if_neg fun ⟨_, _, hhigh⟩ => Nat.not_le.2 h hhigh

/-- What a host reads or writes over CXL.mem lies below the control space, and so does the whole line (R424). -/
theorem controlOff_of_hdm {la n key : Nat} (h : s.hdm la n = some key) :
    s.controlOff key = none ∧ s.controlOff (lineOf key * 128) = none := by
  simp only [State.hdm, State.own, Option.ite_none_right_eq_some, Bool.and_eq_true, decide_eq_true_eq, Option.some.injEq] at h
  obtain ⟨hlow, ⟨⟨⟨-, hla⟩, -⟩, -⟩, rfl⟩ := h
  constructor <;> refine controlOff_of_low ?_ <;> simp only [lineOf, controlBase] at hlow ⊢ <;> omega

end Reach

/-! ### Replies -/

theorem after_fillL1_of_not_fill (s : State) (r : Req) {a : Access} (h : a.fill = false) : s.after (fillL1 r a) = s :=
  after_of_nil (by simp only [fillL1, h, Bool.not_false, Bool.true_or, if_true])

section Reply

variable {s : State} {r : Req} {a : Access} {n : Nat} (hfind : s.reqs.find? (fun q => q.id == r.id && q.st == .replying) = some r)
  (hhome : r.home = .slice n) (hacc : r.acc = [a]) (hfill : a.fill = false)

include hfind hhome hacc hfill

/-- A host has what it read once the reply has left, and the request's queue entry is free (R261, R262). -/
theorem after_replyLeaves_hostRead {keep : Bool} (hop : a.op = .unitRead (.host keep)) (hreply : r.reply = true)
    (hqueue : r.id ∈ (s.slice n).queue) : s.after (replyLeaves r.id) = { s with
      reqs := s.reqs.filter fun q => q.id != r.id,
      slices := s.slices.set n { s.slice n with queue := (s.slice n).queue.filter (· != r.id) }, dev := { s.dev with hostRead := r.data } } := by
  rw [after_eq]
  simp only [replyLeaves, hfind, hhome, hacc, hreply, List.contains_iff_mem.2 hqueue]
  rw [← after_eq]
  simp only [after_all_cons, after_all_nil, after_each_cons, after_each_nil, after_fillL1_of_not_fill _ _ hfill, hop]
  rfl

/-- Nothing comes back from a write of a host. -/
theorem after_replyLeaves_hostWrite {keep : Bool} {bs : List Byte} (hop : a.op = .unitWrite (.host keep) bs) (hreply : r.reply = false) :
    s.after (replyLeaves r.id) = { s with reqs := s.reqs.filter fun q => q.id != r.id } := by
  rw [after_eq]
  simp only [replyLeaves, hfind, hhome, hacc, hreply]
  rw [← after_eq]
  simp only [after_all_cons, after_all_nil, after_each_cons, after_each_nil, after_fillL1_of_not_fill _ _ hfill, hop]
  rfl

theorem after_dropReply_hostRead {keep : Bool} (hop : a.op = .unitRead (.host keep)) (hreply : r.reply = true)
    (hqueue : r.id ∈ (s.slice n).queue) (htime : r.acceptedAt + 64 ≤ s.now) (howed : ∀ e ∈ s.lanes, ∀ x ∈ e.2.results, x.req ≠ some r.id) :
    s.after (dropReply r.id) = { s with
      reqs := s.reqs.filter fun q => q.id != r.id,
      slices := s.slices.set n { s.slice n with queue := (s.slice n).queue.filter (· != r.id) }, dev := { s.dev with hostRead := r.data } } := by
  have hnone : (s.lanes.any fun l => l.2.results.any fun x => x.req == some r.id) = false := by
    simp only [List.any_eq_false, beq_iff_eq, Bool.not_eq_true]
    exact howed
  rw [← after_replyLeaves_hostRead hfind hhome hacc hfill hop hreply hqueue, after_eq]
  simp only [dropReply, hfind, hnone, Nat.not_lt.2 htime, Bool.false_eq_true, decide_false, Bool.or_self, if_false]
  rfl

end Reply

end Sys2Proof.Machine
end

section
/-! PROOFS. A request that is alone at its home slice, which holds its line (R261 to R264, R290, R425): it is performed as soon as it is accepted. -/

namespace Sys2Proof.Machine

open Sys2Proof

/-! ### Acceptance -/

/-- A request is the only one on its way, and its home slice `n` holds its line; nothing there or of any migration or host stands in its way. -/
structure State.Alone (s : State) (r : Req) (n : Nat) : Prop where
  reqs : s.reqs = [r]
  home : r.home = .slice n
  memory : s.controlOff (r.line * 128) = none
  room : (s.slice n).queue.length < 32
  waiting : (s.slice n).waiting = []
  miss : ∀ m ∈ (s.slice n).miss, m.line ≠ r.line
  holds : (s.slice n).lines.get? r.line ≠ none
  still : s.pieceMoves r.line = false
  calm : s.conflicts r = false
  slreqs : ∀ x ∈ s.slreqs, x.held = none
  slrels : ∀ x ∈ s.slrels, x.held = none

/-- The request once it is accepted. -/
def Req.accepted (r : Req) (s : State) : Req := { r with st := .waiting, order := s.dev.order, acceptedAt := s.now }

/-- The state once it is accepted, with the slice as it then is. -/
def State.accepting (s : State) (r : Req) (n : Nat) (c : Slice) : State := { s with
  slices := s.slices.set n c, reqs := [r.accepted s], dev := { s.dev with order := s.dev.order + 1 } }

/-- The slice with the request in its queue, waiting for its turn. -/
def Slice.queued (c : Slice) (id : Nat) : Slice := { c with
  queue := c.queue ++ [id], waiting := c.waiting ++ [id], l2req := c.l2req + 1, l2qpeak := max c.l2qpeak (c.queue.length + 1) }

/-- The slice once it has served that request as a hit. -/
def Slice.hit (c : Slice) (r : Req) : Slice := ((c.queued r.id).unwait r.id).used_ r.line r.acc

theorem slice_accepting (s : State) (r : Req) (n : Nat) (c : Slice) : (s.accepting r n c).slice n = c := Map.getD_set_self ..

/-- A request behind no other, on a line that its slice holds and no host or migration does, is performed (R261). -/
theorem move_of_hit {t : State} {r : Req} {n : Nat} (hstill : t.pieceMoves r.line = false) (hfirst : ∀ q ∈ t.reqs, ¬ q.order < r.order)
    (hsluice : t.behindSluice r = false) (hcalm : t.conflicts r = false) (hmiss : ∀ m ∈ (t.slice n).miss, m.line ≠ r.line)
    (hline : (t.slice n).lines.get? r.line ≠ none) : t.move n r = some (hitReq n r) := by
  have hearlier (sts : List ReqSt) :
      (t.reqs.any fun q => q.home == r.home && q.line == r.line && decide (q.order < r.order) && sts.contains q.st) = false := by
    simp only [List.any_eq_false]
    intro q hq
    simp [hfirst q hq]
  have hnone : (t.slice n).miss.find? (fun m => m.line == r.line) = none := List.find?_eq_none.2 fun m hm => by simp [hmiss m hm]
  simp only [State.move, hstill, hearlier, hsluice, hcalm, hnone, Option.isSome_iff_ne_none.2 hline, Bool.false_eq_true, Bool.or_self, if_false,
    if_true]

section Hit

variable {s : State} {r : Req} {n : Nat} (h : s.Alone r n)

include h

theorem State.Alone.move_eq : (s.accepting r n ((s.slice n).queued r.id)).move n (r.accepted s) = some (hitReq n (r.accepted s)) := by
  have hsluice : (s.accepting r n ((s.slice n).queued r.id)).behindSluice (r.accepted s) = false := by
    simp only [State.behindSluice, State.accepting, Bool.or_eq_false_iff, List.any_eq_false]
    exact ⟨fun x hx => by simp [h.slreqs x hx], fun x hx => by simp [h.slrels x hx]⟩
  refine move_of_hit h.still ?_ hsluice h.calm ?_ ?_
  · intro q hq
    rw [List.mem_singleton.1 hq]
    exact Nat.lt_irrefl _
  · rw [slice_accepting]
    exact h.miss
  · rw [slice_accepting]
    exact h.holds

/-- The request has its turn at once, and nothing else is left to wait at its slice. -/
theorem State.Alone.after_serveWaiting : (s.accepting r n ((s.slice n).queued r.id)).after (serveWaiting n) =
    (s.accepting r n ((s.slice n).hit r)).after (performReq (r.accepted s)) := by
  have hwaiting : ((s.slice n).queued r.id).waiting = [r.id] := by rw [Slice.queued, h.waiting, List.nil_append]
  have hfind : (s.accepting r n ((s.slice n).queued r.id)).reqs.find? (fun q => q.id == r.id) = some (r.accepted s) :=
    List.find?_cons_of_pos BEq.rfl
  rw [after_eq]
  simp only [serveWaiting, slice_accepting, hwaiting, List.length_singleton, serveSlice, List.findSome?_cons, hfind, Option.bind_some, h.move_eq]
  rw [← after_eq, after_seq, after_skip, hitReq, after_all_cons, after_all_cons, after_all_nil, after_updSlice, slice_accepting]
  simp only [State.accepting, Map.set_set]
  rfl

/-- A request that hits is performed as it is accepted. -/
theorem State.Alone.after_stepAccept (hst : r.st = .flying) (hafter : r.after = []) (hbehind : s.behind r = false) :
    s.after (stepAccept r.id) = (s.accepting r n ((s.slice n).hit r)).after (performReq (r.accepted s)) := by
  have hfind : s.reqs.find? (fun q => q.id == r.id) = some r := by
    rw [h.reqs]
    exact List.find?_cons_of_pos BEq.rfl
  have hflying : (ReqSt.flying == ReqSt.flying) = true := rfl
  rw [← h.after_serveWaiting, after_eq]
  simp only [stepAccept, hfind, hst, hafter, hbehind, h.home, h.memory, hflying, State.allPerformed, List.all_nil, Bool.true_or, Bool.not_true,
    Bool.or_self, Option.isSome_none, Bool.false_eq_true, if_false, Nat.not_le.2 h.room]
  rw [← after_eq]
  simp only [after_all_cons, after_all_nil, after_updSlice, after_updReqs, after_updDev, h.reqs, List.map_cons, List.map_nil, if_true]
  rfl

end Hit

/-! ### Accesses of a host -/

/-- The slice once a write to a line that it holds has been performed: the queue entry is free, and the line differs from DRAM (R264). -/
def Slice.wrote (c : Slice) (r : Req) : Slice := { c with
  queue := c.queue.filter (· != r.id), dirty := if (c.lines.get? r.line).isSome && !c.dirty.contains r.line then c.dirty ++ [r.line] else c.dirty }

theorem after_updSlice_updSlice (s : State) (n : Nat) (f g : Slice → Slice) :
    (s.after (updSlice n f)).after (updSlice n g) = s.after (updSlice n fun c => g (f c)) := by
  simp only [after_updSlice, State.slice, Map.getD_set_self, Map.set_set]

theorem after_freeEntry_dirtyLine (s : State) (r : Req) (n : Nat) :
    (s.after (updSlice n fun c => { c with queue := c.queue.filter (· != r.id) })).after (dirtyLine (.slice n) r.line) =
      { s with slices := s.slices.set n ((s.slice n).wrote r) } := by
  rw [dirtyLine, after_updSlice_updSlice]
  rfl

/-- A write that is being performed at its slice. -/
def State.performing (s : State) (r : Req) (n : Nat) : State :=
  { s with reqs := [{ r with st := .replying }], slices := s.slices.set n ((s.slice n).wrote r) }

section Perform

variable {s : State} {r : Req} {n now : Nat} {a : Access} {keep : Bool}

/-- The host's copies of lines where it may keep one more (R425). -/
def State.copies (s : State) (keep : Bool) (line : Nat) : List Nat :=
  if keep && !s.dev.hostCopies.contains line then s.dev.hostCopies ++ [line] else s.dev.hostCopies

theorem after_performAccess_hostRead (hop : a.op = .unitRead (.host keep)) : s.after (performAccess r now a) = { s with
    reqs := s.reqs.map fun q => if q.id = r.id then { q with data := s.bytes a.key a.size } else q,
    dev := { s.dev with hostCopies := s.copies keep r.line } } := by
  rw [after_eq]
  simp only [performAccess, hop]
  rw [← after_eq]
  rfl

/-- The poisoned lines after a write of `m` bytes, which cures one that it covers whole (R251). -/
def State.cured (s : State) (key m : Nat) : List Nat :=
  if 128 ≤ m then s.dev.poison.filter (· != lineOf (s.phys key)) else s.dev.poison

theorem cured_of_not_poisoned {key : Nat} (h : s.poisoned key = false) (m : Nat) : s.cured key m = s.dev.poison := by
  have hnot : lineOf (s.phys key) ∉ s.dev.poison := by simpa [State.poisoned] using h
  rw [State.cured, List.filter_eq_self.2 fun x hx => bne_iff_ne.2 (ne_of_mem_of_not_mem hx hnot), ite_self]

theorem cured_of_part {key m : Nat} (h : ¬ 128 ≤ m) : s.cured key m = s.dev.poison := if_neg h

/-- A write of a host stores its bytes, and nobody is told of a poisoned line that it does not cure. -/
theorem after_performAccess_hostWrite {bs : List Byte} (hop : a.op = .unitWrite (.host keep) bs) (hlane : a.lane = outsider)
    (hmem : s.controlOff a.key = none) (hlaunches : s.launches = []) (hqueue : ∀ e ∈ s.lanes, e.2.parks.queue = none) :
    s.after (performAccess r now a) =
      { s.after (storeBytes a.key bs) with dev := { s.dev with poison := s.cured a.key bs.length } } := by
  have hwrite (p : List Nat) : ({ s with dev := { s.dev with poison := p } } : State).after (homeWrite a.key bs) =
      { s.after (storeBytes a.key bs) with dev := { s.dev with poison := p } } := by
    rw [after_homeWrite_alone (s := { s with dev := { s.dev with poison := p } }) hmem hlaunches hqueue, after_storeBytes, after_storeBytes]
    rfl
  have hreport : s.after (writePoison a) = s := after_of_nil (if_pos hlane)
  rw [after_eq]
  simp only [performAccess, hop, Bool.false_eq_true, if_false]
  rw [← after_eq]
  simp only [after_all_cons, after_all_nil, after_when, hreport, ite_self, after_skip, after_updDev]
  by_cases hcure : (s.poisoned a.key && decide (128 ≤ bs.length)) = true
  · have hwhole : 128 ≤ bs.length := of_decide_eq_true (Bool.and_eq_true_iff.1 hcure).2
    rw [if_pos hcure, hwrite, State.cured, if_pos hwhole]
  · have hpoison : s.cured a.key bs.length = s.dev.poison := by
      rw [Bool.and_eq_true, not_and_or, decide_eq_true_eq, Bool.not_eq_true] at hcure
      exact hcure.elim (cured_of_not_poisoned · _) cured_of_part
    rw [if_neg hcure, hpoison]
    exact hwrite s.dev.poison

variable (hreqs : s.reqs = [r]) (hhome : r.home = .slice n) (hacc : r.acc = [a])

include hreqs hhome hacc

/-- A performed read of a host waits, with the bytes, for its reply to leave (R262). -/
theorem after_performReq_hostRead (hop : a.op = .unitRead (.host keep)) (hreply : r.reply = true) : s.after (performReq r) = { s with
    reqs := [{ r with st := .replying, data := s.bytes a.key a.size }], dev := { s.dev with hostCopies := s.copies keep r.line } } := by
  have hback : r.comesBack = true := by simp [Req.comesBack, hhome, hreply]
  have hreads : (!(AccOp.unitRead (.host keep)).reads) = false := rfl
  rw [after_eq]
  simp only [performReq, hhome, hacc, hreply, hback, hop, hreads, List.any_cons, List.any_nil, Bool.or_false, Bool.not_true]
  rw [← after_eq]
  simp only [after_all_cons, after_all_nil, after_when, Bool.false_eq_true, if_false, after_each_cons, after_each_nil, after_updReqs]
  rw [after_performAccess_hostRead hop]
  simp only [hreqs, hhome, hacc, hreply, List.map_cons, List.map_nil, if_true]
  rfl

/-- A write of a host is over when it is performed. -/
theorem after_performReq_hostWrite {bs : List Byte} (hop : a.op = .unitWrite (.host keep) bs) (hreply : r.reply = false) (hfill : a.fill = false)
    (hlane : a.lane = outsider) (hmem : s.controlOff a.key = none) (hlaunches : s.launches = [])
    (hqueue : ∀ e ∈ s.lanes, e.2.parks.queue = none) : s.after (performReq r) = { s.after (storeBytes a.key bs) with
      reqs := [], slices := s.slices.set n ((s.slice n).wrote r), dev := { s.dev with poison := s.cured a.key bs.length } } := by
  have hback : r.comesBack = false := by simp [Req.comesBack, hhome, hreply, hacc, hfill]
  have hwrites : (!(AccOp.unitWrite (.host keep) bs).reads) = true := rfl
  have hgone : (s.performing r n).reqs.filter (fun q => q.id != r.id) = [] := by simp [State.performing]
  rw [after_eq]
  simp only [performReq, hhome, hacc, hreply, hback, hop, hwrites, List.any_cons, List.any_nil, Bool.or_false, Bool.not_false]
  rw [← after_eq]
  simp only [after_all_cons, after_all_nil, after_when, if_true, after_each_cons, after_each_nil, after_updReqs, after_freeEntry_dirtyLine,
    hreqs, List.map_cons, List.map_nil]
  change ((s.performing r n).after (performAccess r (max (s.now + 1) (r.acceptedAt + 64)) a)).after _ = _
  rw [after_performAccess_hostWrite (s := s.performing r n) hop hlane hmem hlaunches hqueue, after_storeBytes,
    after_replyLeaves_hostWrite (r := { r with st := .replying }) (List.find?_cons_of_pos (by simp)) hhome hacc hfill hop hreply, after_storeBytes]
  simp only [hgone]
  rfl

end Perform

end Sys2Proof.Machine
end

section
/-! PROOFS. A read or a write of a host of a line that its home slice holds, where no other request is on its way (R251, R262, R290). -/

namespace Sys2Proof.Machine

open Sys2Proof

/-- The request of an access from outside, as it is sent. -/
def State.outsideReq (s : State) (key n : Nat) (op : AccOp) : Req :=
  { id := s.fresh, ctx := 4096, cluster := nowhere, line := lineOf key, home := .slice (s.sliceFor (lineOf key)), st := .flying,
    acc := [outsideOp key n op], reply := op.replies, cache := true, also := [], after := [], acceptedAt := 0, order := 0 }

/-- The state once it is on its way, alone. -/
def State.asked (s : State) (key n : Nat) (op : AccOp) : State := { s with fresh := s.fresh + 1, reqs := [s.outsideReq key n op] }

/-- The home slice holds a line, has room in its queue, and nothing waits or is held there or on its way to it. -/
structure State.Hits (s : State) (line : Nat) : Prop where
  reqs : s.reqs = []
  slreqs : ∀ x ∈ s.slreqs, x.held = none
  slrels : ∀ x ∈ s.slrels, x.held = none
  room : (s.slice (s.sliceFor line)).queue.length < 32
  waiting : (s.slice (s.sliceFor line)).waiting = []
  miss : ∀ m ∈ (s.slice (s.sliceFor line)).miss, m.line ≠ line
  holds : (s.slice (s.sliceFor line)).lines.get? line ≠ none
  still : s.pieceMoves line = false

section Host

variable {s : State} {la n key : Nat} {op : AccOp} {keep : Bool} (hkey : s.hdm la n = some key) (hhits : s.Hits (lineOf key))

include hhits

theorem State.Hits.after_sendReq (hop : op.unit = some (.host keep)) :
    s.after (sendReq 4096 nowhere (lineOf key) (.slice (s.sliceFor (lineOf key))) true [] [outsideOp key n op]) = s.asked key n op := by
  obtain ⟨halso, hscale⟩ : (outsideOp key n op).op.also = [] ∧ (outsideOp key n op).scaleOnly = false := by
    cases op with
    | unitRead u | unitWrite u bs | unitAdd u t bs => exact ⟨rfl, rfl⟩
    | _ => cases hop
  rw [sendReq, sendReqFor, after_fresh, after_updReqs]
  simp only [List.any_cons, List.any_nil, Bool.or_false, hscale, List.flatMap_cons, List.flatMap_nil, halso, List.append_nil,
    List.filter_nil, hhits.reqs, List.nil_append]
  rfl

omit hhits in
theorem behind_asked (hop : op.unit = some (.host keep)) : (s.asked key n op).behind (s.outsideReq key n op) = false := by
  have hself : (s.outsideReq key n op).before (s.outsideReq key n op) = false := by simp [Req.before]
  have hown : (outsideOp key n op).op.own = false := by
    change (op.unit.isNone && !op.isWback) = false
    rw [hop]
    rfl
  have hreqs : (s.asked key n op).reqs = [s.outsideReq key n op] := rfl
  have hacc : (s.outsideReq key n op).acc = [outsideOp key n op] := rfl
  simp only [State.behind, hreqs, hacc, List.any_cons, List.any_nil, hself, hown, Bool.false_and, Bool.or_self, Bool.and_false, Bool.false_or,
    List.any_eq_false, Bool.false_eq_true, not_false_eq_true, implies_true]

include hkey

theorem State.Hits.alone (hop : op.unit = some (.host keep)) :
    (s.asked key n op).Alone (s.outsideReq key n op) (s.sliceFor (lineOf key)) where
  reqs := rfl
  home := rfl
  memory := (controlOff_of_hdm hkey).2
  room := hhits.room
  waiting := hhits.waiting
  miss := hhits.miss
  holds := hhits.holds
  still := hhits.still
  calm := by simp [State.conflicts, State.outsideReq, outsideOp, hop]
  slreqs := hhits.slreqs
  slrels := hhits.slrels

/-- The state in which such a request is performed. -/
def State.served (s : State) (key n : Nat) (op : AccOp) : State :=
  (s.asked key n op).accepting (s.outsideReq key n op) (s.sliceFor (lineOf key)) ((s.slice (s.sliceFor (lineOf key))).hit (s.outsideReq key n op))

omit hhits hkey in
theorem slice_served : (s.served key n op).slice (s.sliceFor (lineOf key)) = (s.slice (s.sliceFor (lineOf key))).hit (s.outsideReq key n op) :=
  slice_accepting ..

omit hhits hkey in
theorem slices_set_served (c : Slice) : (s.served key n op).slices.set (s.sliceFor (lineOf key)) c = s.slices.set (s.sliceFor (lineOf key)) c :=
  Map.set_set ..

theorem State.Hits.after_outsideAccess (hop : op.unit = some (.host keep)) :
    s.after (outsideAccess key n op) = (s.served key n op).after (performReq ((s.outsideReq key n op).accepted (s.asked key n op))) := by
  rw [Machine.after_outsideAccess, hhits.after_sendReq hop]
  exact (hhits.alone hkey hop).after_stepAccept rfl rfl (behind_asked hop)

/-- A host's read of a line that its home slice holds: its request waits, with the bytes, for the reply to leave. -/
theorem State.Hits.after_hostRead : s.after (outsideAccess key n (.unitRead (.host keep))) = { s.served key n (.unitRead (.host keep)) with
    reqs := [{ (s.outsideReq key n (.unitRead (.host keep))).accepted (s.asked key n (.unitRead (.host keep))) with
      st := .replying, data := s.bytes key n }],
    dev := { s.dev with order := s.dev.order + 1, hostCopies := s.copies keep (lineOf key) } } := by
  rw [hhits.after_outsideAccess hkey rfl, after_performReq_hostRead rfl rfl rfl rfl rfl]
  rfl

/-- A host's write of such a line: its bytes are stored, and the request is over. -/
theorem State.Hits.after_hostWrite {bs : List Byte} (hlaunches : s.launches = []) (hqueue : ∀ e ∈ s.lanes, e.2.parks.queue = none) :
    s.after (outsideAccess key n (.unitWrite (.host keep) bs)) = { s.after (storeBytes key bs) with
      fresh := s.fresh + 1,
      slices := s.slices.set (s.sliceFor (lineOf key)) (((s.slice (s.sliceFor (lineOf key))).hit
        (s.outsideReq key n (.unitWrite (.host keep) bs))).wrote (s.outsideReq key n (.unitWrite (.host keep) bs))),
      dev := { s.dev with order := s.dev.order + 1, poison := s.cured key bs.length } } := by
  rw [hhits.after_outsideAccess hkey rfl, after_performReq_hostWrite (s := s.served key n (.unitWrite (.host keep) bs)) rfl rfl rfl rfl rfl rfl
    rfl (controlOff_of_hdm hkey).1 hlaunches hqueue, after_storeBytes, after_storeBytes]
  simp only [slice_served, slices_set_served, hhits.reqs]
  rfl

end Host

end Sys2Proof.Machine
namespace Sys2Proof

open Machine

/-- Settles O45: what each access of the host comes to (`after_stepHost_read` and its like), the reply of a read, and a request that is alone at a
slice that holds its line (`State.Alone`). -/
theorem hostReadsAndWrites : Obligations.HostReadsAndWrites := by
  unfold Obligations.HostReadsAndWrites
  intro s go told
  have hgo (key n : Nat) (op : AccOp) : s.after (outsideAccess key n op) = go key n op := after_outsideAccess s key n op
  refine ⟨fun hup => ⟨?read, ?write, ?device, ?plain, ?atom, ?sluices, ?window⟩, ?own, fun off n => rfl, ?reply, ?hits⟩
  case read =>
    intro la n key hkey keep
    rw [exec_hostMemAccess, after_stepHost_read hup hkey, hgo]
  case write =>
    intro la bs key hkey
    rw [exec_hostMemAccess, after_stepHost_write hup hkey, hgo]
  case device =>
    intro dev la x key hother hdev hlink hkey haligned
    rw [exec_hostMemAccess, after_stepHost_device hup hother hdev hlink hkey haligned]
  case plain => exact fun dev key n bs => ⟨hgo key n _, hgo key bs.length _⟩
  case atom => exact fun dev key mn t a b ret => hgo key (if t.is64 then 8 else 4) _
  case sluices => exact fun dev key excl try_ halive => ⟨after_deviceAct_acquire excl try_ halive, after_deviceAct_release excl halive⟩
  case window =>
    intro q hq
    simp only [exec_hostMemAccess]
    refine ⟨?_, ?_, fun off n hoff hn => ?_⟩
    · rw [after_stepHost_window hup hq (by decide)]
      rfl
    · rw [after_stepHost_window hup hq (by decide)]
      rfl
    · rw [after_stepHost_window hup hq hoff]
      have hzero : (if n ≠ 4 then 0 else if off = 0 then (s.wq q).recs.length else if off = 4 then (s.wq q).drops.toNat else 0) = 0 := by
        rcases hn with hn | ⟨h0, h4⟩
        · rw [if_pos hn]
        · rw [if_neg h0, if_neg h4, ite_self]
      rw [hzero]
  case own =>
    intro addr bs haddr
    rw [exec_hostMemAccess, after_stepHost_own haddr]
  case reply =>
    intro r a n keep hfind _ _ hhome hreply hqueue hacc hop hfill htime howed
    exact after_dropReply_hostRead hfind hhome hacc hfill hop hreply hqueue htime howed
  case hits =>
    intro la n key hkey hreqs hslreqs hslrels c hroom hwaiting hmiss hholds hstill
    have hhits : s.Hits (lineOf key) := ⟨hreqs, hslreqs, hslrels, hroom, hwaiting, hmiss, hholds, hstill⟩
    refine ⟨fun keep => ⟨_, (hhits.after_hostRead hkey).symm.trans (hgo ..), rfl, ?bytes, ?others⟩, fun bs hbs hlaunches hqueue =>
      ⟨_, (hhits.after_hostWrite hkey hlaunches hqueue).symm.trans (hgo ..), hbs ▸ rfl, ?slices⟩⟩
    case bytes =>
      intro r hr
      rw [List.mem_singleton.1 hr]
      exact ⟨rfl, rfl, rfl⟩
    case others => exact fun m hm => Map.getD_set_ne _ _ _ hm
    case slices => exact fun m hm => Map.getD_set_ne _ _ _ hm

end Sys2Proof
end

section
/-! PROOFS. The invariant of the part: every primitive update keeps it, and so do the cycles that pass before a step. -/

namespace Sys2Proof

namespace Machine

theorem inv_reset : Inv State.reset where
  mem := reset_memWf
  lanes := List.nodup_nil
  crews := List.nodup_nil
  wgs := List.nodup_nil
  gangs := List.nodup_nil
  launches := List.nodup_nil
  pelotons := List.nodup_nil
  ports := List.nodup_nil
  cores_ := List.nodup_nil
  clusters := List.nodup_nil
  slices := List.nodup_nil
  ctxs := List.nodup_nil
  queues := List.nodup_nil
  seqs := List.nodup_nil
  links := List.nodup_nil
  routes := List.nodup_nil

/-- An update of one component keeps its keys apart (`Map.nodup_put`) and leaves the others; a device reset leaves no component and the
bytes of memory outside the device. -/
theorem inv_apply (s : State) (u : Upd) (h : Inv s) : Inv (u.apply s) := by
  cases u with
  | lane k v => exact { h with lanes := Map.nodup_put _ k v h.lanes }
  | crew k v => exact { h with crews := Map.nodup_put _ k v h.crews }
  | wg k v => exact { h with wgs := Map.nodup_put _ k v h.wgs }
  | gang k v => exact { h with gangs := Map.nodup_put _ k v h.gangs }
  | launch k v => exact { h with launches := Map.nodup_put _ k v h.launches }
  | peloton k v => exact { h with pelotons := Map.nodup_put _ k v h.pelotons }
  | port k v => exact { h with ports := Map.nodup_put _ k v h.ports }
  | core k v => exact { h with cores_ := Map.nodup_put _ k v h.cores_ }
  | cluster k v => exact { h with clusters := Map.nodup_put _ k v h.clusters }
  | slice k v => exact { h with slices := Map.nodup_put _ k v h.slices }
  | ctx k v => exact { h with ctxs := Map.nodup_put _ k v h.ctxs }
  | queue k v => exact { h with queues := Map.nodup_put _ k v h.queues }
  | seqr k v => exact { h with seqs := Map.nodup_put _ k v h.seqs }
  | link k v => exact { h with links := Map.nodup_put _ k v h.links }
  | route k v => exact { h with routes := Map.nodup_put _ k v h.routes }
  | byte k v => exact { h with mem := Memory.wf_write s.mem h.mem k v }
  | fresh _ | reqs _ | slreqs _ | slrels _ | dev _ => exact { h with }
  | wipe d => exact { inv_reset with mem := Memory.wf_filter s.mem h.mem _ }

theorem inv_after (s : State) (a : Act) (h : Inv s) : Inv (s.after a) := after_inv inv_apply a s h

theorem inv_settled (s : State) (h : Inv s) : Inv s.settled := inv_after s settle h

/-- Cycles that pass count in clusters that are there, and add none. -/
theorem keys_clusters_elapse (s : State) (n : Nat) : Map.keys (s.elapse n).clusters = Map.keys s.clusters := by
  simp only [State.elapse]
  split
  · rfl
  · simp only [Map.keys, List.map_map]
    refine List.map_congr_left fun e _ => ?_
    simp only [Function.comp_apply]
    split <;> rfl

theorem inv_elapse (s : State) (n : Nat) (h : Inv s) : Inv (s.elapse n) := by
  obtain rfl | hn := Nat.eq_zero_or_pos n
  · exact h
  · rw [elapse_frame s hn]
    exact { h with clusters := (keys_clusters_elapse s n).symm ▸ h.clusters }

end Machine

open Machine

/-- Settles O4: no component has an entry, and no byte of memory is listed. -/
theorem resetHasInv : Obligations.ResetHasInv := inv_reset

/-- Settles O3: the cycles that pass before a step keep the invariant, and a meaning answers what updates leave, settled. -/
theorem stepKeepsInv : Obligations.StepKeepsInv := by
  unfold Obligations.StepKeepsInv
  intro s s' h hstep
  have hadvance : Inv s.advance := inv_elapse _ _ { h with }
  obtain ⟨a, ha⟩ := exec_next s.nextStep.2 s.advance
  have hs : (s.advance.after a).settled = s' := Host.Outcome.next.inj (ha.symm.trans hstep)
  exact hs ▸ inv_settled _ (inv_after _ a hadvance)

end Sys2Proof
end

section
/-! PROOFS. Attestation (R437), reset (R436), power (R435) and the settings of the control space (R427, R429, R431): what each step leaves. -/

namespace Sys2Proof.Machine

open Sys2Proof

/-! ### Attestation and reset -/

theorem length_take_padded (n : Nat) (bs : List Byte) : ((bs ++ List.replicate n 0).take n).length = n := by simp

/-- An image is accepted when each of the boot ROM's checks of it passes. -/
theorem fwVersion_eq_some_iff (x : FwImage) (least v : Word) : fwVersion x least = some v ↔ ∃ o, readObj x.file = .ok o ∧ o.linked = true ∧
    o.trusted x.file [Config.rootKeys.1] [Config.rootKeys.2] = true ∧ (∃ y rest, o.secs = y :: rest ∧ 4 ≤ y.data.length ∧
      v = BitVec.ofNat 32 (numAt y.data 0 4)) ∧ least.toNat ≤ v.toNat := by
  unfold fwVersion
  cases hread : readObj x.file with
  | error _ => simp
  | ok o =>
    cases hsecs : o.secs with
    | nil => simp [hsecs]
    | cons y rest =>
      simp only [hsecs, Option.ite_none_right_eq_some, Bool.and_eq_true, decide_eq_true_eq, Option.some.injEq, Except.ok.injEq]
      constructor
      · rintro ⟨⟨⟨⟨hlinked, hlen⟩, htrusted⟩, hleast⟩, rfl⟩
        exact ⟨o, rfl, hlinked, htrusted, ⟨y, rest, hsecs, hlen, rfl⟩, hleast⟩
      · rintro ⟨_, rfl, hlinked, htrusted, ⟨y', rest', hsecs', hlen, rfl⟩, hleast⟩
        obtain ⟨rfl, rfl⟩ := List.cons.inj (hsecs.symm.trans hsecs')
        exact ⟨⟨⟨⟨hlinked, hlen⟩, htrusted⟩, hleast⟩, rfl⟩

/-- The image that the boot ROM runs, and its version. -/
def imageTaken (least : Word) (primary secondary : Option FwImage) : Option (Word × FwImage) :=
  (primary.toList ++ secondary.toList).findSome? fun x => (fwVersion x least).map fun v => (v, x)

/-- It is the primary image when the boot ROM accepts that. -/
theorem imageTaken_of_primary {least v : Word} {primary : Option FwImage} (h : (primary.bind (fwVersion · least)) = some v) (secondary : Option FwImage) :
    (imageTaken least primary secondary).map (·.1) = some v ∧ (imageTaken least primary secondary).map (·.2) = primary := by
  obtain ⟨x, rfl, hx⟩ := Option.bind_eq_some_iff.1 h
  simp [imageTaken, hx]

/-- Else it is the secondary image, when the boot ROM accepts that. -/
theorem imageTaken_of_secondary {least : Word} {primary : Option FwImage} (h : (primary.bind (fwVersion · least)) = none) (secondary : Option FwImage) :
    (imageTaken least primary secondary).map (·.1) = secondary.bind (fwVersion · least) ∧
    (imageTaken least primary secondary).map (·.2) = if (secondary.bind (fwVersion · least)).isSome then secondary else none := by
  have hp : (primary.toList.findSome? fun x => (fwVersion x least).map fun v => (v, x)) = none := by
    cases primary with
    | none => rfl
    | some x => simpa using h
  rw [imageTaken, List.findSome?_append, hp, Option.none_or]
  cases secondary with
  | none => exact ⟨rfl, rfl⟩
  | some x => cases hx : fwVersion x least <;> simp [hx]

theorem after_stepReset (s : State) (primary secondary : Option FwImage) :
    let img := imageTaken s.dev.fwmin primary secondary
    s.after (stepReset primary secondary) = { State.reset with
      tick := s.tick, now := s.now, agenda := s.agenda, fresh := s.fresh, mem := s.mem.filter fun c => outside s.dev.devno c.1,
      dev := { Dev.reset with
        devno := s.dev.devno, fwmin := s.dev.fwmin, up := (img.map (·.1)).isSome, fwver := (img.map (·.1)).getD 0, resetAt := s.now,
        measured := (img.map (·.2)).toList.map fun x => BitVec.ofNat 256 (natLE (sha256 x.file)),
        retired := s.dev.retired, softRepaired := s.dev.softRepaired.filter fun r => !s.dev.hardRepairs.contains r, order := s.dev.order } } := by
  intro img
  have hup : (img.map (·.1)).isSome = img.isSome := Option.isSome_map
  have hmeasured : (img.map (·.2)).toList.map (fun x => BitVec.ofNat 256 (natLE (sha256 x.file))) =
      img.toList.map fun y => BitVec.ofNat 256 (natLE (sha256 y.2.file)) := by
    cases img <;> rfl
  rw [hup, hmeasured]
  rfl

/-! ### Power -/

/-- The cut that the arbiter gives to cluster `n`. -/
def setCut (cut : Nat → Nat) (n : Nat) : Act := Act.read fun t =>
  Act.when (decide (cut n ≠ 0) || (t.cluster n).cut != 0) (updCluster n fun c => { c with cut := cut n })

theorem cluster_set (s : State) (n m : Nat) (c : Cluster) :
    State.cluster { s with clusters := s.clusters.set n c } m = if m = n then c else s.cluster m := by
  split
  · next h => subst h; exact Map.getD_set_self s.clusters m c Cluster.init
  · next h => exact Map.getD_set_ne s.clusters c Cluster.init h

theorem after_setCut (s : State) (cut : Nat → Nat) (n : Nat) : s.after (setCut cut n) = { s with clusters := (s.after (setCut cut n)).clusters } ∧
    ∀ m, (s.after (setCut cut n)).cluster m = if m = n then { s.cluster n with cut := cut n } else s.cluster m := by
  simp only [setCut, after_read, after_when]
  split
  · exact ⟨rfl, fun m => cluster_set s n m _⟩
  · next h =>
    have hsame : cut n = 0 ∧ (s.cluster n).cut = 0 := by simpa using h
    refine ⟨rfl, fun m => ?_⟩
    split
    · next hm => rw [hm, hsame.1, ← hsame.2]
    · rfl

theorem after_each_setCut (cut : Nat → Nat) (ns : List Nat) (s : State) :
    s.after (Act.each ns (setCut cut)) = { s with clusters := (s.after (Act.each ns (setCut cut))).clusters } ∧
    ∀ m, (s.after (Act.each ns (setCut cut))).cluster m = if m ∈ ns then { s.cluster m with cut := cut m } else s.cluster m := by
  induction ns generalizing s with
  | nil => exact ⟨rfl, fun m => by simp⟩
  | cons n ns ih =>
    obtain ⟨hframe, hcut⟩ := after_setCut s cut n
    obtain ⟨ihframe, ihcut⟩ := ih (s.after (setCut cut n))
    rw [after_each_cons]
    refine ⟨by rw [ihframe, hframe], fun m => ?_⟩
    rw [ihcut, hcut]
    by_cases hm : m = n
    · subst hm; simp
    · simp [hm]

theorem after_stepPower_early (s : State) (inlet fixed : Nat) (demand : List Nat) {t : Nat} (hat : s.dev.powerAt = some t) (hearly : s.now < t + 12000) :
    s.after (ifUp (stepPower inlet fixed demand)) = s := by
  have hnone : stepPower inlet fixed demand s = [] := by simp [stepPower, hat, cyclesOf, hearly]
  rw [after_eq, ifUp, hnone, ite_self]
  rfl

/-- A division is made of the cuts of the clusters one by one. -/
theorem after_stepPower (s : State) (inlet fixed : Nat) (demand : List Nat) (hlate : ∀ t, s.dev.powerAt = some t → t + 12000 ≤ s.now) :
    let floor := s.dev.floor.toNat
    let left := s.dev.pcap.toNat - 100 * (inlet - s.dev.tlim.toNat) - fixed - 144 * floor
    let d (cl : Nat) : Nat := (demand[cl]?).getD 0
    let sum := ((List.range 144).map fun cl => d cl - floor).foldl (· + ·) 0
    s.after (stepPower inlet fixed demand) =
      ({ s with dev := { s.dev with modpwr := BitVec.ofNat 32 (Config.pick s.tick 435), powerAt := some s.now } } : State).after
        (Act.each (List.range 144) (setCut fun n => cutOf floor left sum (d n))) := by
  intro floor left d sum
  have hzip : ((List.range 144).map d).zipIdx = (List.range 144).map fun n => (d n, n) :=
    List.ext_getElem (by simp) fun i _ _ => by simp
  have hsum : (((List.range 144).map d).map fun x => x - floor).foldl (· + ·) 0 = sum := by rw [List.map_map]; rfl
  have hall : stepPower inlet fixed demand s = Act.all [
      updDev fun v => { v with modpwr := BitVec.ofNat 32 (Config.pick s.tick 435), powerAt := some s.now },
      Act.each ((List.range 144).map d).zipIdx fun x => setCut (fun _ => cutOf floor left (((List.range 144).map d |>.map fun x => x - floor).foldl (· + ·) 0) x.1) x.2] s := by
    unfold stepPower
    refine if_neg ?_
    cases h : s.dev.powerAt with
    | none => exact Bool.false_ne_true
    | some t => exact fun hd => Nat.not_lt.2 (hlate t h) (of_decide_eq_true hd)
  rw [after_eq, hall, ← after_eq, hzip, hsum, after_all_cons, after_updDev, after_all_cons, after_all_nil, Act.each, List.map_map]
  rfl

/-! ### Fields of a number -/

/-- The bits of a field, as the field of a word. -/
theorem bits_toNat {n w : Nat} (v : BitVec n) (lo hi : Nat) (h : hi + 1 - lo = w) : bits v.toNat hi lo = (v.extractLsb' lo w).toNat := by
  rw [BitVec.extractLsb'_toNat, Nat.shiftRight_eq_div_pow, bits, h]

theorem ofNat_bits {n w : Nat} (v : BitVec n) (lo hi : Nat) (h : hi + 1 - lo = w) : BitVec.ofNat w (bits v.toNat hi lo) = v.extractLsb' lo w := by
  rw [bits_toNat v lo hi h, BitVec.ofNat_toNat, BitVec.setWidth_eq]

/-- Fields laid out from bit 0 stand next to each other in the word. -/
theorem ofNat_packBits_cons (n w v : Nat) (r : List (Nat × Nat)) :
    BitVec.ofNat (n + w) (packBits ((w, v) :: r)) = BitVec.ofNat n (packBits r) ++ BitVec.ofNat w v := by
  apply BitVec.eq_of_toNat_eq
  have hlt : v % 2 ^ w < 2 ^ w := Nat.mod_lt _ (by positivity)
  rw [BitVec.toNat_append, BitVec.toNat_ofNat, BitVec.toNat_ofNat, BitVec.toNat_ofNat, packBits, ← Nat.shiftLeft_add_eq_or_of_lt hlt,
    Nat.shiftLeft_eq, Nat.add_comm n w, Nat.pow_add, Nat.mod_mul, Nat.add_mul_mod_self_left, Nat.mod_mod,
    Nat.add_mul_div_left _ _ (by positivity), Nat.div_eq_of_lt hlt, Nat.zero_add]
  ring

theorem ofNat_packBits_eq_append {n w v : Nat} {r : List (Nat × Nat)} {x : BitVec n} {y : BitVec w} (hx : BitVec.ofNat n (packBits r) = x)
    (hy : BitVec.ofNat w v = y) : BitVec.ofNat (n + w) (packBits ((w, v) :: r)) = x ++ y := by
  rw [ofNat_packBits_cons, hx, hy]

/-- A bit that is set is cleared by subtracting it. -/
theorem ofNat_toNat_sub_two_pow {w : Nat} (v : BitVec w) (i : Nat) (h : v.getLsbD i = true) :
    BitVec.ofNat w (v.toNat - 2 ^ i) = v &&& ~~~BitVec.twoPow w i := by
  have hi : i < w := BitVec.lt_of_getLsbD h
  have hpow : (BitVec.twoPow w i).toNat = 2 ^ i := by
    rw [BitVec.toNat_twoPow, Nat.mod_eq_of_lt (Nat.pow_lt_pow_right (by decide) hi)]
  have hle : 2 ^ i ≤ v.toNat := Nat.ge_two_pow_of_testBit h
  have hsplit : (v &&& ~~~BitVec.twoPow w i) + BitVec.twoPow w i = v := by
    rw [BitVec.add_eq_or_of_and_eq_zero]
    · ext j hj
      simp only [BitVec.getElem_or, BitVec.getElem_and, BitVec.getElem_not, BitVec.getElem_twoPow]
      by_cases hij : j = i
      · subst hij; simpa [BitVec.getLsbD_eq_getElem hj] using h
      · simp [hij]
    · ext j hj; simp
  have hsub : v - BitVec.twoPow w i = v &&& ~~~BitVec.twoPow w i := BitVec.sub_eq_iff_eq_add.2 hsplit.symm
  rw [← hsub]
  apply BitVec.eq_of_toNat_eq
  rw [BitVec.toNat_ofNat, BitVec.toNat_sub_of_le (by rw [BitVec.le_def, hpow]; exact hle), hpow, Nat.mod_eq_of_lt (by omega)]

/-! ### Settings -/

theorem after_stepQuantumWrite (s : State) (v : Half) {c : Nat} (hc : c < 576) : s.after (stepQuantumWrite c v) = { s with
    cores := s.cores.set c { s.core c with quantumSet := if v = 0 then 1 else v } } := by
  have hclamp : BitVec.ofNat 16 (clamp 1 65535 v.toNat) = if v = 0 then 1 else v := by
    simp only [clamp]
    split
    · next h => subst h; rfl
    · next h => bv_omega
  simp only [stepQuantumWrite, hc, decide_true, after_when, if_true, after_updCore, hclamp]

theorem after_stepCisthw (s : State) (v : Half) {cl : Nat} (hcl : cl < 144) : s.after (stepCisthw cl v) = { s with
    clusters := s.clusters.set cl { s.cluster cl with cisthwSet := if v = 0 then 1 else if 4095#16 < v then 4095 else v } } := by
  have hclamp : BitVec.ofNat 16 (clamp 1 4095 v.toNat) = if v = 0 then 1 else if 4095#16 < v then 4095 else v := by
    simp only [clamp]
    split
    · next h => subst h; rfl
    · split <;> bv_omega
  simp only [stepCisthw, hcl, decide_true, after_when, if_true, after_updCluster, hclamp]

theorem after_stepRoute (s : State) (v : Word) {d : Nat} (hd : d < 256) :
    s.after (stepRoute d v) = { s with routes := s.routes.set d (v &&& 0x3FFFF#32) } := by
  have hmask : BitVec.ofNat 32 (v.toNat % 2 ^ 18) = v &&& 0x3FFFF#32 := by
    apply BitVec.eq_of_toNat_eq
    rw [BitVec.toNat_and, BitVec.toNat_ofNat, ← Nat.and_two_pow_sub_one_eq_mod v.toNat 18]
    exact Nat.mod_eq_of_lt (Nat.lt_of_le_of_lt Nat.and_le_left v.isLt)
  rw [after_eq]
  simp only [stepRoute, hd, if_true, hmask]
  rfl

/-- The configuration of a queue as it is stored (R429). -/
def queueConfig (v : BitVec 128) : BitVec 128 :=
  0#96 ++ v.extractLsb' 31 1 ++ (if 5#3 < v.extractLsb' 28 3 then 5 else v.extractLsb' 28 3) ++ v.extractLsb' 24 4 ++
    (if v.extractLsb' 20 4 = 0#4 then 0 else if v.extractLsb' 20 4 < 6#4 then 6 else v.extractLsb' 20 4 : BitVec 4) ++
    v.extractLsb' 19 1 ++ 0#7 ++ v.extractLsb' 0 12

theorem ofNat_packBits_config (v : BitVec 128) :
    BitVec.ofNat 128 (packBits [(12, bits v.toNat 11 0), (7, 0), (1, bits v.toNat 19 19), (4, if bits v.toNat 23 20 = 0 then 0 else max 6 (bits v.toNat 23 20)),
      (4, bits v.toNat 27 24), (3, min 5 (bits v.toNat 30 28)), (1, bits v.toNat 31 31)]) = queueConfig v := by
  have hdie (x : BitVec 3) : BitVec.ofNat 3 (min 5 x.toNat) = if 5#3 < x then 5 else x := by revert x; decide
  have hdepth (x : BitVec 4) : BitVec.ofNat 4 (if x.toNat = 0 then 0 else max 6 x.toNat) = if x = 0#4 then 0 else if x < 6#4 then 6 else x := by
    revert x; decide
  unfold queueConfig
  rw [bits_toNat v 28 30 rfl, bits_toNat v 20 23 rfl]
  have hhead : BitVec.ofNat (96 + 1) (packBits [(1, bits v.toNat 31 31)]) = 0#96 ++ v.extractLsb' 31 1 :=
    ofNat_packBits_eq_append rfl (ofNat_bits v 31 31 rfl)
  exact ofNat_packBits_eq_append (ofNat_packBits_eq_append (ofNat_packBits_eq_append (ofNat_packBits_eq_append (ofNat_packBits_eq_append
    (ofNat_packBits_eq_append hhead (hdie _)) (ofNat_bits v 24 27 rfl)) (hdepth _)) (ofNat_bits v 19 19 rfl)) rfl) (ofNat_bits v 0 11 rfl)

theorem bits_31_eq_zero_iff (v : BitVec 128) : bits v.toNat 31 31 = 0 ↔ v.getLsbD 31 = false := by
  rw [bits, BitVec.getLsbD, Nat.testBit_eq_decide_div_mod_eq, decide_eq_false_iff_not]
  omega

theorem after_stepQueueConfig (s : State) (v : BitVec 128) {q : Nat} (hq : q < 2048) : s.after (stepQueueConfig q v) =
    if (s.wq q).en = true then
      if v.getLsbD 31 = false then { s with queues := s.queues.set q { s.wq q with cfg := (s.wq q).cfg &&& ~~~0x80000000#128 } } else s
    else if (s.wq q).recs = [] then { s with queues := s.queues.set q { s.wq q with cfg := queueConfig v } } else s := by
  rw [after_eq]
  simp only [stepQueueConfig, Nat.not_le.2 hq, if_false, ofNat_packBits_config, bits_31_eq_zero_iff, List.isEmpty_iff]
  split
  · next hen =>
    rw [ofNat_toNat_sub_two_pow _ 31 hen]
    split <;> rfl
  · split <;> rfl

end Sys2Proof.Machine
end
section
namespace Sys2Proof
open Machine

/-- Settles O24: the report is the identity block, the nonce, and 4,000 bytes of measurements and signatures, padded. -/
theorem reportHoldsIdentityAndNonce : Obligations.ReportHoldsIdentityAndNonce := by
  unfold Obligations.ReportHoldsIdentityAndNonce
  intro s hup hstatus
  have hnext : exec .attestationReportReady s = .next (s.after stepReport).settled := congrArg (Host.Outcome.next <| State.settled ·) (after_ifUp s stepReport hup)
  rw [hnext, after_eq]
  simp only [stepReport, hstatus, ne_eq, not_true_eq_false, if_false]
  refine ⟨_, rfl, ?_, ?_, ?_⟩
  · simp only [List.length_append, length_take_padded, bytesLE_length, List.length_replicate]
  · simp only [List.append_assoc]
    exact List.take_left' (bytesLE_length 64 _)
  · simp only [List.append_assoc]
    rw [List.drop_left' (bytesLE_length 64 _)]
    exact List.take_left' (bytesLE_length 32 _)

/-- Settles O30: what an accepted image is, and the one update of a reset with the image that the boot ROM takes. -/
theorem resetReturnsAll : Obligations.ResetReturnsAll := by
  unfold Obligations.ResetReturnsAll
  refine ⟨fwVersion_eq_some_iff, fun s primary secondary => ?_⟩
  have hnext : exec (.deviceReset primary secondary) s = .next (s.after (stepReset primary secondary)).settled := rfl
  rw [hnext, after_stepReset]
  cases hp : primary.bind (fwVersion · s.dev.fwmin) with
  | some v =>
    obtain ⟨hver, himg⟩ := imageTaken_of_primary hp secondary
    simp only [hver, himg, hp, Option.isSome_some, if_true]
    rfl
  | none =>
    obtain ⟨hver, himg⟩ := imageTaken_of_secondary hp secondary
    simp only [hver, himg, hp, Option.isSome_none, Bool.false_eq_true, if_false]
    rfl

/-- Settles O32: the division is by cluster (`after_each_setCut`), each with the cut of its own demand. -/
theorem powerIsDivided : Obligations.PowerIsDivided := by
  unfold Obligations.PowerIsDivided
  refine ⟨fun s inlet fixed demand t hat hearly => ?_, fun s inlet fixed demand hup hlate => ?_⟩
  · exact congrArg (Host.Outcome.next <| State.settled ·) (after_stepPower_early s inlet fixed demand hat hearly)
  · intro floor left d sum
    let cut (n : Nat) : Nat := cutOf floor left sum (d n)
    let s' : State := { s with dev := { s.dev with modpwr := BitVec.ofNat 32 (Config.pick s.tick 435), powerAt := some s.now } }
    obtain ⟨hframe, hcut⟩ := after_each_setCut cut (List.range 144) s'
    refine ⟨s'.after (Act.each (List.range 144) (setCut cut)), ?_, ?_, fun cl => ?_⟩
    · exact congrArg (Host.Outcome.next <| State.settled ·) ((after_ifUp s _ hup).trans (after_stepPower s inlet fixed demand hlate))
    · rw [hframe]
    · refine (hcut cl).trans ?_
      simp only [List.mem_range, cut, cutOf, or_comm (a := d cl ≤ floor)]
      rfl

/-- Settles O22: the fields of a register are those of the number that is written (`ofNat_bits`), each held to its range. -/
theorem settingsAreWritten : Obligations.SettingsAreWritten := by
  unfold Obligations.SettingsAreWritten
  refine ⟨fun s => ⟨fun hup => ⟨fun c v hc => ?_, fun cl v hcl => ?_, fun d v hd => ?_, fun n => ?_⟩, fun hdown c v cl w d x n => ?_⟩,
    fun s q v hup hq => ?_⟩
  · exact congrArg (Host.Outcome.next <| State.settled ·) ((after_ifUp s _ hup).trans (after_stepQuantumWrite s v hc))
  · exact congrArg (Host.Outcome.next <| State.settled ·) ((after_ifUp s _ hup).trans (after_stepCisthw s v hcl))
  · exact congrArg (Host.Outcome.next <| State.settled ·) ((after_ifUp s _ hup).trans (after_stepRoute s v hd))
  · exact congrArg (Host.Outcome.next <| State.settled ·) ((after_ifUp s _ hup).trans rfl)
  · have idle (a : Act) : run (ifUp a) s = .next s.settled := congrArg (Host.Outcome.next <| State.settled ·) (after_ifUp_down s a hdown)
    exact ⟨idle _, idle _, idle _, idle _⟩
  · exact congrArg (Host.Outcome.next <| State.settled ·) ((after_ifUp s _ hup).trans (after_stepQueueConfig s v hq))

end Sys2Proof
end

section
/-! PROOFS. The record rings (R297, R298) and fault records of one lane (R388, R391), headgates (R334), drained banks (R257) and migration (R271). -/

namespace Sys2Proof.Machine

open Sys2Proof

/-! ### What a step answers -/

/-- A step answers what its action leaves, settled. -/
theorem run_of_after {a : Act} {s t : State} (h : s.after a = t) : run a s = .next t.settled := h ▸ rfl

/-- So does one of the running device. -/
theorem run_ifUp_of_after {a : Act} {s t : State} (hup : s.dev.up = true) (h : s.after a = t) : run (ifUp a) s = .next t.settled :=
  run_of_after ((after_ifUp s a hup).trans h)

/-! ### Records -/

theorem after_writeError {s : State} {v : Ctx} {e : ErrRec} (h : s.ctxs.get? e.ctx = some v) : s.after (writeError e) =
    if v.room .error then
      { s with mem := (s.after (storeBytes (v.eqb.toNat + v.eqpi.toNat % 2 ^ v.eqs.toNat * 64) (bytesLE 64 (e.word v.losterr.toNat)))).mem,
               ctxs := s.ctxs.set e.ctx (v.bump .error) }
    else { s with ctxs := s.ctxs.set e.ctx { v with losterr := v.losterr + 1 } } := by
  have hmeans : writeError e s = if v.room .error then writeRecord e.ctx .error (e.word v.losterr.toNat) s
      else [.ctx e.ctx (some { v with losterr := v.losterr + 1 })] := by simp only [writeError, h]
  rw [after_eq, hmeans]
  split
  · exact after_writeRecord s e.ctx v .error _ h
  · rfl

theorem after_writeCompletion {s : State} {c : Nat} {v : Ctx} (h : s.ctxs.get? c = some v) (n : Nat) : s.after (writeCompletion c n) =
    if v.room .completion && v.cwait.isEmpty then
      { s with mem := (s.after (storeBytes (v.cqb.toNat + v.cqpi.toNat % 2 ^ v.cqs.toNat * 64) (bytesLE 64 n))).mem,
               ctxs := s.ctxs.set c (v.bump .completion) }
    else { s with ctxs := s.ctxs.set c { v with cwait := v.cwait ++ [BitVec.ofNat 512 n] } } := by
  have hmeans : writeCompletion c n s = if v.room .completion && v.cwait.isEmpty then writeRecord c .completion n s
      else [.ctx c (some { v with cwait := v.cwait ++ [BitVec.ofNat 512 n] })] := by simp only [writeCompletion, h]
  rw [after_eq, hmeans]
  split
  · exact after_writeRecord s c v .completion n h
  · rfl

theorem irqs_bump (v : Ctx) (r : Ring) : (v.bump r).irqs =
    if (v.ring r).2.2.2.2.getLsbD 15 then (v.ring r).2.2.2.2.extractLsb' 0 11 :: v.irqs else v.irqs := by
  cases r <;> simp only [Ctx.bump] <;> split <;> rfl

theorem ring_bump (v : Ctx) (r : Ring) : ((v.bump r).ring r).2.2.1 = (v.ring r).2.2.1 + 1 := by
  cases r <;> simp only [Ctx.bump] <;> split <;> rfl

/-- The fields of a context that the fault ring's index does not name stay. -/
theorem faults_bump_fault (v : Ctx) (fs : List FaultRec) : { v with faults := fs }.bump .fault = { v.bump .fault with faults := fs } := by
  cases hv : v.fvec.getLsbD 15 <;> simp only [Ctx.bump, Ctx.ring, hv] <;> rfl

theorem cwait_bump_completion (v : Ctx) (ws : List (BitVec 512)) : { v with cwait := ws }.bump .completion = { v.bump .completion with cwait := ws } := by
  cases hv : v.cvec.getLsbD 15 <;> simp only [Ctx.bump, Ctx.ring, hv] <;> rfl

/-- The oldest waiting fault record `f` of a context `v` with the FID that it gets as it is written; a record that holds no lane and no command
closes. -/
def FaultRec.opened (f : FaultRec) (v : Ctx) : List FaultRec :=
  (v.faults.map fun g => if g.num = f.num then { g with fid := some v.fqpi } else g).filter fun g =>
    g.num != f.num || g.cmd.isSome || !g.held.isEmpty

/-- The detail block of a record: 64 slots of 16 bytes. -/
def FaultRec.block (f : FaultRec) (s : State) : List Byte := (List.range 64).flatMap fun n => match (f.detailNow s).find? fun d => d.1 == n with
  | some (_, a, cause) => bytesLE 16 (a.toNat + cause * 2 ^ 64)
  | none => bytesLE 16 0

/-- Where the detail block goes, and where the head does. -/
def Ctx.detailAt (v : Ctx) : Nat := v.fqb.toNat + 2 ^ v.fqs.toNat * 64 + v.fqpi.toNat % 2 ^ v.fqs.toNat * 1024
def Ctx.headAt (v : Ctx) : Nat := v.fqb.toNat + v.fqpi.toNat % 2 ^ v.fqs.toNat * 64

theorem recordMem_eq (s : State) (v : Ctx) (f : FaultRec) : s.recordMem v f =
    ((s.after (storeBytes v.detailAt (f.block s))).after (storeBytes v.headAt (bytesLE 64 (f.headNow s + v.fqpi.toNat * 2 ^ 160)))).mem := by
  refine congrArg (fun b => ((s.after (storeBytes v.detailAt b)).after (storeBytes v.headAt (bytesLE 64 (f.headNow s + v.fqpi.toNat * 2 ^ 160)))).mem) ?_
  refine congrArg ((List.range 64).flatMap ·) (funext fun n => ?_)
  cases (f.detailNow s).find? fun d => d.1 == n <;> rfl

theorem writeWaitingFault_eq {s : State} {c : Nat} {v : Ctx} {f : FaultRec} (h : s.ctxs.get? c = some v)
    (hf : v.faults.find? (fun f => f.fid.isNone) = some f) (hroom : v.room .fault = true) : writeWaitingFault c s = Act.all [
      storeBytes v.detailAt (f.block s), writeRecord c .fault (f.headNow s + v.fqpi.toNat * 2 ^ 160),
      updCtx c fun c' => { c' with faults := (c'.faults.map fun g => if g.num = f.num then { g with fid := some v.fqpi } else g).filter fun g =>
        g.num != f.num || g.cmd.isSome || !g.held.isEmpty }] s := by
  simp only [writeWaitingFault, h, hf, hroom, Bool.not_true, Bool.false_eq_true, if_false]
  rfl

theorem after_writeWaitingFault {s : State} {c : Nat} {v : Ctx} {f : FaultRec} (h : s.ctxs.get? c = some v)
    (hf : v.faults.find? (fun f => f.fid.isNone) = some f) (hroom : v.room .fault = true) : s.after (writeWaitingFault c) =
      { s with mem := s.recordMem v f, ctxs := s.ctxs.set c { v.bump .fault with faults := f.opened v } } := by
  have hfaults : (v.bump .fault).faults = v.faults := (congrArg Ctx.faults (faults_bump_fault v v.faults) :)
  have hhead (m : List Host.Cell) : (({ s with mem := m } : State).after (writeRecord c .fault (f.headNow s + v.fqpi.toNat * 2 ^ 160))).after
      (updCtx c fun c' => { c' with faults := (c'.faults.map fun g => if g.num = f.num then { g with fid := some v.fqpi } else g).filter fun g =>
        g.num != f.num || g.cmd.isSome || !g.held.isEmpty }) =
      { s with mem := (({ s with mem := m } : State).after (storeBytes v.headAt (bytesLE 64 (f.headNow s + v.fqpi.toNat * 2 ^ 160)))).mem,
               ctxs := s.ctxs.set c { v.bump .fault with faults := f.opened v } } := by
    have hat : (v.ring .fault).1 + (v.ring .fault).2.2.1.toNat % 2 ^ (v.ring .fault).2.1 * 64 = v.headAt := rfl
    rw [after_writeRecord { s with mem := m } c v .fault _ h, hat, after_updCtx _ c _ (v.bump .fault) (Map.get?_set_self _ _ _), Map.set_set, hfaults,
      FaultRec.opened]
  rw [after_eq, writeWaitingFault_eq h hf hroom, ← after_eq, recordMem_eq, after_all_cons, after_all_cons, after_all_cons, after_all_nil,
    after_storeBytes_frame s v.detailAt, hhead]

theorem after_writeWaitingFault_of_full {s : State} {c : Nat} {v : Ctx} (h : s.ctxs.get? c = some v) (hroom : v.room .fault = false) :
    s.after (writeWaitingFault c) = s := by
  apply after_of_nil
  simp only [writeWaitingFault, h, hroom]
  split <;> rfl

theorem mem_after_storeBytes_congr {s t : State} (hmem : t.mem = s.mem) (hdev : t.dev = s.dev) (key : Nat) (bs : List Byte) :
    (t.after (storeBytes key bs)).mem = (s.after (storeBytes key bs)).mem := by
  have hphys : t.phys = s.phys := by funext k; simp only [State.phys, hdev]
  rw [after_storeBytes, after_storeBytes, hphys, hmem]

/-- What a record writes depends on memory, on where it lies, on which lanes are gone and on the ring alone. -/
theorem recordMem_congr {s t : State} {v w : Ctx} (hmem : t.mem = s.mem) (hdev : t.dev = s.dev) (hgone : t.gone = s.gone)
    (hdetail : w.detailAt = v.detailAt) (hhead : w.headAt = v.headAt) (hpi : w.fqpi = v.fqpi) (f : FaultRec) :
    t.recordMem w f = s.recordMem v f := by
  have hblock : f.block t = f.block s := by simp only [FaultRec.block, FaultRec.detailNow, hgone]
  have hnow : f.headNow t = f.headNow s := by simp only [FaultRec.headNow, hgone]
  rw [recordMem_eq, recordMem_eq, hdetail, hhead, hpi, hblock, hnow]
  refine mem_after_storeBytes_congr (mem_after_storeBytes_congr hmem hdev _ _) ?_ _ _
  rw [after_storeBytes, after_storeBytes]
  exact hdev

/-! ### What a record holds in memory -/

theorem getElem?_flatMap_of_length {α β : Type} {f : α → List β} {n : Nat} (hlen : ∀ x, (f x).length = n) (xs : List α) (i : Nat) {j : Nat} (hj : j < n) :
    (xs.flatMap f)[n * i + j]? = xs[i]?.bind fun x => (f x)[j]? := by
  induction xs generalizing i with
  | nil => simp
  | cons x xs ih =>
    rw [List.flatMap_cons]
    cases i with
    | zero => rw [Nat.mul_zero, Nat.zero_add, List.getElem?_append_left (by rw [hlen]; exact hj)]; rfl
    | succ i =>
      have hshift : n * (i + 1) + j - n = n * i + j := by rw [Nat.mul_succ]; omega
      rw [List.getElem?_append_right (by rw [hlen, Nat.mul_succ]; omega), hlen, hshift, ih]
      rfl

theorem length_block (f : FaultRec) (s : State) : (f.block s).length = 1024 := by
  rw [FaultRec.block, List.length_flatMap, List.map_congr_left (g := fun _ => 16)]
  · rfl
  · intro n _
    split <;> rw [bytesLE_length]

/-- A detail slot stands at its number among those of the block. -/
theorem getElem?_block {f : FaultRec} {s : State} {d : Nat × DWord × Nat} (hd : d ∈ f.detailNow s) (hslot : d.1 < 64)
    (hnodup : ((f.detailNow s).map (·.1)).Nodup) {i : Nat} (hi : i < 16) :
    (f.block s)[16 * d.1 + i]? = (bytesLE 16 (d.2.1.toNat + d.2.2 * 2 ^ 64))[i]? := by
  have hfind : (f.detailNow s).find? (fun x => x.1 == d.1) = some d := by
    obtain ⟨e, he⟩ := Option.isSome_iff_exists.1 ((List.find?_isSome (p := fun x => x.1 == d.1)).2 ⟨d, hd, beq_self_eq_true d.1⟩)
    have hp := List.find?_some he
    have hkey : e.1 = d.1 := eq_of_beq hp
    rw [he, List.inj_on_of_nodup_map hnodup (List.mem_of_find?_eq_some he) hd hkey]
  rw [FaultRec.block, getElem?_flatMap_of_length (n := 16) (fun n => by split <;> rw [bytesLE_length]) _ _ hi, List.getElem?_range hslot,
    Option.bind_some, hfind]

/-- The head lies in the ring, and the details behind it. -/
theorem headAt_add_le_detailAt (v : Ctx) : v.headAt + 64 ≤ v.detailAt := by
  have hslot : v.fqpi.toNat % 2 ^ v.fqs.toNat < 2 ^ v.fqs.toNat := Nat.mod_lt _ (by positivity)
  unfold Ctx.headAt Ctx.detailAt
  omega

theorem bytes_with_mem {s t : State} (hs : s.dev.moved = []) (ht : t.dev.moved = []) : ({ s with mem := t.mem } : State).bytes = t.bytes := by
  have hbyte : ({ s with mem := t.mem } : State).byte = t.byte := by
    funext a
    rw [State.byte, State.byte, phys_id t ht, phys_id { s with mem := t.mem } hs]
  unfold State.bytes
  rw [hbyte]

section Written

variable {s : State} {v : Ctx} {f : FaultRec} (hwf : Memory.wf s.mem) (hmoved : s.dev.moved = [])

include hmoved

/-- Where nothing has been migrated, a store leaves it so. -/
theorem moved_after_storeBytes (key : Nat) (bs : List Byte) : (s.after (storeBytes key bs)).dev.moved = [] := by
  rw [after_storeBytes]
  exact hmoved

include hwf

theorem bytes_recordMem_head : ({ s with mem := s.recordMem v f } : State).bytes v.headAt 64 = bytesLE 64 (f.headNow s + v.fqpi.toNat * 2 ^ 160) := by
  have hblock := moved_after_storeBytes hmoved v.detailAt (f.block s)
  rw [recordMem_eq, bytes_with_mem hmoved (moved_after_storeBytes hblock _ _)]
  have hread := (storedBytesReadBack _ v.headAt (bytesLE 64 (f.headNow s + v.fqpi.toNat * 2 ^ 160)) (after_memWf _ _ hwf) hblock).1
  rwa [bytesLE_length] at hread

theorem bytes_recordMem_detail {d : Nat × DWord × Nat} (hd : d ∈ f.detailNow s) (hslot : d.1 < 64) (hnodup : ((f.detailNow s).map (·.1)).Nodup) :
    ({ s with mem := s.recordMem v f } : State).bytes (v.detailAt + 16 * d.1) 16 = bytesLE 16 (d.2.1.toNat + d.2.2 * 2 ^ 64) := by
  have hblock := moved_after_storeBytes hmoved v.detailAt (f.block s)
  have hbehind := headAt_add_le_detailAt v
  rw [recordMem_eq, bytes_with_mem hmoved (moved_after_storeBytes hblock _ _)]
  refine List.ext_getElem (by simp [State.bytes]) fun i hi _ => ?_
  have hi16 : i < 16 := by simpa [State.bytes] using hi
  have hin : 16 * d.1 + i < (f.block s).length := by rw [length_block]; omega
  have hslotByte := getElem?_block hd hslot hnodup hi16
  rw [List.getElem?_eq_getElem hin, List.getElem?_eq_getElem (by simpa using hi16)] at hslotByte
  simp only [State.bytes, List.getElem_map, List.getElem_range]
  rw [byte_after_storeBytes_outside (after_memWf _ _ hwf) hblock _ _ _ (by rw [bytesLE_length]; omega), Nat.add_assoc,
    byte_after_storeBytes_at hwf hmoved _ _ _ hin]
  exact Option.some.inj hslotByte

theorem read_recordMem_outside {a : Nat} (hhead : a < v.headAt ∨ v.headAt + 64 ≤ a) (hdetail : a < v.detailAt ∨ v.detailAt + 1024 ≤ a) :
    Memory.read (s.recordMem v f) a = Memory.read s.mem a := by
  have hblock := moved_after_storeBytes hmoved v.detailAt (f.block s)
  rw [recordMem_eq, byte_storeBytes_ne _ (after_memWf _ _ hwf), byte_storeBytes_ne _ hwf]
  · intro i hi
    rw [phys_id _ hmoved]
    rw [length_block] at hi
    omega
  · intro i hi
    rw [phys_id _ hblock]
    rw [bytesLE_length] at hi
    omega

end Written

/-- A field of a number that is taken away leaves 0. -/
theorem sub_field_div_mod (h k m : Nat) : (h - h / 2 ^ k % m * 2 ^ k) / 2 ^ k % m = 0 := by
  have hk := Nat.two_pow_pos k
  generalize 2 ^ k = n at hk ⊢
  have hlow := Nat.mod_lt h hk
  have hn := Nat.div_add_mod h n
  have hm := Nat.div_add_mod (h / n) m
  generalize h % n = r at hn hlow
  generalize h / n = y at hn hm ⊢
  generalize y / m = q at hm
  generalize y % m = x at hm ⊢
  have hsub : h - x * n = n * (m * q) + r := by
    rw [← hn, ← hm, Nat.mul_add, Nat.mul_comm n x]
    omega
  rw [hsub, Nat.mul_add_div hk, Nat.div_eq_of_lt hlow, Nat.add_zero, Nat.mul_mod_right]

/-- The head of a record whose issuer has exited: MASK is 0 and IEX is 1 (R388). -/
theorem headNow_of_gone {f : FaultRec} {s : State} (h : f.issuer.any s.gone = true) :
    f.headNow s / 2 ^ 320 % 2 ^ 64 = 0 ∧ (f.headNow s).testBit 15 = true := by
  have hnow : f.headNow s = (f.head.toNat - f.head.toNat / 2 ^ 320 % 2 ^ 64 * 2 ^ 320) ||| 2 ^ 15 := by
    simp only [FaultRec.headNow, h, if_true, bits]
  have hlt : 15 < 320 := by decide
  have hiex := Nat.div_eq_of_lt (Nat.pow_lt_pow_right Nat.one_lt_two hlt)
  rw [hnow]
  constructor
  · rw [← Nat.shiftRight_eq_div_pow, Nat.shiftRight_or_distrib, Nat.shiftRight_eq_div_pow, Nat.shiftRight_eq_div_pow, hiex, Nat.or_zero]
    generalize 320 = k
    exact sub_field_div_mod f.head.toNat k (2 ^ 64)
  · rw [Nat.testBit_or, Nat.testBit_two_pow_self, Bool.or_true]

/-! ### Fault records of one lane -/

/-- Lane `k` fault-parks, held by a new record `f` of context `c` that waits to be written. -/
def State.parkedBy (s : State) (k : LaneId) (l : Lane) (c : Nat) (v : Ctx) (f : FaultRec) : State := { s with
  fresh := s.fresh + 1, lanes := s.lanes.set k (l.stopped s.fresh), ctxs := s.ctxs.set c { v with faults := v.faults ++ [f] } }

theorem after_faultRecord_one {s : State} {k : LaneId} {l : Lane} {c : Nat} {v : Ctx} (hl : s.lanes.get? k = some l) (hc : s.ctxOf k = c)
    (hv : s.ctxs.get? c = some v) (kind aux : Nat) {cause : Nat} (hcause : cause < 256) (addr : DWord) :
    s.after (faultRecord kind aux [⟨k, cause, addr⟩]) = (s.parkedBy k l c v {
        num := s.fresh, fid := none, kind := kind, gang := s.gangOf k, wg := k.wg, held := [(k, s.slot k, addr, cause)], pc := l.pc, cmd := none,
        head := faultHead s k.wg (s.pslot k) kind cause aux addr (2 ^ s.slot k) l.pc false, detail := [(s.slot k, addr, cause)],
        issuer := none, cycle := s.now }).after (writeWaitingFault c) := by
  have hmin : Nat.min 255 cause = cause := Nat.min_eq_right (by omega)
  have hpc : s.pcOf k = l.pc := by simp only [State.pcOf, hl]
  rw [after_eq]
  simp only [faultRecord, List.mergeSort_singleton, List.map_cons, List.map_nil, List.foldl_cons, List.foldl_nil, hmin, hpc, hc, Nat.zero_add]
  rw [← after_eq, after_fresh, after_all_cons, after_each_cons, after_each_nil, after_updLane { s with fresh := s.fresh + 1 } k _ l hl, after_all_cons,
    after_updCtx { s with fresh := s.fresh + 1, lanes := _ } c _ v hv, after_all_cons, after_all_nil]
  rfl

/-- The record `g` of a context once it is written under the FID `n`. -/
def FaultRec.withFid (g : FaultRec) (n : Word) : FaultRec := { g with fid := some n }

section ParkedBy

variable {s : State} {k : LaneId} {l : Lane} {c : Nat} {v : Ctx} {f : FaultRec}

theorem get?_ctxs_parkedBy : (s.parkedBy k l c v f).ctxs.get? c = some { v with faults := v.faults ++ [f] } := Map.get?_set_self _ _ _

theorem gone_parkedBy (hl : s.lanes.get? k = some l) : (s.parkedBy k l c v f).gone = s.gone := by
  funext j
  by_cases h : j = k
  · subst h
    simp only [State.gone, State.parkedBy, Map.get?_set_self, hl]
    rfl
  · simp only [State.gone, State.parkedBy, Map.get?_set_ne _ _ h]

theorem recordMem_parkedBy (hl : s.lanes.get? k = some l) (g : FaultRec) :
    (s.parkedBy k l c v f).recordMem { v with faults := v.faults ++ [f] } g = s.recordMem v g := by
  have hmem : (s.parkedBy k l c v f).mem = s.mem := rfl
  have hdev : (s.parkedBy k l c v f).dev = s.dev := rfl
  have hdetail : ({ v with faults := v.faults ++ [f] } : Ctx).detailAt = v.detailAt := by simp only [Ctx.detailAt]
  have hhead : ({ v with faults := v.faults ++ [f] } : Ctx).headAt = v.headAt := by simp only [Ctx.headAt]
  exact recordMem_congr hmem hdev (gone_parkedBy hl) hdetail hhead rfl g

/-- With room in the ring the oldest record that waits is written, the new one or an earlier one. -/
theorem after_writeWaitingFault_parkedBy (hl : s.lanes.get? k = some l) (hroom : v.room .fault = true) {g : FaultRec}
    (hg : (v.faults ++ [f]).find? (fun g => g.fid.isNone) = some g) : (s.parkedBy k l c v f).after (writeWaitingFault c) = { s with
      fresh := s.fresh + 1, lanes := s.lanes.set k (l.stopped s.fresh), mem := s.recordMem v g,
      ctxs := s.ctxs.set c { v.bump .fault with faults := g.opened { v with faults := v.faults ++ [f] } } } := by
  rw [after_writeWaitingFault (v := { v with faults := v.faults ++ [f] }) get?_ctxs_parkedBy hg hroom, recordMem_parkedBy hl, faults_bump_fault,
    State.parkedBy, Map.set_set]

/-- The new record opens as it is written. -/
theorem opened_new (hnum : ∀ g ∈ v.faults, g.num < f.num) (hheld : f.held ≠ []) :
    f.opened { v with faults := v.faults ++ [f] } = v.faults ++ [f.withFid v.fqpi] := by
  have hne : ∀ g ∈ v.faults, g.num ≠ f.num := fun g hg => (hnum g hg).ne
  have hmap : v.faults.map (fun g => if g.num = f.num then { g with fid := some v.fqpi } else g) = v.faults :=
    (List.map_congr_left fun g hg => if_neg (hne g hg)).trans (List.map_id _)
  have hfilter : v.faults.filter (fun g => g.num != f.num || g.cmd.isSome || !g.held.isEmpty) = v.faults :=
    List.filter_eq_self.2 fun g hg => by simp [hne g hg]
  rw [FaultRec.opened, List.map_append, List.filter_append, hmap, hfilter]
  simp [hheld, FaultRec.withFid]

/-- An earlier one opens, or closes, and the new one waits. -/
theorem opened_earlier (hnum : ∀ g ∈ v.faults, g.num < f.num) {g : FaultRec} (hg : g ∈ v.faults) :
    g.opened { v with faults := v.faults ++ [f] } = g.opened v ++ [f] := by
  have hne : f.num ≠ g.num := (hnum g hg).ne'
  rw [FaultRec.opened, FaultRec.opened, List.map_append, List.filter_append]
  simp [hne]

end ParkedBy

/-! ### RING_RECORD_WRITE -/

theorem after_stepRing_completion {s : State} {c : Nat} {v : Ctx} (hv : s.ctxs.get? c = some v) {x : BitVec 512} {rest : List (BitVec 512)}
    (hwait : v.cwait = x :: rest) (hroom : v.room .completion = true) : s.after (stepRing c .completion) = { s with
      mem := (s.after (storeBytes (v.cqb.toNat + v.cqpi.toNat % 2 ^ v.cqs.toNat * 64) (bytesLE 64 x.toNat))).mem,
      ctxs := s.ctxs.set c (Ctx.bump { v with cwait := rest } .completion) } := by
  have hmeans : stepRing c .completion s =
      Act.all [updCtx c fun c => { c with cwait := rest }, writeRecord c .completion x.toNat] s := by
    simp only [stepRing, hv, hwait, hroom, Bool.not_true, Bool.false_eq_true, if_false]
  have hat : (({ v with cwait := rest } : Ctx).ring .completion).1 + (({ v with cwait := rest } : Ctx).ring .completion).2.2.1.toNat %
      2 ^ (({ v with cwait := rest } : Ctx).ring .completion).2.1 * 64 = v.cqb.toNat + v.cqpi.toNat % 2 ^ v.cqs.toNat * 64 := rfl
  rw [after_eq, hmeans, ← after_eq, after_all_cons, after_all_cons, after_all_nil, after_updCtx _ _ _ _ hv,
    after_writeRecord _ c { v with cwait := rest } .completion _ (Map.get?_set_self _ _ _), Map.set_set,
    mem_after_storeBytes_congr (s := s) (t := { s with ctxs := s.ctxs.set c { v with cwait := rest } }) rfl rfl, hat]

theorem after_stepRing_fault (s : State) (c : Nat) : s.after (stepRing c .fault) = s.after (writeWaitingFault c) := rfl

/-! ### Headgates, banks and migration -/

/-- Only a whole aligned record to an enabled queue of an open context that has room is taken (R334). -/
theorem after_stepHeadgate (s : State) {q off : Nat} (bs : List Byte) (hq : q < 2048) (hoff : off < 4096) :
    let w := s.wq q
    let lost : State := { s with queues := s.queues.set q { w with drops := w.drops + 1 } }
    s.after (stepHeadgate q off bs) =
      if bs.length ≠ 64 ∨ off % 64 ≠ 0 ∨ w.en = false then
        (if s.isOpen w.ctx then lost.after (writeError { ecode := 0x29, ctx := w.ctx, cnt := q }) else lost)
      else if s.isOpen w.ctx = false then lost
      else if w.recs.length < w.depth then { s with queues := s.queues.set q { w with recs := w.recs ++ [(BitVec.ofNat 512 (natLE bs), [])] } }
      else lost.after (writeError { ecode := 0x28, ctx := w.ctx, cnt := q }) := by
  intro w lost
  have hrange : ¬ (2048 ≤ q ∨ 4096 ≤ off) := by omega
  rw [after_eq]
  have hdrop (a : Act) : s.after (Act.all [fun t => [.queue q (some { t.wq q with drops := (t.wq q).drops + 1 })], a]) = lost.after a := by
    rw [after_all_cons, after_all_cons, after_all_nil]
    rfl
  simp only [stepHeadgate, hrange, if_false, Bool.not_eq_true']
  split
  · rw [← after_eq, hdrop, after_when]
  · next hgood =>
    have hen : w.en = true := by simp only [not_or, Bool.not_eq_false] at hgood; exact hgood.2.2
    split
    · rfl
    · next hopen =>
      simp only [WQ.room, hen, w, Bool.true_and, decide_eq_false_iff_not]
      by_cases hroom : (s.wq q).recs.length < (s.wq q).depth
      · simp only [hroom, if_true, not_true_eq_false, if_false]
        rfl
      · simp only [hroom, if_false, not_false_eq_true, if_true]
        rw [← after_eq, hdrop, after_when]
        rw [if_pos (Bool.eq_true_of_not_eq_false hopen)]

theorem after_stepDrainDone {s : State} {cl bank : Nat} {d : Drain} (hd : (s.cluster cl).drains.find? (fun d => d.bank == bank) = some d)
    (hclean : ∀ l ∈ (s.cluster cl).l1, l.bank = bank → ∀ b ∈ l.bytes, b.2.dirty = false) :
    s.after (stepDrainDone cl bank) = ({ s with clusters := s.clusters.set cl { s.cluster cl with
        l1 := (s.cluster cl).l1.filter (fun l => l.bank != bank), drains := (s.cluster cl).drains.filter (fun x => x.bank != bank),
        banks := (s.cluster cl).banks.set bank d.mode } } : State).after
      (Act.opt d.res fun r => updLane d.lane fun l => l.resolve r.1 (if r.2 < 256 then [(r.2, 0)] else [])) := by
  have hnone : ((s.cluster cl).l1.filter fun l => l.bank == bank && l.bytes.any fun b => b.2.dirty) = [] := by
    refine List.filter_eq_nil_iff.2 fun l hl => ?_
    simpa using hclean l hl
  rw [after_eq]
  simp only [stepDrainDone, hd, hnone, List.any_nil, Bool.false_eq_true, if_false, List.isEmpty_nil, Bool.not_true]
  rw [← after_eq, after_all_cons, after_all_cons, after_all_nil, after_updCluster]
  rfl

theorem after_stepMigrateStart {s : State} {old new : Nat} (hne : old ≠ new) (hfree : ∀ p, p = old ∨ p = new →
      p * 65536 / 2 ^ 44 = s.dev.devno.toNat ∧ backed (p * 65536 % 2 ^ 44) = true ∧ p * 65536 % 2 ^ 44 < 0xF0000000000 ∧
        (∀ m ∈ s.dev.migrating, m.1 ≠ p ∧ m.2 ≠ p) ∧ ∀ m ∈ s.dev.moved, m.1 ≠ p) :
    s.after (stepMigrateStart old new) = { s with dev := { s.dev with migrating := s.dev.migrating ++ [(old, new)] } } := by
  have hown (p : Nat) (hp : p = old ∨ p = new) :
      (decide (p * 65536 / 2 ^ 44 = s.dev.devno.toNat) && backed (p * 65536 % 2 ^ 44) && decide (p * 65536 % 2 ^ 44 < controlBase)) = true := by
    obtain ⟨hdev, hbacked, hlow, -, -⟩ := hfree p hp
    simp only [hdev, hbacked, decide_true, Bool.true_and]
    exact decide_eq_true hlow
  have hunused (p : Nat) (hp : p = old ∨ p = new) : (s.dev.migrating.any (fun m => m.1 == p || m.2 == p) || s.dev.moved.any fun m => m.1 == p) = false := by
    obtain ⟨-, -, -, hmigrating, hmoved⟩ := hfree p hp
    simpa using ⟨fun a b h => hmigrating (a, b) h, fun a b h => hmoved (a, b) h⟩
  rw [after_eq]
  simp only [stepMigrateStart, hown old (.inl rfl), hown new (.inr rfl), hunused old (.inl rfl), hunused new (.inr rfl), decide_eq_true hne, Bool.not_false,
    Bool.and_self, if_true]
  rfl

theorem dev_applyAll_bytes (cs : List Host.Cell) (f : Host.Cell → Nat) (g : Host.Cell → Byte) (s : State) :
    (applyAll (cs.map fun c => .byte (f c) (g c)) s).dev = s.dev := by
  induction cs generalizing s with
  | nil => rfl
  | cons c cs ih => exact ih (Upd.apply s (.byte (f c) (g c)))

/-- A copy moves bytes and poison, and no note of migrations. -/
theorem copyPiece_keeps (old new : Nat) (s : State) : (s.after (copyPiece old new)).dev.migrating = s.dev.migrating ∧
    (s.after (copyPiece old new)).dev.moved = s.dev.moved := by
  rw [after_eq, copyPiece, ← after_eq, after_all_cons, after_all_cons, after_all_cons, after_all_nil, after_const, after_const, after_updDev]
  simp only [dev_applyAll_bytes, and_self]

section Ends

variable {s : State} {old new : Nat} (hmoves : s.dev.migrating.find? (fun m => m.1 == old) = some (old, new))

include hmoves

theorem after_stepMigrateEnd (done : Bool) : s.after (stepMigrateEnd old done) = s.after (Act.all [
    Act.when done (copyPiece old new),
    updDev fun d => { d with
      migrating := d.migrating.filter fun x => x.1 != old,
      moved := if done then (d.moved.map fun x => if x.2 = old then (x.1, new) else x) ++ [(old, new)] else d.moved },
    releaseHeld (s.heldOn old) (s.heldSluices old)]) := by
  rw [after_eq, after_eq]
  simp only [stepMigrateEnd, hmoves]

theorem after_stepMigrateEnd_aborted : s.after (stepMigrateEnd old false) = ({ s with dev := { s.dev with
    migrating := s.dev.migrating.filter fun x => x.1 != old } } : State).after (releaseHeld (s.heldOn old) (s.heldSluices old)) := by
  rw [after_stepMigrateEnd hmoves, after_all_cons, after_all_cons, after_all_cons, after_all_nil, after_when, after_updDev]
  rfl

theorem after_stepMigrateEnd_done : s.after (stepMigrateEnd old true) = ({ s.after (copyPiece old new) with dev := { (s.after (copyPiece old new)).dev with
      migrating := s.dev.migrating.filter fun x => x.1 != old,
      moved := (s.dev.moved.map fun x => if x.2 = old then (x.1, new) else x) ++ [(old, new)] } } : State).after
        (releaseHeld (s.heldOn old) (s.heldSluices old)) := by
  obtain ⟨hmigrating, hmoved⟩ := copyPiece_keeps old new s
  rw [after_stepMigrateEnd hmoves, after_all_cons, after_all_cons, after_all_cons, after_all_nil, after_when, after_updDev]
  simp only [if_true, hmigrating, hmoved]

end Ends

end Sys2Proof.Machine

namespace Sys2Proof

open Machine

/-- Settles O49: the step drops the bank's lines and its entry among the drains (`after_stepDrainDone`); a result register, where there is one, reads 0. -/
theorem banksSwitchMode : Obligations.BanksSwitchMode := by
  unfold Obligations.BanksSwitchMode
  intro s cl bank d hd hclean switched t
  have hafter := after_stepDrainDone hd hclean
  refine ⟨fun hres => run_of_after ?_, fun res reg l hres hl => run_of_after ?_⟩
  · rw [hafter, hres, after_opt_none]
  · rw [hafter, hres, after_opt_some, after_updLane t _ _ l hl]
    rfl

/-- Settles O29: one equation for the write, by the queue, the record and the room (`after_stepHeadgate`). -/
theorem headgateTakesWholeRecords : Obligations.HeadgateTakesWholeRecords := by
  unfold Obligations.HeadgateTakesWholeRecords
  intro s q off bs hup hq hoff
  exact run_ifUp_of_after hup (after_stepHeadgate s bs hq hoff)

/-- Settles O46: a start marks the piece; an abort and an end leave the map of pieces as it was or with the new one, and then what was held goes on. -/
theorem piecesMove : Obligations.PiecesMove := by
  unfold Obligations.PiecesMove
  intro s old new
  refine ⟨fun hup hne hfree => run_ifUp_of_after hup (after_stepMigrateStart hne hfree), fun hmoves => ⟨run_of_after ?_, run_of_after ?_⟩⟩
  · exact after_stepMigrateEnd_aborted hmoves
  · exact after_stepMigrateEnd_done hmoves

/-- Settles O26: each record kind by its room in the ring; the bytes of a fault record are those that the stores of its head and its details leave
(`recordMem`), which touch no other byte. -/
theorem recordsAreWritten : Obligations.RecordsAreWritten := by
  unfold Obligations.RecordsAreWritten
  refine ⟨fun s c v hv => ⟨?_, fun n => after_writeCompletion hv n, fun r => ⟨irqs_bump v r, ring_bump v r⟩⟩, fun s c v hv => ?_⟩
  · rintro e rfl
    exact after_writeError hv
  · refine ⟨fun x rest hwait hroom => run_of_after (after_stepRing_completion hv hwait hroom), fun f hf hroom => ⟨?_, fun hwf hmoved => ?_⟩, ?_, ?_,
      run_of_after rfl⟩
    · have hwritten := after_writeWaitingFault hv hf hroom
      rw [← after_stepRing_fault, FaultRec.opened] at hwritten
      exact run_of_after hwritten
    · dsimp only
      rw [← Ctx.headAt, ← Ctx.detailAt]
      exact ⟨bytes_recordMem_head hwf hmoved, fun d hd hslot hnodup => bytes_recordMem_detail hwf hmoved hd hslot hnodup,
        fun a hout houtDetail => read_recordMem_outside (s := s) (v := v) (f := f) hwf hmoved hout houtDetail⟩
    · intro f h
      simp only [FaultRec.headNow, FaultRec.detailNow, h]
      exact ⟨rfl, rfl⟩
    · intro f h
      obtain ⟨hmask, hiex⟩ := headNow_of_gone h
      exact ⟨hmask, hiex, if_pos h⟩

/-- Settles O33: the lane is parked under a new record (`State.parkedBy`), and then the oldest record that waits, that one or an earlier one, is
written where the ring has room. -/
theorem faultRecordParksLane : Obligations.FaultRecordParksLane := by
  unfold Obligations.FaultRecordParksLane
  intro s k l c v kind aux cause addr hl hc hv hnums hcause f t
  have hparks : s.after (faultRecord kind aux [⟨k, cause, addr⟩]) = (s.parkedBy k l c v f).after (writeWaitingFault c) :=
    after_faultRecord_one hl hc hv kind aux hcause addr
  rw [hparks]
  refine ⟨fun hroom hnone => ?_, fun g hroom hg => ?_, fun hroom => ?_⟩
  · have hfind : (v.faults ++ [f]).find? (fun g => g.fid.isNone) = some f := by
      rw [List.find?_append, List.find?_eq_none.2 (by simpa using hnone)]
      rfl
    rw [after_writeWaitingFault_parkedBy hl hroom hfind, opened_new hnums (List.cons_ne_nil _ _)]
    rfl
  · have hfind : (v.faults ++ [f]).find? (fun g => g.fid.isNone) = some g := by rw [List.find?_append, hg]; rfl
    rw [after_writeWaitingFault_parkedBy hl hroom hfind, opened_earlier hnums (List.mem_of_find?_eq_some hg), FaultRec.opened]
    rfl
  · exact after_writeWaitingFault_of_full get?_ctxs_parkedBy hroom

end Sys2Proof
end

section
/-! PROOFS. Links (R431, R432), and errors and repair (R402, R433, R434): what each step leaves. -/

namespace Sys2Proof.Machine

open Sys2Proof

/-! ### Links -/

section Links

variable {s : State} {n : Nat} (hn : n < 18)

include hn

/-- A failure of a link that is up is the first of its flit or follows those before it; the 17th takes the link down. -/
theorem after_stepFlit (hup : (s.link n).up = true) : ∃ r, (r = 1 ∨ r = (s.link n).resends + 1) ∧ s.after (stepFlit n) =
    if r < 17 then { s with links := s.links.set n { s.link n with resends := r } }
    else ({ s with links := s.links.set n { s.link n with up := false, resends := 0, cleanSince := none, triedAt := s.now } } : State).after
      (writeLog 0x06 n) := by
  have hmem := choose_mem s n ((s.link n).resends + 1) (xs := [(s.link n).resends + 1, 1]) (by simp)
  let r := s.choose n ((s.link n).resends + 1) [(s.link n).resends + 1, 1]
  refine ⟨r, ?_, ?_⟩
  · simpa [or_comm] using hmem
  · have hmeans : stepFlit n s = if r < 17 then updLink n (fun l => { l with resends := r }) s else Act.all [
        updLink n fun l => { l with up := false, resends := 0, cleanSince := none, triedAt := s.now }, writeLog 0x06 n] s := by
      simp only [stepFlit, Nat.not_le.2 hn, if_false, hup, if_true]
      rfl
    rw [after_eq, hmeans]
    split
    · rfl
    · rw [← after_eq, after_all_cons, after_all_cons, after_all_nil, after_updLink]

theorem after_stepTraining (ok : Bool) (hdown : (s.link n).up = false) (huntrained : (s.link n).cleanSince = none)
    (hdue : (s.link n).triedAt + 1200000 ≤ s.now) : s.after (stepTraining n ok) = { s with
      links := s.links.set n { s.link n with triedAt := s.now, cleanSince := if ok then some s.now else none } } := by
  have hlate : ¬ s.now < (s.link n).triedAt + cyclesOf 1000 := Nat.not_lt.2 hdue
  have hmeans : stepTraining n ok s = updLink n (fun l => { l with triedAt := s.now, cleanSince := if ok then some s.now else none }) s := by
    simp only [stepTraining, Nat.not_le.2 hn, hdown, huntrained, hlate, decide_false, Option.isSome_none, Bool.or_self, Bool.false_eq_true, if_false]
  rw [after_eq, hmeans]
  rfl

theorem after_stepLinkUp {t : Nat} (hdown : (s.link n).up = false) (hclean : (s.link n).cleanSince = some t) (hdue : t + 120000 ≤ s.now) :
    s.after (stepLinkUp n) = ({ s with links := s.links.set n { s.link n with up := true, resends := 0, cleanSince := none } } : State).after
      (writeLog 0x07 n) := by
  have hlate : ¬ s.now < t + cyclesOf 100 := Nat.not_lt.2 hdue
  rw [after_eq]
  simp only [stepLinkUp, Nat.not_le.2 hn, hdown, hclean, hlate, decide_false, Bool.or_self, Bool.false_eq_true, if_false]
  rw [← after_eq, after_all_cons, after_all_cons, after_all_nil, after_updLink]

end Links

/-- How an access ends whose device cannot be reached (R432). -/
def loseAccess (line now : Nat) (a : Access) (lost : Act) : Act := match a.op with
  | .load _ _ _ | .rmw _ _ _ _ (some _) => consumePoison a (now + 1) none
  | .prefetch => Act.skip
  | .snap dst n => Act.all [lost, storeBytes dst (List.replicate n 0)]
  | .unitRead u => Act.all [lost,
      let zeros : List Byte × Nat := (List.replicate 128 0, now + 1)
      match u with
      | .matrix core cmd => updCore core fun c => { c with mq := c.mq.map fun m =>
          if m.id = cmd then { m with got := m.got.set line zeros } else m }
      | .engine cl cmd slot => updCluster cl fun c => { c with cmds := c.cmds.map fun m =>
          if m.id = cmd then { m with got := m.got.set slot ((m.got.getD slot []).set line zeros) } else m }
      | _ => Act.skip]
  | _ => writePoison a

theorem after_stepRemoteTimeout {s : State} {r : Req} {d : Nat} (hr : s.reqs.find? (fun q => q.id == r.id) = some r) (hhome : r.home = .remote d)
    (hst : r.st = .held) (hreach : s.reach (.remote d) = false) (hdue : r.acceptedAt + 12000000 ≤ s.now) :
    s.after (stepRemoteTimeout r.id) = ({ s with reqs := s.reqs.filter fun q => q.id != r.id } : State).after
      (Act.each r.acc fun a => loseAccess r.line s.now a (writeError (s.errOf a.lane 0x01 a.pc.toNat a.va.toNat))) := by
  have hlong : s.tooLong r.acceptedAt = true := decide_eq_true hdue
  rw [after_eq]
  simp only [stepRemoteTimeout, hr, hhome, hst, hreach, hlong, Bool.not_true, Bool.or_self, Bool.false_eq_true, if_false, bne_self_eq_false]
  rw [← after_eq, after_all_cons, after_all_cons, after_all_nil, after_updReqs]
  congr 1
  refine each_congr fun a _ => ?_
  cases hop : a.op with
  | rmw op t x y res => cases res <;> simp [loseAccess, hop, AccOp.result]
  | unitRead u => cases u <;> simp [loseAccess, hop, AccOp.result]
  | _ => simp [loseAccess, hop, AccOp.result]

/-! ### Errors -/

theorem after_stepEcc {s : State} {line : Nat} (hmine : 2 ^ 54 ≤ line * 128 ∨
      line * 128 < 2 ^ 52 ∧ line * 128 / 2 ^ 44 = s.dev.devno.toNat ∧ line * 128 % 2 ^ 44 < 0x80000000000) (correctable : Bool) :
    s.after (stepEcc { line := line, correctable := correctable }) = { s with dev :=
      if correctable then { s.dev with correctable := s.dev.correctable ++ [line] }
      else { s.dev with poison := if line ∈ s.dev.poison then s.dev.poison else s.dev.poison ++ [line] } } := by
  have hhit : (decide (2 ^ 54 ≤ line * 128) || (decide (line * 128 < hostBase) && decide (line * 128 / 2 ^ 44 = s.dev.devno.toNat) &&
      decide (line * 128 % 2 ^ 44 < 0x80000000000))) = true := by
    obtain hhigh | ⟨hlow, hdev, hbacked⟩ := hmine
    · rw [decide_eq_true hhigh, Bool.true_or]
    · have hlow' : line * 128 < hostBase := hlow
      simp only [hlow', hdev, hbacked, decide_true, Bool.and_self, Bool.or_true]
  rw [after_eq]
  simp only [stepEcc, hhit, Bool.not_true, Bool.false_eq_true, if_false, List.contains_iff_mem]
  cases correctable <;> rfl

/-- A record of the log changes memory and the index of the log alone. -/
theorem after_writeLog_frame (s : State) (code unit : Nat) :
    ∃ m p, s.after (writeLog code unit) = { s with mem := m, dev := { s.dev with relPi := p } } := by
  by_cases hfull : s.dev.relSize = 0 ∨ 2 ^ s.dev.relSize.toNat ≤ (s.dev.relPi - s.dev.relCi).toNat
  · exact ⟨s.mem, s.dev.relPi, after_of_nil (if_pos hfull)⟩
  · obtain ⟨key, bs, hmeans⟩ : ∃ key bs, writeLog code unit s = Act.all [storeBytes key bs, updDev fun d => { d with relPi := d.relPi + 1 }] s :=
      ⟨_, _, if_neg hfull⟩
    refine ⟨(s.after (storeBytes key bs)).mem, s.dev.relPi + 1, ?_⟩
    rw [after_eq, hmeans, ← after_eq, after_all_cons, after_storeBytes_frame, after_all_cons, after_all_nil, after_updDev]

theorem after_countCorrected (s : State) (line : Nat) :
    let r := dramRow line
    let n := s.dev.corrected.getD r 0 + 1
    s.after (countCorrected line) = if n < 64 then { s with dev := { s.dev with corrected := s.dev.corrected.set r n } }
      else ({ s with dev := { s.dev with
        corrected := s.dev.corrected.set r 0,
        reported := if r.1 < 6 ∧ r ∉ s.dev.reported then s.dev.reported ++ [r] else s.dev.reported } } : State).after
          (writeLog 0x01 (line * 128 % 2 ^ 44)) := by
  intro r n
  rw [after_eq]
  simp only [countCorrected]
  split
  · rfl
  · rw [← after_eq, after_all_cons, after_all_cons, after_all_nil, after_updDev]

/-- Counting corrected errors leaves the marks of lines to the scrubber. -/
theorem correctable_after_countCorrected (s : State) (line : Nat) : (s.after (countCorrected line)).dev.correctable = s.dev.correctable := by
  rw [after_countCorrected]
  split
  · rfl
  · obtain ⟨m, p, hlog⟩ := after_writeLog_frame { s with dev := _ } 0x01 (line * 128 % 2 ^ 44)
    rw [hlog]

theorem correctable_after_each_countCorrected (lines : List Nat) (s : State) :
    (s.after (Act.each lines countCorrected)).dev.correctable = s.dev.correctable := by
  induction lines generalizing s with
  | nil => rfl
  | cons line lines ih => rw [after_each_cons, ih, correctable_after_countCorrected]

theorem after_stepScrub (s : State) {count : Nat} (hcount : 0 < count) :
    let base := s.dev.devno.toNat * 2 ^ 37 + s.dev.scrubNext
    let hit (l : Nat) : Bool := decide (base ≤ l) && decide (l < base + count)
    let u := s.after (Act.each (s.dev.correctable.filter hit) countCorrected)
    s.after (stepScrub s.dev.scrubNext count) = { u with dev := { u.dev with
      correctable := s.dev.correctable.filter fun l => !hit l, scrubNext := scrubAfter (s.dev.scrubNext + count) } } := by
  intro base hit u
  have hmoves : ¬ (s.dev.scrubNext ≠ s.dev.scrubNext ∨ count = 0) := by omega
  have hmarks : u.dev.correctable = s.dev.correctable := correctable_after_each_countCorrected _ s
  rw [after_eq]
  simp only [stepScrub, hmoves, if_false]
  rw [← after_eq, after_all_cons, after_all_cons, after_all_nil, after_updDev]
  exact congrArg (fun ls => ({ u with dev := { u.dev with correctable := List.filter (fun l => !hit l) ls, scrubNext := scrubAfter (s.dev.scrubNext + count) } } : State)) hmarks

/-! ### Repair -/

theorem after_stepRepairStart_again {s : State} {die chan row : Nat} (hreported : (die, chan, row) ∈ s.dev.reported)
    (hagain : (die, chan, row) ∈ s.dev.softRepaired) : s.after (stepRepairStart die chan row) = ({ s with dev := { s.dev with
      reported := s.dev.reported.filter (· != (die, chan, row)), hardRepairs := s.dev.hardRepairs ++ [(die, chan, row)] } } : State).after
        (writeLog 0x04 (rowUnit (die, chan, row))) := by
  rw [after_eq]
  simp only [stepRepairStart, List.contains_iff_mem.2 hreported, List.contains_iff_mem.2 hagain, Bool.not_true, Bool.false_eq_true, if_false, if_true]
  rw [← after_eq, after_all_cons, after_all_cons, after_all_nil, after_updDev]

theorem slice_set (s : State) (n m : Nat) (c : Slice) :
    State.slice { s with slices := s.slices.set n c } m = if m = n then c else s.slice m := by
  split
  · next h => subst h; exact Map.getD_set_self s.slices m c Slice.init
  · next h => exact Map.getD_set_ne s.slices c Slice.init h

/-- Slices that differ, each changed once. -/
theorem slice_after_each_updSlice (f : Slice → Slice) (ns : List Nat) (hnodup : ns.Nodup) (s : State) (m : Nat) :
    (s.after (Act.each ns fun n => updSlice n f)).slice m = if m ∈ ns then f (s.slice m) else s.slice m := by
  induction ns generalizing s with
  | nil => rfl
  | cons n ns ih =>
    obtain ⟨hn, hns⟩ := List.nodup_cons.1 hnodup
    rw [after_each_cons, ih hns, after_updSlice, slice_set]
    by_cases hm : m = n
    · subst hm
      simp [hn]
    · simp [hm]

theorem slice_of_not_mem_keys {s : State} {n : Nat} (h : n ∉ Map.keys s.slices) : s.slice n = Slice.init := by
  have hnone : s.slices.get? n = none := by
    cases hget : s.slices.get? n with
    | none => rfl
    | some c => exact absurd (List.mem_map.2 ⟨_, Map.mem_of_get? hget, rfl⟩) h
  simp only [State.slice, Map.getD, hnone, Option.getD_none]

/-- L2HOLD of a slice counts the requests to DRAM that a repair holds as it starts (R272). -/
def Slice.holding (c : Slice) (held : Nat → Bool) : Slice :=
  { c with l2hold := c.l2hold + BitVec.ofNat 32 (c.dram.filter fun m => held m.line).length }

theorem after_stepRepairStart {s : State} {die chan row : Nat} (hreported : (die, chan, row) ∈ s.dev.reported)
    (hfirst : (die, chan, row) ∉ s.dev.softRepaired) (hfree : ∀ x ∈ s.dev.repairs, x.1 = die → x.2.1 % 4 ≠ chan % 4) (hnodup : s.slices.keys.Nodup) :
    let u := s.after (writeLog 0x02 (rowUnit (die, chan, row)))
    let v : State := { u with dev := { u.dev with
      reported := s.dev.reported.filter (· != (die, chan, row)), repairs := s.dev.repairs ++ [(die, chan, row, s.now)] } }
    let t := s.after (stepRepairStart die chan row)
    t = { v with slices := t.slices } ∧
      ∀ n, t.slice n = (s.slice n).holding fun line => !s.repairing line && v.repairing line := by
  intro u v t
  have hapart : (s.dev.repairs.any fun x => x.1 == die && x.2.1 % 4 == chan % 4) = false := by
    simpa using fun a b c d hx => hfree (a, b, c, d) hx
  have hmeans : stepRepairStart die chan row s = Act.all [
      writeLog 0x02 (rowUnit (die, chan, row)),
      updDev fun d => { d with reported := d.reported.filter (· != (die, chan, row)), repairs := d.repairs ++ [(die, chan, row, s.now)] },
      fun t => Act.each (t.slices.map (·.1)) (fun n => updSlice n fun c => c.holding fun line => !s.repairing line && t.repairing line) t] s := by
    simp only [stepRepairStart, List.contains_iff_mem.2 hreported, Bool.not_true, Bool.false_eq_true, if_false, List.contains_eq_mem, hfirst, decide_false, hapart]
    rfl
  obtain ⟨m, p, hlog⟩ := after_writeLog_frame s 0x02 (rowUnit (die, chan, row))
  have hu : u.slices = s.slices ∧ u.dev.reported = s.dev.reported ∧ u.dev.repairs = s.dev.repairs := by
    simp only [u, hlog, and_self]
  obtain ⟨hslices, hrows, hrepairs⟩ : v.slices = s.slices ∧ _ := hu
  have hv : u.after (updDev fun d => { d with
      reported := d.reported.filter (· != (die, chan, row)), repairs := d.repairs ++ [(die, chan, row, s.now)] }) = v := by
    rw [after_updDev, hrows, hrepairs]
  have ht : t = v.after (Act.each (Map.keys v.slices) fun n => updSlice n fun c => c.holding fun line => !s.repairing line && v.repairing line) := by
    rw [← hv]
    exact (after_eq s _).trans (by rw [hmeans, ← after_eq, after_all_cons, after_all_cons, after_all_cons, after_all_nil, after_fun, after_eq]; rfl)
  have hkeys : (Map.keys v.slices).Nodup := hslices ▸ hnodup
  rw [ht]
  refine ⟨after_each_updSlice_frame _ _ _ v, fun n => ?_⟩
  have hslice : v.slice n = s.slice n := by simp only [State.slice, hslices]
  rw [slice_after_each_updSlice _ _ hkeys, hslice]
  split
  · rfl
  · next hn =>
    rw [slice_of_not_mem_keys (hslices ▸ hn)]
    rfl

theorem after_stepRepairEnd {s : State} {die chan row t0 : Nat}
    (hrepair : s.dev.repairs.find? (fun x => x.1 == die && x.2.1 == chan) = some (die, chan, row, t0)) (hdue : t0 + 240000 ≤ s.now) :
    s.after (stepRepairEnd die chan) = (({ s with dev := { s.dev with
      repairs := s.dev.repairs.filter (· != (die, chan, row, t0)), softRepaired := s.dev.softRepaired ++ [(die, chan, row)] } } : State).after
        (writeLog 0x03 (rowUnit (die, chan, row)))).after serveDram := by
  have hlate : ¬ s.now < t0 + cyclesOf 200 := Nat.not_lt.2 hdue
  rw [after_eq]
  simp only [stepRepairEnd, hrepair, hlate, if_false]
  rw [← after_eq, after_all_cons, after_all_cons, after_all_cons, after_all_nil, after_updDev]

end Sys2Proof.Machine

namespace Sys2Proof

open Machine

/-- Settles O31: the flit, training and time-out steps each by one equation. -/
theorem linksGoDownAndUp : Obligations.LinksGoDownAndUp := by
  unfold Obligations.LinksGoDownAndUp
  refine ⟨fun s n hup hn => ⟨fun hlink => ?_, fun ok hdown huntrained hdue => ?_, fun t hdown hclean hdue => ?_⟩,
    fun s r d hr hhome hst hreach hdue => ?_⟩
  · obtain ⟨r, hr, hafter⟩ := after_stepFlit hn hlink
    exact ⟨r, hr, run_ifUp_of_after hup hafter⟩
  · exact run_ifUp_of_after hup (after_stepTraining hn ok hdown huntrained hdue)
  · exact run_ifUp_of_after hup (after_stepLinkUp hn hdown hclean hdue)
  · have hafter := after_stepRemoteTimeout hr hhome hst hreach hdue
    exact run_of_after hafter

/-- Settles O47: each error marks one line; a scrub corrects the marked lines row by row (`after_countCorrected`); a repair starts and ends with its record. -/
theorem errorsAndRepair : Obligations.ErrorsAndRepair := by
  unfold Obligations.ErrorsAndRepair
  intro s
  refine ⟨fun line hmine => ⟨run_of_after (after_stepEcc hmine true), run_of_after (after_stepEcc hmine false)⟩, fun line cl => run_of_after rfl,
    fun k l g hl hg => run_of_after ?_, fun core tile row hcore htile hrow => run_of_after ?_, fun count hup hcount => ⟨?_, ?_⟩,
    fun line => after_countCorrected s line, fun die chan row hup hreported => ⟨fun hagain => ?_, fun hfirst hfree hnodup => ?_⟩,
    fun die chan row t0 hrepair hdue => run_of_after (after_stepRepairEnd hrepair hdue)⟩
  · simp only [stepParity, decide_eq_true hg, after_when, if_true, after_updLane s k _ l hl, List.contains_iff_mem]
  · simp only [stepParity, decide_eq_true hcore, decide_eq_true htile, decide_eq_true hrow, Bool.and_self, after_when, if_true]
    rfl
  · exact run_ifUp_of_after hup (after_stepScrub s hcount)
  · intro hclean
    have hnone := List.filter_eq_nil_iff.2 fun l hl => Bool.eq_false_iff.1 (hclean l hl)
    rw [hnone, after_each_nil]
  · exact run_ifUp_of_after hup (after_stepRepairStart_again hreported hagain)
  · obtain ⟨hframe, hslice⟩ := after_stepRepairStart hreported hfirst hfree hnodup
    exact ⟨_, run_ifUp_of_after hup rfl, hframe, hslice⟩

end Sys2Proof
end

section
/-! PROOFS. Invalidations (R361, R362, R430): what goes home as one begins to act, and what it waits for. -/

namespace Sys2Proof.Machine

open Sys2Proof

/-! ### Write-backs -/

/-- An update of a cluster, of the next number or of the requests under way. -/
def Upd.onWay : Upd → Prop
  | .cluster _ _ | .fresh _ | .reqs _ => True
  | _ => False

theorem after_onWay_frame {a : Act} (h : a.Only Upd.onWay) (s : State) :
    s.after a = { s with clusters := (s.after a).clusters, fresh := (s.after a).fresh, reqs := (s.after a).reqs } := by
  refine after_keeps (K := Upd.onWay) (P := fun t => t = { s with clusters := t.clusters, fresh := t.fresh, reqs := t.reqs }) h ?_ s rfl
  intro t u hu ht
  cases u with
  | cluster k v => rw [ht]; rfl
  | fresh n => rw [ht]; rfl
  | reqs l => rw [ht]; rfl
  | _ => exact hu.elim

theorem onWay_sendReq (ctx cl line : Nat) (home : Home) (cache : Bool) (after : List Nat) (acc : List Access) :
    (sendReq ctx cl line home cache after acc).Only Upd.onWay := by
  unfold sendReq sendReqFor
  refine only_fresh (fun _ => trivial) fun n s u hu => ?_
  rw [List.mem_singleton.1 hu]
  trivial

theorem onWay_steHome (cl line : Nat) : (steHome cl line).Only Upd.onWay := fun s u hu => by
  simp only [steHome] at hu
  split at hu
  · rw [List.mem_singleton.1 hu]; trivial
  · exact absurd hu List.not_mem_nil

theorem onWay_sendDirty (cl line : Nat) : (sendDirty cl line).Only Upd.onWay := fun s u hu => by
  simp only [sendDirty] at hu
  split at hu
  · exact absurd hu List.not_mem_nil
  · split at hu
    · exact absurd hu List.not_mem_nil
    · refine only_all (K := Upd.onWay) (fun a ha => ?_) s u hu
      obtain rfl | ha := List.mem_cons.1 ha
      · intro t v hv
        rw [List.mem_singleton.1 hv]
        trivial
      · rw [List.mem_singleton.1 ha]
        exact onWay_sendReq _ _ _ _ _ _ _

theorem onWay_sendWback (cl line : Nat) : (sendWback cl line).Only Upd.onWay :=
  only_seq (onWay_steHome cl line) (only_seq (onWay_sendDirty cl line) only_skip)

theorem onWay_sendWbacks (cl : Nat) : (sendWbacks cl).Only Upd.onWay := fun s =>
  only_each (K := Upd.onWay) (fun line _ => onWay_sendWback cl line) s

theorem onWay_writeBackAll : writeBackAll.Only Upd.onWay := fun s =>
  only_each (K := Upd.onWay) (fun cl _ => onWay_sendWbacks cl) s

/-! ### What an invalidation waits for -/

theorem Inval.hits_iff (i : Inval) (va : DWord) (n : Nat) : i.hits va n = true ↔
    i.len = 0 ∨ i.start.toNat ≤ va.toNat + n ∧ va.toNat < i.start.toNat + i.len.toNat := by
  simp [Inval.hits]

/-- An entry is kept when its page and the range are apart. -/
theorem Inval.not_meets_iff (i : Inval) (e : Nat × BitVec 128) : i.meets e = false ↔ i.len ≠ 0 ∧
    let n := 2 ^ pageBits (e.2.extractLsb' 2 2).toNat
    (e.1 * 65536 / n * n + n ≤ i.start.toNat ∨ i.start.toNat + i.len.toNat ≤ e.1 * 65536 / n * n) := by
  simp only [Inval.meets, bits_toNat e.2 2 3 rfl, Bool.or_eq_false_iff, Bool.and_eq_false_iff, decide_eq_false_iff_not, Nat.not_lt, beq_eq_false_iff_ne]

section UnderWay

variable {s : State} {c : Nat} {i : Inval}

theorem mem_underWay_of_req {r : Req} (hr : r ∈ s.reqs) (hdone : r.done = false) (hreach : (∃ a ∈ r.acc, a.op.isWback = true) ∨ r.ctx = c ∧
    ∃ a ∈ r.acc, i.len = 0 ∨ i.start.toNat < a.va.toNat + a.size ∧ a.va.toNat < i.start.toNat + i.len.toNat) : r.id ∈ s.underWay c i := by
  have hmine : (r.acc.any fun a => a.op.isWback || (r.ctx == c && (i.hits a.va a.size || 1 < a.touches.length))) = true := by
    rw [List.any_eq_true]
    obtain ⟨a, ha, hback⟩ | ⟨hctx, a, ha, hhits⟩ := hreach
    · exact ⟨a, ha, by rw [hback, Bool.true_or]⟩
    · have hhit : i.hits a.va a.size = true := (i.hits_iff ..).2 (hhits.imp_right (And.imp_left Nat.le_of_lt))
      exact ⟨a, ha, by simp [hctx, hhit]⟩
  simp only [State.underWay, List.mem_append]
  exact .inl (.inl (.inl (.inl (List.mem_map.2 ⟨r, List.mem_filter.2 ⟨hr, by simp only [hdone, hmine]; rfl⟩, rfl⟩))))

theorem mem_underWay_of_slreq {r : SlReq} (hr : r ∈ s.slreqs) (hctx : s.ctxOf r.lane = c)
    (hreach : i.len = 0 ∨ i.start.toNat < r.va.toNat + 16 ∧ r.va.toNat < i.start.toNat + i.len.toNat) : r.id ∈ s.underWay c i := by
  have hhit : i.hits r.va 16 = true := (i.hits_iff ..).2 (hreach.imp_right (And.imp_left Nat.le_of_lt))
  simp only [State.underWay, List.mem_append]
  exact .inl (.inl (.inl (.inr (List.mem_map.2 ⟨r, List.mem_filter.2 ⟨hr, by simp [hctx, hhit]⟩, rfl⟩))))

theorem mem_underWay_of_slrel {r : SlRel} (hr : r ∈ s.slrels) (hctx : s.ctxOf r.lane = c) : r.id ∈ s.underWay c i := by
  simp only [State.underWay, List.mem_append]
  exact .inl (.inl (.inr (List.mem_map.2 ⟨r, List.mem_filter.2 ⟨hr, by simp [hctx]⟩, rfl⟩)))

end UnderWay

/-! ### INVALIDATION_COMPLETE -/

theorem after_stepInvalidate (s : State) {c : Nat} {start len : DWord} (hc : c < 4096) (hstart : start.toNat % 65536 = 0) (hlen : len.toNat % 65536 = 0) :
    s.after (stepInvalidate c start len) = { s with
      ctxs := s.ctxs.set c { s.ctx c with invals := (s.ctx c).invals ++ [{ start := start, len := len, after := none }] } } := by
  have hgood : ¬ (4096 ≤ c ∨ start.toNat % 65536 ≠ 0 ∨ len.toNat % 65536 ≠ 0) := by omega
  rw [after_eq]
  simp only [stepInvalidate, hgood, if_false]
  rfl

section Done

variable {s : State} {c : Nat} {v : Ctx} {i : Inval} {rest : List Inval} (hv : s.ctxs.get? c = some v) (hinvals : v.invals = i :: rest)

include hv hinvals

theorem head_invals : (s.ctxs.get? c).bind (fun c => c.invals.head?) = some i := by
  rw [hv, Option.bind_some, hinvals, List.head?_cons]

theorem after_stepInvalEnd : s.after (stepInvalEnd c) = (s.after (stepInvalDone c)).after retireMoved := by
  have hmeans : stepInvalEnd c s = Act.all [stepInvalDone c, retireMoved] s := by simp only [stepInvalEnd, head_invals hv hinvals]
  rw [after_eq, hmeans, ← after_eq, after_all_cons, after_all_cons, after_all_nil]

/-- The last stage: the oldest invalidation, which waits for `ids`, completes when they are over. -/
theorem after_complete {ids : List Nat} (hafter : i.after = some ids) :
    s.after (Act.read fun t => Act.opt ((t.ctxs.get? c).bind fun c => c.invals.head?) fun i => Act.when
      (match i.after with | some ids => t.over_ ids | none => false) (updCtx c fun c => { c with invals := c.invals.drop 1, invdone := c.invdone + 1 })) =
    { s with ctxs := if s.over_ ids then s.ctxs.set c { v with invals := rest, invdone := v.invdone + 1 } else s.ctxs } := by
  rw [after_read, head_invals hv hinvals, after_opt_some, hafter, after_when]
  dsimp only
  split
  · rw [after_updCtx s c _ v hv, hinvals, List.drop_one, List.tail_cons]
  · rfl

theorem after_stepInvalDone_waiting {ids : List Nat} (hafter : i.after = some ids) : s.after (stepInvalDone c) = { s with
    ctxs := if s.over_ ids then s.ctxs.set c { v with invals := rest, invdone := v.invdone + 1 } else s.ctxs } := by
  have hbegun : s.after (Act.read fun t => Act.opt ((t.ctxs.get? c).bind fun c => c.invals.head?) fun i => Act.when i.after.isNone (invalBegin c i)) = s := by
    rw [after_read, head_invals hv hinvals, after_opt_some, hafter, after_when]
    rfl
  rw [stepInvalDone, after_all_cons, after_all_cons, after_all_nil, hbegun]
  exact after_complete hv hinvals hafter

/-- The state in which the oldest invalidation has begun to act: `u` is what the write-backs leave. -/
def State.invalidating (u : State) (c : Nat) (v : Ctx) (i : Inval) (rest : List Inval) : State := { u with ctxs := u.ctxs.set c { v with
  tlb := v.tlb.filter fun e => !i.meets e, invals := { i with after := some (u.underWay c i) } :: rest } }

theorem after_invalBegin : s.after (invalBegin c i) = (s.after writeBackAll).invalidating c v i rest := by
  have hctxs : (s.after writeBackAll).ctxs.get? c = some v := by rw [after_onWay_frame onWay_writeBackAll]; exact hv
  rw [after_eq, invalBegin, ← after_eq, after_all_cons, after_all_cons, after_all_nil, after_read, after_updCtx _ _ _ _ hctxs, hinvals]
  rfl

theorem after_stepInvalDone_new (hnew : i.after = none) :
    let u := s.after writeBackAll
    let ids := u.underWay c i
    s.after (stepInvalDone c) = { u with ctxs := s.ctxs.set c { v with
      tlb := v.tlb.filter fun e => !i.meets e, invals := if u.over_ ids then rest else { i with after := some ids } :: rest,
      invdone := if u.over_ ids then v.invdone + 1 else v.invdone } } := by
  intro u ids
  have hbegun : s.after (Act.read fun t => Act.opt ((t.ctxs.get? c).bind fun c => c.invals.head?) fun i => Act.when i.after.isNone (invalBegin c i)) =
      u.invalidating c v i rest := by
    rw [after_read, head_invals hv hinvals, after_opt_some, hnew, after_when]
    exact after_invalBegin hv hinvals
  have hctxs : u.ctxs = s.ctxs := by simp only [u]; rw [after_onWay_frame onWay_writeBackAll]
  have hget : (u.invalidating c v i rest).ctxs.get? c = some _ := Map.get?_set_self _ _ _
  have hdone := after_complete hget rfl (ids := ids) rfl
  have hover : (u.invalidating c v i rest).over_ ids = u.over_ ids := rfl
  rw [stepInvalDone, after_all_cons, after_all_cons, after_all_nil, hbegun]
  refine hdone.trans ?_
  rw [hover]
  split
  · simp only [State.invalidating, Map.set_set, hctxs]
  · simp only [State.invalidating, hctxs]
    rfl

end Done

end Sys2Proof.Machine

namespace Sys2Proof

open Machine

/-- Settles O28: the oldest invalidation either begins or waits, and what it waits for holds each request that the statement names
(`mem_underWay_of_req` and its like). -/
theorem invalidationWaitsForAccesses : Obligations.InvalidationWaitsForAccesses := by
  unfold Obligations.InvalidationWaitsForAccesses
  refine ⟨fun s c start len hup hc hstart hlen => run_ifUp_of_after hup (after_stepInvalidate s hc hstart hlen),
    fun s c v i rest hv hinvals => ⟨fun hnew => ?_, fun ids hafter => ?_⟩⟩
  · intro u ids tlb
    refine ⟨run_of_after ?_, fun r hr hdone hreach => mem_underWay_of_req hr hdone hreach, fun r hr hctx hreach => mem_underWay_of_slreq hr hctx hreach,
      fun r hr hctx => mem_underWay_of_slrel hr hctx, fun e => ?_⟩
    · rw [after_stepInvalEnd hv hinvals, after_stepInvalDone_new hv hinvals hnew]
    · rw [← Inval.not_meets_iff, List.mem_filter, Bool.not_eq_true']
  · refine run_of_after ?_
    rw [after_stepInvalEnd hv hinvals, after_stepInvalDone_waiting hv hinvals hafter]

end Sys2Proof
end

section
/-! PROOFS. WEIR_RETIRE (R379) and BARRIER_UNREACHABLE (R383) where few lanes wait: what each leaves of them. -/

namespace Sys2Proof.Machine

open Sys2Proof

theorem groups_nil (s : State) : s.groups [] = [] := by simp [State.groups, State.anyOrder]

theorem groups_one (s : State) (k : LaneId) : s.groups [k] = [[k]] := by simp [State.groups, State.anyOrder]

/-! ### WEIR_RETIRE -/

/-- A lane in a weir park leaves it and stands at its WWAIT again, and stops there. -/
theorem after_weirWaiter_stopped (t : State) {j : LaneId} {m : Lane} (hm : t.lanes.get? j = some m) (f : List LaneId → Act) : t.after (Act.all [
      Act.each [j] fun j => updParks j fun p => { p with weir := none }, Act.each [j] backUp, Act.each [[j]] f]) =
    ({ t with lanes := t.lanes.set j { m with pc := m.pc - 12, latch := none, parks := { m.parks with weir := none } } } : State).after (f [j]) := by
  rw [after_all_cons, after_each_cons, after_each_nil, after_updParks _ j _ m hm, after_all_cons, after_each_cons, after_each_nil, backUp,
    after_updLane _ j _ _ (Map.get?_set_self _ _ _), Map.set_set, after_all_cons, after_all_nil, after_each_cons, after_each_nil]

section Weir

variable {s : State} {wg off : Nat} {w : Wg} {k : LaneId} {l : Lane}

/-- A slot retires once the lane in a WRET park on it has no earlier change of its own under way, or its workgroup has exited (R379). -/
theorem retires_of_waiter (hoff : off ∈ w.weirs)
    (hgiven : off ∈ w.retiring ∨ ∀ h ∈ s.heldWeirs, h.lane = k → h.key ≠ scratchKey wg off) (hret : s.weirWaiters (scratchKey wg off) true = [k]) :
    s.retires w off (scratchKey wg off) = true := by
  simp only [State.retires, List.contains_iff_mem.2 hoff, hret, List.any_cons, List.any_nil, Bool.or_false, Bool.true_and, Bool.or_eq_true, Bool.not_eq_true',
    List.contains_iff_mem]
  refine hgiven.imp_right fun hother => ?_
  rw [List.any_eq_false]
  intro h hh
  simpa using hother h hh

/-- The slot inactive, the workgroup without it, and lane `k` out of its park. -/
def State.weirRetired (s : State) (wg off : Nat) (w : Wg) (k : LaneId) (l : Lane) : State := { s with
  mem := (s.after (storeBytes (scratchKey wg off) (bytesLE 16 { s.weir (scratchKey wg off) with a := false }.word))).mem,
  wgs := s.wgs.set wg { w with weirs := w.weirs.filter (· != off), retiring := w.retiring.filter (· != off) },
  lanes := s.lanes.set k { l with parks := { l.parks with weir := none } } }

variable (hw : s.wgs.get? wg = some w) (hretires : s.retires w off (scratchKey wg off) = true) (hnamed : s.named (scratchKey wg off) = false)
  (hret : s.weirWaiters (scratchKey wg off) true = [k]) (hl : s.lanes.get? k = some l)

include hw hretires hnamed hret hl

theorem after_stepWeirRetire : s.after (stepWeirRetire wg off) = (s.weirRetired wg off w k l).after (Act.all [
    Act.each (s.weirWaiters (scratchKey wg off) false) fun j => updParks j fun p => { p with weir := none },
    Act.each (s.weirWaiters (scratchKey wg off) false) backUp,
    Act.each (s.groups (s.weirWaiters (scratchKey wg off) false)) fun g =>
      faultLanes 1 0 (g.map fun j => ⟨j, 0x06, BitVec.ofNat 64 (s.windowVA (scratchKey wg off))⟩)]) := by
  have hmeans : stepWeirRetire wg off s = Act.all [
      storeBytes (scratchKey wg off) (bytesLE 16 { s.weir (scratchKey wg off) with a := false }.word),
      updWg wg fun w => { w with weirs := w.weirs.filter (· != off), retiring := w.retiring.filter (· != off) },
      Act.each ([k] ++ s.weirWaiters (scratchKey wg off) false) fun k => updParks k fun p => { p with weir := none },
      Act.each (s.weirWaiters (scratchKey wg off) false) backUp,
      Act.each (s.groups (s.weirWaiters (scratchKey wg off) false)) fun g =>
        faultLanes 1 0 (g.map fun j => ⟨j, 0x06, BitVec.ofNat 64 (s.windowVA (scratchKey wg off))⟩)] s := by
    simp only [stepWeirRetire, hw, hretires, hnamed, hret, Bool.not_true, Bool.or_self, Bool.false_eq_true, if_false]
  have hrest (m : List Host.Cell) :
      ({ s with mem := m } : State).after (Act.all [
      updWg wg fun w => { w with weirs := w.weirs.filter (· != off), retiring := w.retiring.filter (· != off) },
      Act.each ([k] ++ s.weirWaiters (scratchKey wg off) false) fun k => updParks k fun p => { p with weir := none },
      Act.each (s.weirWaiters (scratchKey wg off) false) backUp,
      Act.each (s.groups (s.weirWaiters (scratchKey wg off) false)) fun g =>
        faultLanes 1 0 (g.map fun j => ⟨j, 0x06, BitVec.ofNat 64 (s.windowVA (scratchKey wg off))⟩)]) =
      ({ s with
          mem := m, wgs := s.wgs.set wg { w with weirs := w.weirs.filter (· != off), retiring := w.retiring.filter (· != off) },
          lanes := s.lanes.set k { l with parks := { l.parks with weir := none } } } : State).after (Act.all [
        Act.each (s.weirWaiters (scratchKey wg off) false) fun j => updParks j fun p => { p with weir := none },
        Act.each (s.weirWaiters (scratchKey wg off) false) backUp,
        Act.each (s.groups (s.weirWaiters (scratchKey wg off) false)) fun g =>
          faultLanes 1 0 (g.map fun j => ⟨j, 0x06, BitVec.ofNat 64 (s.windowVA (scratchKey wg off))⟩)]) := by
    rw [after_all_cons, after_updWg { s with mem := m } wg _ w hw, after_all_cons, List.singleton_append, after_each_cons,
      after_updParks { s with mem := m, wgs := _ } k _ l hl, ← after_all_cons]
  rw [after_eq, hmeans, ← after_eq, after_all_cons, after_storeBytes_frame, hrest, State.weirRetired]

theorem after_stepWeirRetire_alone (hwait : s.weirWaiters (scratchKey wg off) false = []) :
    s.after (stepWeirRetire wg off) = s.weirRetired wg off w k l := by
  rw [after_stepWeirRetire hw hretires hnamed hret hl, hwait, groups_nil, after_all_cons, after_each_nil, after_all_cons, after_each_nil,
    after_all_cons, after_each_nil, after_all_nil]

theorem after_stepWeirRetire_waiter {j : LaneId} {m : Lane} (hwait : s.weirWaiters (scratchKey wg off) false = [j]) (hm : s.lanes.get? j = some m)
    (hne : j ≠ k) : s.after (stepWeirRetire wg off) =
      ({ s.weirRetired wg off w k l with
        lanes := (s.weirRetired wg off w k l).lanes.set j { m with pc := m.pc - 12, latch := none, parks := { m.parks with weir := none } } } : State).after
        (faultLanes 1 0 [⟨j, 0x06, BitVec.ofNat 64 (s.windowVA (scratchKey wg off))⟩]) := by
  have hget : (s.weirRetired wg off w k l).lanes.get? j = some m := (Map.get?_set_ne _ _ hne).trans hm
  rw [after_stepWeirRetire hw hretires hnamed hret hl, hwait, groups_one, after_weirWaiter_stopped _ hget]
  rfl

end Weir

/-! ### BARRIER_UNREACHABLE -/

/-- The barriers at which lanes wait, of those that one lane alone waits at. -/
theorem filterMap_eq_singleton {α β : Type} [DecidableEq α] {f : α → Option β} {xs : List α} {x : α} {y : β} (hnodup : xs.Nodup) (hx : x ∈ xs)
    (hfx : f x = some y) (hother : ∀ z ∈ xs, z ≠ x → f z = none) : xs.filterMap f = [y] := by
  induction xs with
  | nil => exact absurd hx List.not_mem_nil
  | cons z zs ih =>
    obtain ⟨hz, hzs⟩ := List.nodup_cons.1 hnodup
    obtain rfl | hxs := List.mem_cons.1 hx
    · rw [List.filterMap_cons, hfx, List.filterMap_eq_nil_iff.2 fun u hu => hother u (List.mem_cons_of_mem _ hu) fun h => hz (h ▸ hu)]
    · rw [List.filterMap_cons, hother z List.mem_cons_self fun h => hz (h ▸ hxs)]
      exact ih hzs hxs fun u hu => hother u (List.mem_cons_of_mem _ hu)

/-- The lane as it stands at its BAR or GBAR, its arrival withdrawn (R383). -/
def Lane.atBarrier (l : Lane) (gang : Bool) (bar : Nat) : Lane := { l with
  pc := l.pc - 12, latch := none, parks := { l.parks with bar := none },
  arrived := l.arrived.filter fun a => a != (gang, bar),
  arriving := l.arriving.filter fun a => match a with | .barrier g b _ => !(g == gang && b == bar) | _ => true }

theorem Lane.atBarrier_eq (l : Lane) (gang : Bool) (bar : Nat) : l.atBarrier gang bar = { l with
    pc := l.pc - 12, latch := none, parks := { l.parks with bar := none },
    arrived := l.arrived.filter fun a => a != (gang, bar),
    arriving := l.arriving.filter fun a => match a with | .barrier g b _ => !(g == gang && b == bar) | .weir .. => true } := by
  have hfilter : (l.arriving.filter fun a => match a with | .barrier g b _ => !(g == gang && b == bar) | .weir .. => true) =
      (l.atBarrier gang bar).arriving := List.filter_congr fun a _ => by cases a <;> rfl
  rw [hfilter]
  rfl

theorem after_stepUnreachable {s : State} {gang : Bool} {id : Nat} {k : LaneId} {l : Lane} {p : BarPark} (hstuck : s.stuck gang id = true)
    (hk : k ∈ s.barLanes gang id) (hnodup : (s.barLanes gang id).Nodup) (hl : s.lanes.get? k = some l) (hp : l.parks.bar = some p) (hgang : p.gang = gang)
    (hother : ∀ j ∈ s.barLanes gang id, j ≠ k → ∀ m, s.lanes.get? j = some m → ∀ q, m.parks.bar = some q → q.gang ≠ gang) :
    s.after (stepUnreachable gang id) = ({ s with lanes := s.lanes.set k (l.atBarrier gang p.bar) } : State).after
      (raiseTraps [{ lane := k, cls := if gang then 5 else 4, info := p.bar, cause := 0, resume := l.pc - 12 }]) := by
  have hks : ((s.barLanes gang id).filterMap fun k => ((s.lanes.get? k).bind fun l => l.parks.bar).bind fun p =>
      if p.gang = gang then some (k, p) else none) = [(k, p)] := by
    refine filterMap_eq_singleton hnodup hk (by rw [hl, Option.bind_some, hp, Option.bind_some, if_pos hgang]) fun j hj hne => ?_
    cases hm : s.lanes.get? j with
    | none => rfl
    | some m =>
      rw [Option.bind_some]
      cases hq : m.parks.bar with
      | none => rfl
      | some q => exact if_neg (hother j hj hne m hm q hq)
  have hmeans : stepUnreachable gang id s = Act.all [
      Act.each [(k, p)] fun x => updLane x.1 fun l => l.atBarrier gang x.2.bar,
      Act.read fun t => Act.each (t.groups [k]) fun g => raiseTraps (g.filterMap fun j =>
        ([(k, p)].find? fun x => x.1 == j).map fun x =>
          { lane := j, cls := if gang then 5 else 4, info := x.2.bar, cause := 0, resume := t.pcOf j })] s := by
    simp only [stepUnreachable, hstuck, hks, Bool.not_true, Bool.false_eq_true, if_false]
    rfl
  have hpc : State.pcOf { s with lanes := s.lanes.set k (l.atBarrier gang p.bar) } k = l.pc - 12 := by
    simp only [State.pcOf, Map.get?_set_self]
    rfl
  rw [after_eq, hmeans, ← after_eq, after_all_cons, after_each_cons, after_each_nil, after_updLane _ k _ l hl, after_all_cons, after_all_nil, after_read,
    groups_one, after_each_cons, after_each_nil]
  simp only [List.filterMap_cons, List.filterMap_nil, List.find?_cons, beq_self_eq_true, Option.map_some, hpc]

end Sys2Proof.Machine

namespace Sys2Proof

open Machine

/-- Settles O50: no fault record stands in the order of records, so the step is performed as it is; a slot that retires meets one waiter, and a stuck
barrier one lane. -/
theorem weirsAndBarriersEnd : Obligations.WeirsAndBarriersEnd := by
  unfold Obligations.WeirsAndBarriersEnd
  refine ⟨fun s wg off w k l hw hoff hgiven hnamed hcalm hret hl => ?_, fun s gang id k l p hstuck hcalm hk hnodup hl hp hgang hother => ?_⟩
  · have hretires := retires_of_waiter hoff hgiven hret
    refine ⟨fun hwait => run_of_after ?_, fun j m hwait hm hne => run_of_after ?_⟩
    · exact (after_recordsInOrder s _ hcalm).trans (after_stepWeirRetire_alone hw hretires hnamed hret hl hwait)
    · exact (after_recordsInOrder s _ hcalm).trans (after_stepWeirRetire_waiter hw hretires hnamed hret hl hwait hm hne)
  · have hafter := after_stepUnreachable hstuck hk hnodup hl hp hgang hother
    rw [Lane.atBarrier_eq] at hafter
    exact run_of_after ((after_recordsInOrder s _ hcalm).trans hafter)

end Sys2Proof
end

section
/-! PROOFS. CONTEXT_OPEN, CONTEXT_CLOSE, CONTEXT_FREE, the CI writes and pre-emption (R298, R366, R399, R401): what each leaves of a context and
of what it holds. -/

namespace Sys2Proof.Machine

open Sys2Proof

/-! ### What an action keeps -/

/-- An action keeps a property of states. -/
def Act.Keeps (P : State → Prop) (a : Act) : Prop := ∀ s, P s → P (s.after a)

section Keeps

variable {P : State → Prop}

theorem keeps_skip : Act.skip.Keeps P := fun _ h => h

theorem keeps_nil : (Act.all []).Keeps P := fun _ h => h

theorem keeps_cons {a : Act} {as : List Act} (ha : a.Keeps P) (has : (Act.all as).Keeps P) : (Act.all (a :: as)).Keeps P := fun s hs => by
  rw [after_all_cons]
  exact has _ (ha s hs)

theorem keeps_all {as : List Act} (h : ∀ a ∈ as, a.Keeps P) : (Act.all as).Keeps P := by
  induction as with
  | nil => exact keeps_nil
  | cons a as ih => exact keeps_cons (h a List.mem_cons_self) (ih fun b hb => h b (List.mem_cons_of_mem _ hb))

theorem keeps_each {α : Type} {xs : List α} {f : α → Act} (h : ∀ x ∈ xs, (f x).Keeps P) : (Act.each xs f).Keeps P :=
  keeps_all (List.forall_mem_map.2 h)

theorem keeps_when {b : Bool} {a : Act} (h : a.Keeps P) : (Act.when b a).Keeps P := by
  intro s hs
  rw [after_when]
  split
  · exact h s hs
  · exact hs

theorem keeps_opt {α : Type} {x : Option α} {f : α → Act} (h : ∀ v, (f v).Keeps P) : (Act.opt x f).Keeps P := by
  cases x with
  | none => exact keeps_skip
  | some v => exact h v

/-- An action that, by cases on the state, is one of several that keep it. -/
theorem keeps_of_eq {a : Act} (h : ∀ s, ∃ b : Act, a s = b s ∧ b.Keeps P) : a.Keeps P := fun s hs => by
  obtain ⟨b, heq, hb⟩ := h s
  rw [after_eq, heq, ← after_eq]
  exact hb s hs

end Keeps

section Only

variable {K : Upd → Prop}

theorem only_updLane {k : LaneId} {f : Lane → Lane} (h : ∀ v, K (.lane k v)) : (updLane k f).Only K := by
  intro s u hu
  unfold updLane at hu
  split at hu
  · exact List.mem_singleton.1 hu ▸ h _
  · exact absurd hu List.not_mem_nil

theorem only_updGang {k : Nat} {f : Gang → Gang} (h : ∀ v, K (.gang k v)) : (updGang k f).Only K := by
  intro s u hu
  unfold updGang at hu
  split at hu
  · exact List.mem_singleton.1 hu ▸ h _
  · exact absurd hu List.not_mem_nil

theorem only_updCtx {k : Nat} {f : Ctx → Ctx} (h : ∀ v, K (.ctx k v)) : (updCtx k f).Only K := by
  intro s u hu
  unfold updCtx at hu
  split at hu
  · exact List.mem_singleton.1 hu ▸ h _
  · exact absurd hu List.not_mem_nil

theorem only_updCluster {k : Nat} {f : Cluster → Cluster} (h : ∀ v, K (.cluster k v)) : (updCluster k f).Only K :=
  fun _ _ hu => List.mem_singleton.1 hu ▸ h _

theorem only_updCore {k : Nat} {f : Core → Core} (h : ∀ v, K (.core k v)) : (updCore k f).Only K :=
  fun _ _ hu => List.mem_singleton.1 hu ▸ h _

theorem only_updSeqr {k : Nat} {f : Sequencer → Sequencer} (h : ∀ v, K (.seqr k v)) : (updSeqr k f).Only K :=
  fun _ _ hu => List.mem_singleton.1 hu ▸ h _

theorem only_updDev {f : Dev → Dev} (h : ∀ v, K (.dev v)) : (updDev f).Only K :=
  fun _ _ hu => List.mem_singleton.1 hu ▸ h _

theorem only_updSlReqs {f : List SlReq → List SlReq} (h : ∀ v, K (.slreqs v)) : (updSlReqs f).Only K :=
  fun _ _ hu => List.mem_singleton.1 hu ▸ h _

end Only

/-! ### The reset of a context (R366, R401) -/

/-- A context is resetting, with no pre-emption command, and its pre-emption field as `p`. -/
def State.resetting (c : Nat) (p : BitVec 2) (s : State) : Prop := ∃ x, s.ctxs.get? c = some x ∧ x.state = 2 ∧ x.pre = none ∧ x.preempt = p

section Resetting

variable {c : Nat} {p : BitVec 2}

theorem keeps_resetting_of_only {a : Act} (h : a.Only fun u => ∀ s, (Upd.apply s u).ctxs = s.ctxs) : a.Keeps (State.resetting c p) :=
  fun s hs => after_keeps h (fun t u hu (ht : State.resetting c p t) => by unfold State.resetting; rw [hu t]; exact ht) s hs

theorem resetting_closeRecord (d n : Nat) : (closeRecord d n).Keeps (State.resetting c p) := by
  intro s ⟨x, hx, hstate, hpre, hpreempt⟩
  cases hd : s.ctxs.get? d with
  | none =>
    rw [closeRecord, after_eq, show updCtx d _ s = [] by simp only [updCtx, hd]]
    exact ⟨x, hx, hstate, hpre, hpreempt⟩
  | some y =>
    rw [closeRecord, after_updCtx _ d _ y hd]
    by_cases hcd : c = d
    · subst hcd
      obtain rfl : x = y := Option.some.inj (hx.symm.trans hd)
      exact ⟨_, Map.get?_set_self _ _ _, hstate, hpre, hpreempt⟩
    · exact ⟨x, (Map.get?_set_ne _ _ hcd).trans hx, hstate, hpre, hpreempt⟩

theorem resetting_updLane (k : LaneId) (f : Lane → Lane) : (updLane k f).Keeps (State.resetting c p) :=
  keeps_resetting_of_only (only_updLane fun v _ => by cases v <;> rfl)

theorem resetting_updCluster (n : Nat) (f : Cluster → Cluster) : (updCluster n f).Keeps (State.resetting c p) :=
  keeps_resetting_of_only (only_updCluster fun v _ => by cases v <;> rfl)

theorem resetting_updCore (n : Nat) (f : Core → Core) : (updCore n f).Keeps (State.resetting c p) :=
  keeps_resetting_of_only (only_updCore fun v _ => by cases v <;> rfl)

theorem resetting_updGang (n : Nat) (f : Gang → Gang) : (updGang n f).Keeps (State.resetting c p) :=
  keeps_resetting_of_only (only_updGang fun v _ => by cases v <;> rfl)

theorem resetting_updSeqr (n : Nat) (f : Sequencer → Sequencer) : (updSeqr n f).Keeps (State.resetting c p) :=
  keeps_resetting_of_only (only_updSeqr fun v _ => by cases v <;> rfl)

theorem resetting_dropCmd (core id : Nat) : (dropCmd core id).Keeps (State.resetting c p) := by
  unfold dropCmd updMq
  exact resetting_updCore core _

theorem resetting_updCmd (cl id : Nat) (f : Cmd → Cmd) : (updCmd cl id f).Keeps (State.resetting c p) := by
  unfold updCmd
  exact resetting_updCluster cl _

theorem resetting_updParks (k : LaneId) (f : Parks → Parks) : (updParks k f).Keeps (State.resetting c p) := by
  unfold updParks
  exact resetting_updLane k _

theorem resetting_dropTileCmd (core : Nat) (m : MCmd) : (dropTileCmd core m).Keeps (State.resetting c p) := by
  refine keeps_cons (keeps_opt fun n => ?_) (keeps_cons (resetting_dropCmd core m.id) keeps_nil)
  exact fun s hs => resetting_closeRecord (s.ctxOf m.lane) n s hs

theorem resetting_discardTile (core tile : Nat) : (discardTile core tile).Keeps (State.resetting c p) := by
  intro s
  exact keeps_cons (keeps_each fun m _ => resetting_dropTileCmd core m) (keeps_cons (resetting_updCore _ _) keeps_nil) s

theorem resetting_withdrawCmd (cl : Nat) (m : Cmd) : (withdrawCmd cl m).Keeps (State.resetting c p) := by
  refine keeps_cons (resetting_updCluster _ _) (keeps_cons ?_ keeps_nil)
  split
  · exact resetting_updLane _ _
  · exact keeps_skip

theorem resetting_drainCmd (cl : Nat) (m : Cmd) : (drainCmd cl m).Keeps (State.resetting c p) := by
  refine keeps_of_eq fun s => ?_
  cases hfired : m.fired with
  | false =>
    refine ⟨Act.all [Act.opt m.stopped fun x => closeRecord (s.ctxOf m.lane) x.2, withdrawCmd cl m,
      Act.when (!m.submitted) (updLane m.lane fun l => { l with cpyw := l.cpyw - 1 }),
      updParks m.lane fun p => { p with queue := if p.queue = some (.stream m.id) then none else p.queue }],
      by simp only [drainCmd, hfired, Bool.not_false, if_true], ?_⟩
    exact keeps_cons (keeps_opt fun x => resetting_closeRecord _ x.2) (keeps_cons (resetting_withdrawCmd cl m)
      (keeps_cons (keeps_when (resetting_updLane _ _)) (keeps_cons (resetting_updParks _ _) keeps_nil)))
  | true =>
    cases hstopped : m.stopped with
    | none => exact ⟨Act.skip, by simp only [drainCmd, hfired, hstopped]; rfl, keeps_skip⟩
    | some x =>
      exact ⟨Act.all [closeRecord (s.ctxOf m.lane) x.2, updCmd cl m.id fun x => { x with stopped := none, dropped := true }],
        by simp only [drainCmd, hfired, hstopped]; rfl, keeps_cons (resetting_closeRecord _ _) (keeps_cons (resetting_updCmd _ _ _) keeps_nil)⟩

theorem resetting_drainAll (s : State) (mine : LaneId → Bool) (cl : Nat) : (Act.all (s.drainAll mine cl)).Keeps (State.resetting c p) := by
  refine keeps_all fun a ha => ?_
  rw [State.drainAll, List.mem_append, List.mem_map, List.mem_flatMap] at ha
  obtain ⟨m, _, rfl⟩ | ⟨i, _, ha⟩ := ha
  · exact resetting_drainCmd cl m
  · obtain ⟨m, _, rfl⟩ := List.mem_map.1 ha
    exact resetting_dropTileCmd _ m

end Resetting

/-! ### The end of a lane (R410) -/

/-- A lane that ended without EXIT. -/
def Lane.over (l : Lane) : Lane := { l with
  exited := true, exiting := false, latch := none, parks := Parks.none, results := [], regions := [], err := none,
  trapLane := false, arrived := [], heldBy := none, undoUse := 0,
  arriving := l.arriving.filter fun a => match a with | .barrier _ _ _ => false | .weir .. => true }

theorem after_updCluster_updCore_updLane {t : State} {k : LaneId} {l : Lane} (hl : t.lanes.get? k = some l) (n m : Nat) (f : Cluster → Cluster)
    (g : Core → Core) (h : Lane → Lane) : t.after (Act.all [updCluster n f, updCore m g, updLane k h]) = { t with
      clusters := t.clusters.set n (f (t.cluster n)), cores := t.cores.set m (g (t.core m)), lanes := t.lanes.set k (h l) } := by
  rw [after_all_cons, after_updCluster, after_all_cons, after_updCore, after_all_cons, after_updLane _ k _ l ?_, after_all_nil]
  · rfl
  · exact hl

theorem after_endLane {s : State} {k : LaneId} {l : Lane} (hl : s.lanes.get? k = some l) (hexited : l.exited = false) : s.after (endLane k) = { s with
    slreqs := s.slreqs.filter fun r => r.lane != k,
    dev := if s.slreqs.any (fun r => r.lane == k) = true
      then { s.dev with wq := (s.dev.wq ++ (s.slreqs.filter fun r => r.lane == k).map (·.key)).dedup } else s.dev,
    clusters := s.clusters.set (s.clusterOf k) { s.cluster (s.clusterOf k) with dops := (s.cluster (s.clusterOf k)).dops.filter fun o => o.lane != k },
    cores := s.cores.set (s.coreOf k) { s.core (s.coreOf k) with mq := (s.core (s.coreOf k)).mq.filter fun m => m.accepted || m.lane != k },
    lanes := s.lanes.set k l.over } := by
  have hmeans : endLane k s = Act.all [
      updSlReqs fun rs => rs.filter fun r => r.lane != k,
      Act.when (s.slreqs.any fun r => r.lane == k) (updDev fun d => { d with
        wq := (d.wq ++ (s.slreqs.filter fun r => r.lane == k).map (·.key)).dedup }),
      updCluster (s.clusterOf k) fun c => { c with dops := c.dops.filter fun o => o.lane != k },
      updCore (s.coreOf k) fun c => { c with mq := c.mq.filter fun m => m.accepted || m.lane != k },
      updLane k Lane.over] s := by
    simp only [endLane, hl, hexited, Bool.false_eq_true, if_false]
    rfl
  rw [after_eq, hmeans, ← after_eq, after_all_cons, after_updSlReqs, after_all_cons, after_when]
  split
  · exact after_updCluster_updCore_updLane (t := { s with slreqs := s.slreqs.filter fun r => r.lane != k, dev := _ }) hl _ _ _ _ _
  · exact after_updCluster_updCore_updLane (t := { s with slreqs := s.slreqs.filter fun r => r.lane != k }) hl _ _ _ _ _

theorem after_endLane_gone {s : State} {k : LaneId} (h : ∀ l, s.lanes.get? k = some l → l.exited = true) : s.after (endLane k) = s := by
  rw [after_eq, show endLane k s = [] from ?_, applyAll_nil]
  cases hl : s.lanes.get? k with
  | none => simp only [endLane, hl]
  | some l => simp only [endLane, hl, h l hl, if_true]

/-- No lane `k` lives. -/
def State.ended (k : LaneId) (s : State) : Prop := ∀ l, s.lanes.get? k = some l → l.exited = true

theorem ended_of_lanes {a : Act} (k : LaneId) (h : ∀ s : State, (s.after a).lanes = s.lanes) : a.Keeps (State.ended k) := fun s hs l hl => hs l (h s ▸ hl)

theorem keeps_endLane {P : State → Prop} (k : LaneId)
    (h : ∀ s l, P s → s.lanes.get? k = some l → l.exited = false → P (s.after (endLane k))) : (endLane k).Keeps P := by
  intro s hs
  by_cases hgone : s.ended k
  · rw [after_endLane_gone hgone]
    exact hs
  · simp only [State.ended, not_forall, Bool.not_eq_true] at hgone
    obtain ⟨l, hl, hexited⟩ := hgone
    exact h s l hs hl hexited

theorem ended_after_endLane (s : State) (k : LaneId) : (s.after (endLane k)).ended k := by
  by_cases hgone : s.ended k
  · rw [after_endLane_gone hgone]
    exact hgone
  · simp only [State.ended, not_forall, Bool.not_eq_true] at hgone
    obtain ⟨l, hl, hexited⟩ := hgone
    rw [after_endLane hl hexited]
    intro m hm
    obtain rfl := Option.some.inj ((Map.get?_set_self _ _ _).symm.trans hm)
    rfl

theorem ended_endLane (j k : LaneId) : (endLane k).Keeps (State.ended j) := keeps_endLane k fun s l hs hl hexited => by
  by_cases hjk : j = k
  · exact hjk ▸ ended_after_endLane s k
  · rw [after_endLane hl hexited]
    exact fun m hm => hs m ((Map.get?_set_ne _ _ hjk).symm.trans hm)

theorem resetting_endLane {c : Nat} {p : BitVec 2} (k : LaneId) : (endLane k).Keeps (State.resetting c p) :=
  keeps_endLane k fun s l hs hl hexited => by
    rw [after_endLane hl hexited]
    exact hs

/-- Something that an action of a list brings about, and that those after it keep. -/
theorem after_each_of_mem {α : Type} {P : State → Prop} {xs : List α} {f : α → Act} {x : α} (hx : x ∈ xs) (hmakes : ∀ s : State, P (s.after (f x)))
    (hkeeps : ∀ y ∈ xs, (f y).Keeps P) (s : State) : P (s.after (Act.each xs f)) := by
  induction xs generalizing s with
  | nil => exact absurd hx List.not_mem_nil
  | cons y ys ih =>
    rw [after_each_cons]
    obtain rfl | hys := List.mem_cons.1 hx
    · exact keeps_each (fun z hz => hkeeps z (List.mem_cons_of_mem _ hz)) _ (hmakes s)
    · exact ih hys (fun z hz => hkeeps z (List.mem_cons_of_mem _ hz)) _

/-! ### The steps -/

section Reset

variable (s : State) (c : Nat)

/-- What runs of a context ends: its tiles are discarded, its commands drained, its lanes end, and what waits of it goes. -/
def State.stopCtx : Act :=
  let ws := s.wgs.filter fun w => w.2.ctx == c
  let gs := s.gangs.filter fun g => g.2.ctx == c && !g.2.ended
  Act.all [
    Act.each ws fun w => Act.each ((List.range 16).filter fun i => ((s.core w.2.core).tile i).owner == some w.1) (discardTile w.2.core),
    Act.each (gs.map fun g => g.2.cluster).dedup fun cl => Act.read fun t => Act.all (t.drainAll (fun k => ws.any fun w => w.1 == k.wg) cl),
    Act.each ws fun w => Act.each (s.wgLanes w.1) endLane,
    Act.each (s.clusters.map (·.1)) fun cl => updCluster cl fun x => { x with
      cistern := x.cistern.filter fun r => r.ctx != c, parts := x.parts.del c },
    Act.each (s.seqs.map (·.1)) fun d => updSeqr d fun q => { q with given := q.given.filter fun x => x.1 != c },
    Act.each gs fun g => updGang g.1 fun v => { v with kill := none }]

theorem after_resetContext : s.after (resetContext c) =
    (((s.after (updCtx c fun x => { x with state := 2, pre := none, preempt := if x.preempt = 0 then 0 else 2 })).after (s.stopCtx c)).after
      (closeFaults c fun _ => true)).after
      (writeError { ecode := 0x30, ctx := c, cnt := (s.gangs.filter fun g => g.2.ctx == c && !g.2.ended).length }) := by
  rw [after_eq]
  unfold resetContext State.stopCtx
  rw [← after_eq]
  simp only [after_all_cons, after_all_nil]

theorem resetting_stopCtx {p : BitVec 2} : (s.stopCtx c).Keeps (State.resetting c p) :=
  keeps_cons (keeps_each fun _ _ => keeps_each fun _ _ => resetting_discardTile _ _) <|
  keeps_cons (keeps_each fun _ _ => fun t => resetting_drainAll t _ _ t) <|
  keeps_cons (keeps_each fun _ _ => keeps_each fun k _ => resetting_endLane k) <|
  keeps_cons (keeps_each fun _ _ => resetting_updCluster _ _) <|
  keeps_cons (keeps_each fun _ _ => resetting_updSeqr _ _) <|
  keeps_cons (keeps_each fun _ _ => resetting_updGang _ _) keeps_nil

theorem lanes_after_updGang (t : State) (g : Nat) (f : Gang → Gang) : (t.after (updGang g f)).lanes = t.lanes ∧ (t.after (updGang g f)).clusters = t.clusters := by
  cases h : t.gangs.get? g with
  | none => rw [after_eq, show updGang g f t = [] by simp only [updGang, h]]; exact ⟨rfl, rfl⟩
  | some v => rw [after_updGang _ _ _ v h]; exact ⟨rfl, rfl⟩

/-- Every lane of the context has ended. -/
theorem ended_after_stopCtx {w : Nat × Wg} (hw : w ∈ s.wgs) (hctx : w.2.ctx = c) {k : LaneId} (hk : k ∈ s.wgLanes w.1) (t : State) :
    (t.after (s.stopCtx c)).ended k := by
  have hmem : w ∈ s.wgs.filter fun w => w.2.ctx == c := List.mem_filter.2 ⟨hw, beq_iff_eq.2 hctx⟩
  rw [State.stopCtx, after_all_cons, after_all_cons, after_all_cons]
  refine keeps_cons ?_ (keeps_cons ?_ (keeps_cons ?_ keeps_nil)) _ (after_each_of_mem (P := State.ended k) hmem ?_ ?_ _)
  · exact keeps_each fun _ _ => ended_of_lanes k fun _ => rfl
  · exact keeps_each fun _ _ => ended_of_lanes k fun _ => rfl
  · exact keeps_each fun g _ => ended_of_lanes k fun u => (lanes_after_updGang u g.1 _).1
  · exact fun u => after_each_of_mem hk (fun u => ended_after_endLane u k) (fun j _ => ended_endLane k j) u
  · exact fun _ _ => keeps_each fun j _ => ended_endLane k j

/-- No record of context `c` is in the cistern of cluster `n`. -/
def State.without (c n : Nat) (s : State) : Prop := ∀ r ∈ (s.cluster n).cistern, r.ctx ≠ c

theorem without_of_clusters {n : Nat} {a : Act} (h : ∀ t : State, (t.after a).clusters = t.clusters) : a.Keeps (State.without c n) := fun t ht => by
  have hsame : (t.after a).cluster n = t.cluster n := by rw [State.cluster, h t, ← State.cluster]
  rw [State.without, hsame]
  exact ht

/-- No record of the context is in a cistern. -/
theorem without_after_stopCtx {e : Nat × Cluster} (he : e ∈ s.clusters) (t : State) : (t.after (s.stopCtx c)).without c e.1 := by
  rw [State.stopCtx, after_all_cons, after_all_cons, after_all_cons, after_all_cons]
  refine keeps_cons ?_ (keeps_cons ?_ keeps_nil) _ (after_each_of_mem (P := State.without c e.1) (List.mem_map_of_mem he) ?_ ?_ _)
  · exact keeps_each fun _ _ => without_of_clusters c fun _ => rfl
  · exact keeps_each fun g _ => without_of_clusters c fun u => (lanes_after_updGang u g.1 _).2
  · intro u r hr
    rw [after_updCluster, cluster_set, if_pos rfl] at hr
    simpa using (List.mem_filter.1 hr).2
  · intro n _ u hu r hr
    rw [after_updCluster, cluster_set] at hr
    split at hr
    · next h => exact hu r (h ▸ (List.mem_filter.1 hr).1)
    · exact hu r hr

/-- A context is resetting, and no fault record of it is open or holds anything. -/
def State.closed (c : Nat) (p : BitVec 2) (s : State) : Prop := ∃ x, s.ctxs.get? c = some x ∧ x.state = 2 ∧ x.pre = none ∧ x.preempt = p ∧
  ∀ f ∈ x.faults, f.fid = none ∧ f.held = [] ∧ f.cmd = none

theorem closed_after_closeFaults {p : BitVec 2} {t : State} (h : t.resetting c p) : (t.after (closeFaults c fun _ => true)).closed c p := by
  obtain ⟨x, hx, hstate, hpre, hpreempt⟩ := h
  rw [closeFaults, after_updCtx _ c _ x hx]
  refine ⟨_, Map.get?_set_self _ _ _, hstate, hpre, hpreempt, fun f hf => ?_⟩
  simp only [if_true, Bool.not_true, Bool.false_or, List.mem_filter, List.mem_map, Option.isNone_iff_eq_none] at hf
  obtain ⟨⟨g, _, rfl⟩, hfid⟩ := hf
  exact ⟨hfid, rfl, rfl⟩

theorem Ctx.bump_error_fields (x : Ctx) : (x.bump .error).state = x.state ∧ (x.bump .error).pre = x.pre ∧ (x.bump .error).preempt = x.preempt ∧
    (x.bump .error).faults = x.faults := by
  simp only [Ctx.bump]
  split <;> exact ⟨rfl, rfl, rfl, rfl⟩

theorem closed_after_writeError {p : BitVec 2} {t : State} (h : t.closed c p) (n : Nat) :
    (t.after (writeError { ecode := 0x30, ctx := c, cnt := n })).closed c p := by
  obtain ⟨x, hx, hstate, hpre, hpreempt, hfaults⟩ := h
  rw [after_writeError (e := { ecode := 0x30, ctx := c, cnt := n }) hx]
  obtain ⟨hs, hp, hq, hf⟩ := x.bump_error_fields
  split
  · exact ⟨_, Map.get?_set_self _ _ _, hs.trans hstate, hp.trans hpre, hq.trans hpreempt, hf.symm ▸ hfaults⟩
  · exact ⟨_, Map.get?_set_self _ _ _, hstate, hpre, hpreempt, hfaults⟩

theorem lanes_after_writeError (t : State) (e : ErrRec) : (t.after (writeError e)).lanes = t.lanes ∧ (t.after (writeError e)).clusters = t.clusters := by
  cases h : t.ctxs.get? e.ctx with
  | none => rw [after_eq, show writeError e t = [] by simp only [writeError, h]]; exact ⟨rfl, rfl⟩
  | some v =>
    rw [after_writeError h]
    split <;> exact ⟨rfl, rfl⟩

theorem lanes_after_closeFaults (t : State) (q : FaultRec → Bool) :
    (t.after (closeFaults c q)).lanes = t.lanes ∧ (t.after (closeFaults c q)).clusters = t.clusters := by
  rw [closeFaults, after_updCtx_frame]
  exact ⟨rfl, rfl⟩

theorem closed_after_resetContext {v : Ctx} (hv : s.ctxs.get? c = some v) : (s.after (resetContext c)).closed c (if v.preempt = 0 then 0 else 2) := by
  rw [after_resetContext]
  refine closed_after_writeError c (closed_after_closeFaults c (resetting_stopCtx s c _ ?_)) _
  rw [after_updCtx _ c _ v hv]
  exact ⟨_, Map.get?_set_self _ _ _, rfl, rfl, rfl⟩

theorem ended_after_resetContext {w : Nat × Wg} (hw : w ∈ s.wgs) (hctx : w.2.ctx = c) {k : LaneId} (hk : k ∈ s.wgLanes w.1) :
    (s.after (resetContext c)).ended k := by
  rw [after_resetContext]
  refine ended_of_lanes k (fun u => (lanes_after_writeError u _).1) _ (ended_of_lanes k (fun u => (lanes_after_closeFaults c u _).1) _ ?_)
  exact ended_after_stopCtx s c hw hctx hk _

theorem without_after_resetContext {e : Nat × Cluster} (he : e ∈ s.clusters) : (s.after (resetContext c)).without c e.1 := by
  rw [after_resetContext]
  refine without_of_clusters c (fun u => (lanes_after_writeError u _).2) _ (without_of_clusters c (fun u => (lanes_after_closeFaults c u _).2) _ ?_)
  exact without_after_stopCtx s c he _

end Reset

/-! ### A context on which nothing is resident -/

theorem Map.get?_of_nodup {κ α : Type} [DecidableEq κ] {m : Map κ α} {e : κ × α} (hnodup : (Map.keys m).Nodup) (he : e ∈ m) :
    m.get? e.1 = some e.2 := by
  induction m with
  | nil => exact absurd he List.not_mem_nil
  | cons d m ih =>
    obtain ⟨hd, hm⟩ := List.nodup_cons.1 hnodup
    obtain rfl | he := List.mem_cons.1 he
    · exact if_pos rfl
    · exact (if_neg fun heq : d.1 = e.1 => hd (heq ▸ List.mem_map_of_mem he)).trans (ih hm he)

theorem Map.del_of_get?_none {κ α : Type} [DecidableEq κ] {m : Map κ α} {k : κ} (h : m.get? k = none) : m.del k = m :=
  List.filter_eq_self.2 fun e he => by
    obtain ⟨v, hv⟩ := Map.get?_of_mem m e he
    refine decide_eq_true fun hk => ?_
    rw [hk, h] at hv
    cases hv

theorem after_updSeqr_id (s : State) (n : Nat) (v : Sequencer) (hv : s.seqs.get? n = some v) (f : Sequencer → Sequencer) (h : f v = v) :
    s.after (updSeqr n f) = s := by
  have hseqr : s.seqr n = v := by simp only [State.seqr, Map.getD, hv, Option.getD_some]
  rw [after_updSeqr, hseqr, h, Map.set_get? _ _ _ hv]

section Vacancy

variable {s : State} {c : Nat} (h : Vacant s c)

include h

theorem Vacant.noWgs : (s.wgs.filter fun w => w.2.ctx == c) = [] := List.filter_eq_nil_iff.2 fun e he => by simpa using h.wgs e he

theorem Vacant.noGangs : (s.gangs.filter fun g => g.2.ctx == c) = [] := List.filter_eq_nil_iff.2 fun e he => by simpa using h.gangs e he

theorem Vacant.noLaunches : (s.launches.filter fun l => l.2.ctx == c) = [] := List.filter_eq_nil_iff.2 fun e he => by simpa using h.launches e he

theorem Vacant.noLiveGangs : (s.gangs.filter fun g => g.2.ctx == c && !g.2.ended) = [] :=
  List.filter_eq_nil_iff.2 fun e he => by simp [h.gangs e he]

/-- Nothing of the context runs. -/
theorem Vacant.after_stopCtx (v : Ctx) : ({ s with ctxs := s.ctxs.set c v } : State).after (s.stopCtx c) = { s with ctxs := s.ctxs.set c v } := by
  refine after_all_id _ _ fun a ha => ?_
  simp only [h.noWgs, h.noLiveGangs, List.mem_cons, List.not_mem_nil, or_false, List.map_nil, List.dedup_nil] at ha
  obtain rfl | rfl | rfl | rfl | rfl | rfl := ha
  · rfl
  · rfl
  · rfl
  · refine after_each_id _ _ _ fun n hn => ?_
    obtain ⟨e, he, rfl⟩ := List.mem_map.1 hn
    obtain ⟨x, hx⟩ := Map.get?_of_mem s.clusters e he
    obtain ⟨hcistern, hparts⟩ := h.clusters e he
    have hcluster : s.cluster e.1 = x := by simp only [State.cluster, Map.getD, hx, Option.getD_some]
    rw [hcluster] at hcistern hparts
    refine after_updCluster_id { s with ctxs := s.ctxs.set c v } e.1 x hx _ ?_
    rw [Map.del_of_get?_none hparts, List.filter_eq_self.2 fun r hr => by simpa using hcistern r hr]
  · refine after_each_id _ _ _ fun n hn => ?_
    obtain ⟨e, he, rfl⟩ := List.mem_map.1 hn
    obtain ⟨x, hx⟩ := Map.get?_of_mem s.seqs e he
    have hgiven := h.seqs e he
    have hseqr : s.seqr e.1 = x := by simp only [State.seqr, Map.getD, hx, Option.getD_some]
    rw [hseqr] at hgiven
    refine after_updSeqr_id { s with ctxs := s.ctxs.set c v } e.1 x hx _ ?_
    rw [List.filter_eq_self.2 fun r hr => by simpa using hgiven r hr]
  · rfl

theorem Vacant.after_resetContext {v : Ctx} (hv : s.ctxs.get? c = some v) (hfaults : v.faults = []) : s.after (resetContext c) =
    ({ s with ctxs := s.ctxs.set c { v with state := 2, pre := none, preempt := if v.preempt = 0 then 0 else 2 } } : State).after
      (writeError { ecode := 0x30, ctx := c, cnt := 0 }) := by
  rw [Machine.after_resetContext, h.noLiveGangs, after_updCtx _ c _ v hv, h.after_stopCtx, closeFaults, after_updCtx _ c _ _ (Map.get?_set_self _ _ _),
    Map.set_set]
  simp only [hfaults, List.map_nil, List.filter_nil, List.length_nil]

theorem Vacant.after_stepFree {v : Ctx} (hv : s.ctxs.get? c = some v) (hstate : v.state = 2) :
    s.after (stepFree c) = { s with ctxs := s.ctxs.set c { v with state := 0, preempt := 0, binds := [] } } := by
  have hmeans : stepFree c s = Act.all [removeGangs [], Act.each (s.launches.filter fun l => l.2.ctx == c) fun l => fun _ => [.launch l.1 none],
      updCtx c fun c => { c with state := 0, preempt := 0, binds := [] }] s := by
    simp [stepFree, hv, hstate, h.noWgs, h.noGangs, State.traces]
  rw [after_eq, hmeans, ← after_eq, h.noLaunches, after_all_cons, after_all_cons, after_all_cons, after_all_nil]
  exact after_updCtx s c _ v hv

end Vacancy

/-! ### Pre-emption (R399) -/

section Preempt

variable {s : State} {c : Nat} {v : Ctx} (hv : s.ctxs.get? c = some v)

include hv

theorem after_stepPreemptStart (hstate : v.state = 1) (hpreempt : v.preempt = 0) (t1 t2 : Half) : s.after (stepPreemptStart c t1 t2) = { s with
    ctxs := s.ctxs.set c { v with preempt := 1, pre := some (s.now, t1.toNat, if t2 < t1 then t1.toNat else t2.toNat) } } := by
  have hmax : max t1.toNat t2.toNat = if t2 < t1 then t1.toNat else t2.toNat := by
    simp only [BitVec.lt_def]
    split <;> omega
  rw [after_eq, ← hmax]
  simp only [stepPreemptStart, hv, hstate, hpreempt]
  rfl

theorem after_stepPreemptResume (hstate : v.state = 1) (hpreempt : v.preempt ≠ 0) :
    s.after (stepPreemptResume c) = { s with ctxs := s.ctxs.set c { v with preempt := 0, pre := none } } := by
  rw [after_eq]
  simp only [stepPreemptResume, hv, hstate, bne_self_eq_false, beq_eq_false_iff_ne.2 hpreempt, Bool.or_self, Bool.false_eq_true, if_false]
  rfl

theorem after_stepClose (hstate : v.state = 1) : s.after (stepClose c) = s.after (resetContext c) := by
  rw [after_eq, after_eq]
  simp only [stepClose, hv, hstate, if_true]

theorem after_stepT2 (hstate : v.state = 1) {t0 t1 t2 : Nat} (hpre : v.pre = some (t0, t1, t2)) (hpreempt : v.preempt = 2)
    (hnow : t0 + 1200 * t2 ≤ s.now) : s.after (stepT2 c) = s.after (resetContext c) := by
  rw [after_eq, after_eq]
  simp only [stepT2, hv, hpre, hstate, hpreempt, beq_self_eq_true, Bool.true_and, cyclesOf, hnow, decide_true, if_true]

/-- The park stage is over at once where no workgroup of the context is active. -/
theorem after_servePreempt (hstage : s.parkStage c = true)
    (hidle : ∀ w ∈ s.wgs, ∀ x, s.wgs.get? w.1 = some x → x.ctx = c → x.active = false ∧ x.parking = false) (hnodup : (Map.keys s.wgs).Nodup) :
    s.after (servePreempt c) = { s with ctxs := s.ctxs.set c { v with pre := none } } := by
  have hws (w : Nat × Wg) (hw : w ∈ s.wgsOf c) : s.wgs.get? w.1 = some w.2 ∧ w.2.active = false ∧ w.2.parking = false := by
    obtain ⟨hmem, hwg⟩ := List.mem_filter.1 hw
    rw [Bool.and_eq_true, beq_iff_eq] at hwg
    have hget := Map.get?_of_nodup hnodup hmem
    exact ⟨hget, hidle w hmem w.2 hget hwg.1⟩
  have hany (w : Nat × Wg) (hw : w ∈ s.anyOrder (2 ^ 41) (·.1) (s.wgsOf c)) : s.wgs.get? w.1 = some w.2 ∧ w.2.active = false ∧ w.2.parking = false :=
    hws w (List.mem_mergeSort.1 hw)
  have hall : ((s.wgsOf c).all fun w => !w.2.active) = true := List.all_eq_true.2 fun w hw => by rw [(hws w hw).2.1]; rfl
  rw [after_eq]
  simp only [servePreempt, hstage, Bool.not_true, Bool.false_eq_true, if_false]
  rw [← after_eq s (Act.all _), after_all_cons, after_each_id, after_all_cons, after_each_id, after_all_cons, after_all_nil, after_fun]
  · rw [if_pos hall, ← after_eq, after_updCtx _ c _ v hv]
  · intro w hw
    obtain ⟨hget, hactive, hparking⟩ := hany w hw
    rw [after_fun, hget]
    simp only [hparking, Bool.false_eq_true, if_false]
    rfl
  · intro w hw
    obtain ⟨hget, hactive, hparking⟩ := hany w hw
    rw [after_fun, hget]
    simp only [hactive, Bool.false_and, Bool.false_eq_true, if_false]
    rfl

omit hv in
theorem after_stepT1 (hv : s.ctxs.get? c = some v) (hstate : v.state = 1) {t0 t1 t2 : Nat} (hpre : v.pre = some (t0, t1, t2)) (hpreempt : v.preempt = 1)
    (hnow : t0 + 1200 * t1 ≤ s.now)
    (hidle : ∀ w ∈ s.wgs, ∀ x, s.wgs.get? w.1 = some x → x.ctx = c → x.active = false ∧ x.parking = false) (hnodup : (Map.keys s.wgs).Nodup) :
    s.after (stepT1 c) = { s with ctxs := s.ctxs.set c { v with preempt := 2, pre := none } } := by
  have hmeans : stepT1 c s = Act.all [updCtx c fun c => { c with preempt := 2 }, servePreempt c] s := by
    simp only [stepT1, hv, hpre, hstate, hpreempt, beq_self_eq_true, Bool.true_and, cyclesOf, hnow, decide_true, if_true]
  have hget : ({ s with ctxs := s.ctxs.set c { v with preempt := 2 } } : State).ctxs.get? c = some { v with preempt := 2 } := Map.get?_set_self _ _ _
  rw [after_eq, hmeans, ← after_eq, after_all_cons, after_updCtx s c _ v hv, after_all_cons, after_all_nil, after_servePreempt hget ?_ hidle hnodup]
  · simp only [Map.set_set]
  · simp only [State.parkStage, Map.get?_set_self, hstate, hpre, beq_self_eq_true, Option.isSome_some, Bool.and_self]

end Preempt

end Sys2Proof.Machine

namespace Sys2Proof

open Machine

/-- Settles O25: an opening, a CI write and a pre-emption command are each one write of the context; what the reset of a context does before its
fault records close leaves its state as the reset set it, each of its lanes ended and each cistern without its records, and on a vacant context
changes nothing. -/
theorem contextsOpenAndClose : Obligations.ContextsOpenAndClose := by
  unfold Obligations.ContextsOpenAndClose
  refine ⟨⟨fun s c hup hc => ⟨fun hstate => run_ifUp_of_after hup ?_, fun r ci => run_ifUp_of_after hup ?_⟩, fun s c v hv hvacant =>
    ⟨fun hstate hfaults hup => run_ifUp_of_after hup ?_, fun hstate => run_of_after ?_⟩⟩, fun s c v hv hstate =>
    ⟨fun t1 t2 hup hpreempt => run_ifUp_of_after hup ?_, fun hup hpreempt => run_ifUp_of_after hup ?_,
      fun t0 t1 t2 hpre hpreempt hnow hidle hnodup => run_of_after ?_, fun hup => run_ifUp_of_after hup ?_,
      fun t0 t1 t2 hpre hpreempt hnow => run_of_after ?_, ?_, ?_, ?_, ?_⟩⟩
  · rw [after_eq]
    have hst : (s.ctxs.getD c Ctx.start).state = 0 := hstate
    simp only [stepOpen, hc, hst, and_self, if_true]
    rfl
  · rw [after_eq]
    simp only [stepCi, hc, if_true]
    cases r <;> rfl
  · rw [after_stepClose hv hstate, hvacant.after_resetContext hv hfaults]
  · exact hvacant.after_stepFree hv hstate
  · exact after_stepPreemptStart hv hstate hpreempt t1 t2
  · exact after_stepPreemptResume hv hstate hpreempt
  · exact after_stepT1 hv hstate hpre hpreempt hnow hidle hnodup
  · exact after_stepClose hv hstate
  · exact after_stepT2 hv hstate hpre hpreempt hnow
  · exact closed_after_resetContext s c hv
  · exact ⟨_, after_resetContext s c⟩
  · exact fun w hw hctx k hk => ended_after_resetContext s c hw hctx hk
  · exact fun e he => without_after_resetContext s c he

end Sys2Proof
end

section
/-! PROOFS. Writes to the control space (R427): which register an access names, the value that a write makes of it, and that each register's write
is the step named for it. -/

namespace Sys2Proof.Machine

open Sys2Proof

/-! ### The value that a write makes -/

/-- `old` with its bits from `a` to below `b` replaced by `x`. -/
def splice (old a b x : Nat) : Nat := old % 2 ^ a + 2 ^ a * x + 2 ^ b * (old / 2 ^ b)

theorem testBit_splice {old a b x : Nat} (hab : a ≤ b) (hx : x < 2 ^ (b - a)) (j : Nat) :
    (splice old a b x).testBit j = if j < a then old.testBit j else if j < b then x.testBit (j - a) else old.testBit j := by
  have hlow : old % 2 ^ a < 2 ^ a := Nat.mod_lt _ (Nat.two_pow_pos a)
  have hmid : 2 ^ a * x + old % 2 ^ a < 2 ^ b := by
    calc 2 ^ a * x + old % 2 ^ a < 2 ^ a * x + 2 ^ a := by omega
      _ = 2 ^ a * (x + 1) := by ring
      _ ≤ 2 ^ a * 2 ^ (b - a) := Nat.mul_le_mul_left _ hx
      _ = 2 ^ b := by rw [← Nat.pow_add, Nat.add_sub_cancel' hab]
  have hform : splice old a b x = 2 ^ b * (old / 2 ^ b) + (2 ^ a * x + old % 2 ^ a) := by unfold splice; omega
  rw [hform, Nat.testBit_two_pow_mul_add _ hmid, Nat.testBit_two_pow_mul_add _ hlow, Nat.testBit_mod_two_pow, Nat.testBit_div_two_pow]
  split_ifs with h1 h2 h2
  · simp [h2]
  · rfl
  · omega
  · rw [Nat.sub_add_cancel (by omega)]

theorem testBit_bits (v hi lo j : Nat) : (bits v hi lo).testBit j = (decide (j < hi + 1 - lo) && v.testBit (j + lo)) := by
  rw [bits, Nat.testBit_mod_two_pow, Nat.testBit_div_two_pow]

theorem bits_splice_outside {old a b x : Nat} (hab : a ≤ b) (hx : x < 2 ^ (b - a)) {hi lo : Nat} (h : hi < a ∨ b ≤ lo) :
    bits (splice old a b x) hi lo = bits old hi lo := by
  refine Nat.eq_of_testBit_eq fun j => ?_
  rw [testBit_bits, testBit_bits, testBit_splice hab hx]
  by_cases hj : j < hi + 1 - lo
  · obtain hbelow | habove := h
    · rw [if_pos (by omega)]
    · rw [if_neg (by omega), if_neg (by omega)]
  · simp [hj]

theorem bits_splice_inside {old a b x : Nat} (hab : a ≤ b) (hx : x < 2 ^ (b - a)) {hi lo : Nat} (hlo : a ≤ lo) (hle : lo ≤ hi) (hhi : hi < b) :
    bits (splice old a b x) hi lo = bits x (hi - a) (lo - a) := by
  refine Nat.eq_of_testBit_eq fun j => ?_
  rw [testBit_bits, testBit_bits, testBit_splice hab hx]
  by_cases hj : j < hi + 1 - lo
  · rw [if_neg (by omega), if_pos (by omega), show j + lo - a = j + (lo - a) by omega]
    simp only [hj, show j < hi - a + 1 - (lo - a) by omega]
  · simp [hj, show ¬ j < hi - a + 1 - (lo - a) by omega]

/-- The low bits of a value that stands from bit 0 on. -/
theorem ofNat_splice {old w x : Nat} : BitVec.ofNat w (splice old 0 w x) = BitVec.ofNat w x := by
  refine BitVec.eq_of_toNat_eq ?_
  rw [BitVec.toNat_ofNat, BitVec.toNat_ofNat, splice, Nat.pow_zero, Nat.mod_one, Nat.zero_add, Nat.one_mul, Nat.add_mul_mod_self_left]

/-! ### The fields of a layout -/

/-- The bits of a layout's fields. -/
def fieldBits (l : List (Nat × Nat)) : Nat := (l.map (·.1)).sum

theorem packBits_append (l r : List (Nat × Nat)) : packBits (l ++ r) = packBits l + 2 ^ fieldBits l * packBits r ∧ packBits l < 2 ^ fieldBits l := by
  induction l with
  | nil => exact ⟨by simp [packBits, fieldBits], by simp [packBits, fieldBits]⟩
  | cons e l ih =>
    obtain ⟨w, v⟩ := e
    obtain ⟨happend, hlt⟩ := ih
    have hmod : v % 2 ^ w < 2 ^ w := Nat.mod_lt _ (Nat.two_pow_pos w)
    have hbits : 2 ^ fieldBits ((w, v) :: l) = 2 ^ w * 2 ^ fieldBits l := by rw [fieldBits, List.map_cons, List.sum_cons, Nat.pow_add, fieldBits]
    constructor
    · rw [List.cons_append, packBits, packBits, happend, hbits]
      ring
    · rw [packBits, hbits]
      calc v % 2 ^ w + 2 ^ w * packBits l < 2 ^ w + 2 ^ w * packBits l := by omega
        _ = 2 ^ w * (packBits l + 1) := by ring
        _ ≤ 2 ^ w * 2 ^ fieldBits l := Nat.mul_le_mul_left _ hlt

/-- A field of a layout, by the fields before it. -/
theorem bits_packBits (l r : List (Nat × Nat)) (w v : Nat) {hi lo : Nat} (hlo : fieldBits l = lo) (hhi : hi + 1 - lo = w) :
    bits (packBits (l ++ (w, v) :: r)) hi lo = v % 2 ^ w := by
  obtain ⟨happend, hlt⟩ := packBits_append l ((w, v) :: r)
  rw [bits, hhi, happend, hlo] at *
  rw [Nat.add_mul_div_left _ _ (Nat.two_pow_pos lo), Nat.div_eq_of_lt hlt, Nat.zero_add, packBits, Nat.add_mul_mod_self_left, Nat.mod_mod]

/-- The fields of a context's entry (R366). -/
def Ctx.entryFields (c : Ctx) : List (Nat × Nat) :=
  [(64, c.ptroot.toNat), (64, c.kdtab.toNat), (32, c.kdn.toNat), (32, c.stack.toNat), (64, c.traptab.toNat), (64, c.fqb.toNat),
    (64, c.eqb.toNat), (64, c.cqb.toNat), (32, c.fqpi.toNat), (32, c.fqci.toNat), (32, c.eqpi.toNat), (32, c.eqci.toNat),
    (32, c.cqpi.toNat), (32, c.cqci.toNat), (64, c.ovfb.toNat), (32, c.ovfn.toNat), (32, c.losterr.toNat), (64, c.undob.toNat),
    (32, c.undosz.toNat), (16, 0), (16, c.bndmask.toNat), (8, c.fqs.toNat), (8, c.eqs.toNat), (8, c.cqs.toNat), (8, 0),
    (16, c.fvec.toNat), (16, c.evec.toNat), (16, c.cvec.toNat), (16, 0), (2, c.state.toNat), (2, c.preempt.toNat),
    (1, if c.sigreq then 1 else 0), (27, 0), (64, c.stkva.toNat), (32, c.stksz.toNat)]

theorem Ctx.entry_eq (c : Ctx) : c.entry = packBits c.entryFields := rfl

section Entry

variable (c : Ctx)

theorem bits_entry (n : Nat) {w v hi lo : Nat} (hfields : c.entryFields = c.entryFields.take n ++ (w, v) :: c.entryFields.drop (n + 1))
    (hv : v < 2 ^ w) (hlo : fieldBits (c.entryFields.take n) = lo) (hhi : hi + 1 - lo = w) : bits c.entry hi lo = v := by
  rw [Ctx.entry_eq, hfields, bits_packBits _ _ w v hlo hhi, Nat.mod_eq_of_lt hv]

theorem bits_entry_fqci : bits c.entry 511 480 = c.fqci.toNat :=
  bits_entry c 9 (w := 32) rfl c.fqci.isLt (by simp [fieldBits, Ctx.entryFields]) (by omega)
theorem bits_entry_eqci : bits c.entry 575 544 = c.eqci.toNat :=
  bits_entry c 11 (w := 32) rfl c.eqci.isLt (by simp [fieldBits, Ctx.entryFields]) (by omega)
theorem bits_entry_cqci : bits c.entry 639 608 = c.cqci.toNat :=
  bits_entry c 13 (w := 32) rfl c.cqci.isLt (by simp [fieldBits, Ctx.entryFields]) (by omega)
theorem bits_entry_state : bits c.entry 993 992 = c.state.toNat :=
  bits_entry c 29 (w := 2) rfl c.state.isLt (by simp [fieldBits, Ctx.entryFields]) (by omega)

end Entry

/-! ### Which register an access names -/

theorem regAt_whole {off n : Nat} {x : Item} (hitem : itemAt off = some (x, off)) (hsize : x.size = n) (halign : off % n = 0) :
    regAt off n = some (x, 0) := by
  subst hsize
  simp only [regAt, hitem, Nat.sub_self, halign, true_or, and_true, if_true]

theorem regAt_field {off base o n : Nat} {x : Item} (hitem : itemAt off = some (x, base)) (hoff : off - base = o) (hfield : (o, n) ∈ x.fields)
    (halign : off % n = 0) : regAt off n = some (x, o) := by
  subst hoff
  simp only [regAt, hitem, hfield, halign, or_true, and_true, if_true]

theorem regAt_quantum {c : Nat} (h : c < 576) : regAt (0x1000 + 2 * c) 2 = some (.quantum c, 0) := by
  refine regAt_whole ?_ rfl (by omega)
  unfold itemAt
  rw [if_neg (by omega), if_pos (by omega), show (0x1000 + 2 * c - 0x1000) / 2 = c by omega, show (0x1000 + 2 * c) / 2 * 2 = 0x1000 + 2 * c by omega]

theorem regAt_cisthw {c : Nat} (h : c < 144) : regAt (0x2000 + 2 * c) 2 = some (.cisthw c, 0) := by
  refine regAt_whole ?_ rfl (by omega)
  unfold itemAt
  rw [if_neg (by omega), if_neg (by omega), if_pos (by omega), show (0x2000 + 2 * c - 0x2000) / 2 = c by omega,
    show (0x2000 + 2 * c) / 2 * 2 = 0x2000 + 2 * c by omega]

theorem regAt_power : regAt 0x3000 32 = some (.power, 0) := by decide
theorem regAt_ring : regAt 0x4000 32 = some (.ring, 0) := by decide
theorem regAt_nonce : regAt 0x5000 32 = some (.nonce, 0) := by decide

theorem regAt_queue {q : Nat} (h : q < 2048) : regAt (0x10000 + 16 * q) 16 = some (.queue q, 0) := by
  refine regAt_whole ?_ rfl (by omega)
  unfold itemAt
  rw [if_neg (by omega), if_neg (by omega), if_neg (by omega), if_neg (by omega), if_neg (by omega), if_neg (by omega), if_neg (by omega),
    if_neg (by omega), if_pos (by omega), show (0x10000 + 16 * q - 0x10000) / 16 = q by omega, show (0x10000 + 16 * q) / 16 * 16 = 0x10000 + 16 * q by omega]

theorem regAt_route {d : Nat} (h : d < 256) : regAt (0x2000000000 + 4 * d) 4 = some (.route d, 0) := by
  refine regAt_whole ?_ rfl (by omega)
  unfold itemAt
  rw [if_neg (by omega), if_neg (by omega), if_neg (by omega), if_neg (by omega), if_neg (by omega), if_neg (by omega), if_neg (by omega),
    if_neg (by omega), if_neg (by omega), if_neg (by omega), if_neg (by omega), if_neg (by omega), if_pos (by omega),
    show (0x2000000000 + 4 * d - 0x2000000000) / 4 = d by omega, show (0x2000000000 + 4 * d) / 4 * 4 = 0x2000000000 + 4 * d by omega]

/-- An offset in the table of contexts. -/
theorem itemAt_context {c o : Nat} (hc : c < 4096) (ho : o < 256) : itemAt (0x100000 + 256 * c + o) = some (.context c, 0x100000 + 256 * c) := by
  unfold itemAt
  rw [if_neg (by omega), if_neg (by omega), if_neg (by omega), if_neg (by omega), if_neg (by omega), if_neg (by omega), if_neg (by omega),
    if_neg (by omega), if_neg (by omega), if_pos (by omega), show (0x100000 + 256 * c + o - 0x100000) / 256 = c by omega,
    show (0x100000 + 256 * c + o) / 256 * 256 = 0x100000 + 256 * c by omega]

theorem regAt_context {c o : Nat} (hc : c < 4096) (ho : o < 256) (halign : o % 4 = 0) (hfield : (o, 4) ∈ (Item.context c).fields) :
    regAt (0x100000 + 256 * c + o) 4 = some (.context c, o) :=
  regAt_field (itemAt_context hc ho) (by omega) hfield (by omega)

/-- An offset in a context's page. -/
theorem itemAt_page {c o : Nat} (hc : c < 4096) (ho : o < 4096) : itemAt (0x1000000 + o + 4096 * c) =
    if o < 0x20 then some (.answer c, 0x1000000 + 4096 * c)
    else if 0x40 ≤ o ∧ o < 0x50 then some (.inval c, 0x1000000 + 4096 * c + 0x40)
    else if 0x60 ≤ o ∧ o < 0x64 then some (.invdone c, 0x1000000 + 4096 * c + 0x60)
    else if 0x80 ≤ o ∧ o < 0x88 then some (.preempt c, 0x1000000 + 4096 * c + 0x80)
    else none := by
  unfold itemAt
  rw [if_neg (by omega), if_neg (by omega), if_neg (by omega), if_neg (by omega), if_neg (by omega), if_neg (by omega), if_neg (by omega),
    if_neg (by omega), if_neg (by omega), if_neg (by omega), if_pos (by omega), show (0x1000000 + o + 4096 * c - 0x1000000) % 0x1000 = o by omega,
    show (0x1000000 + o + 4096 * c - 0x1000000) / 0x1000 = c by omega, show 0x1000000 + o + 4096 * c - o = 0x1000000 + 4096 * c by omega]

theorem regAt_answer {c : Nat} (h : c < 4096) : regAt (0x1000000 + 4096 * c) 32 = some (.answer c, 0) :=
  regAt_whole (itemAt_page (o := 0) h (by omega)) rfl (by omega)

theorem regAt_inval {c : Nat} (h : c < 4096) : regAt (0x1000040 + 4096 * c) 16 = some (.inval c, 0) := by
  refine regAt_whole ((itemAt_page (o := 0x40) h (by omega)).trans ?_) rfl (by omega)
  rw [if_neg (by omega), if_pos (by omega), show 0x1000000 + 4096 * c + 0x40 = 0x1000040 + 4096 * c by omega]

theorem regAt_preempt {c : Nat} (h : c < 4096) : regAt (0x1000080 + 4096 * c) 8 = some (.preempt c, 0) := by
  refine regAt_whole ((itemAt_page (o := 0x80) h (by omega)).trans ?_) rfl (by omega)
  rw [if_neg (by omega), if_neg (by omega), if_neg (by omega), if_pos (by omega), show 0x1000000 + 4096 * c + 0x80 = 0x1000080 + 4096 * c by omega]

/-! ### Writes -/

theorem natLE_lt (bs : List Byte) : natLE bs < 2 ^ (8 * bs.length) := by
  induction bs with
  | nil => simp [natLE]
  | cons b bs ih =>
    have hb := b.isLt
    rw [natLE, List.length_cons, show 8 * (bs.length + 1) = 8 * bs.length + 8 by omega, Nat.pow_add]
    omega

/-- A write of a register is what its item makes of the spliced value. -/
theorem controlWrite_eq {s : State} {off o : Nat} {bs : List Byte} {x : Item} (hreg : regAt off bs.length = some (x, o)) :
    controlWrite off bs s = ifUp (writeItem x (splice (s.item x) (8 * o) (8 * (o + bs.length)) (natLE bs)) o bs.length) s := by
  simp only [controlWrite, hreg, ifUp, splice]
  cases s.dev.up <;> rfl

/-- A write of a register does what an action does. -/
theorem run_controlWrite {s : State} {off o n : Nat} {bs : List Byte} {x : Item} {a : Act} (hlen : bs.length = n) (hreg : regAt off n = some (x, o))
    (ha : s.after (writeItem x (splice (s.item x) (8 * o) (8 * (o + n)) (natLE bs)) o n) = s.after a) :
    exec (.controlSpaceWrite off bs) s = run (ifUp a) s := by
  subst hlen
  have hup : s.after (controlWrite off bs) = s.after (ifUp a) := by
    rw [after_eq, controlWrite_eq hreg, ← after_eq]
    cases h : s.dev.up with
    | true => rw [after_ifUp s _ h, after_ifUp s _ h, ha]
    | false => rw [after_eq, after_eq, ifUp, ifUp, h]; rfl
  exact run_of_after hup

theorem natLE_bytesLE_of_lt {n v : Nat} (h : v < 256 ^ n) : natLE (bytesLE n v) = v := (natLE_bytesLE n v).trans (Nat.mod_eq_of_lt h)

/-- A register that is written whole is what is written. -/
theorem ofNat_written (old k : Nat) {w : Nat} (hw : 8 * k = w) (v : BitVec w) :
    BitVec.ofNat w (splice old (8 * 0) (8 * (0 + k)) (natLE (bytesLE k v.toNat))) = v := by
  subst hw
  have hlt : v.toNat < 256 ^ k := by
    have hv := v.isLt
    rwa [Nat.pow_mul] at hv
  rw [Nat.mul_zero, Nat.zero_add, ofNat_splice, natLE_bytesLE_of_lt hlt, BitVec.ofNat_toNat, BitVec.setWidth_eq]

/-- So are the bits of a layout that is written whole. -/
theorem bits_written {old k x hi lo : Nat} (hx : x < 256 ^ k) (hle : lo ≤ hi) (hhi : hi < 8 * k) :
    bits (splice old (8 * 0) (8 * (0 + k)) x) hi lo = bits x hi lo := by
  have hlt : x < 2 ^ (8 * k - 0) := by rwa [Nat.sub_zero, Nat.pow_mul]
  rw [Nat.mul_zero, Nat.zero_add, bits_splice_inside (Nat.zero_le _) hlt (Nat.zero_le _) hle hhi, Nat.sub_zero, Nat.sub_zero]

theorem writeItem_inval (old c : Nat) (st len : DWord) :
    writeItem (.inval c) (splice old (8 * 0) (8 * (0 + 16)) (natLE (bytesLE 8 st.toNat ++ bytesLE 8 len.toNat))) 0 16 = stepInvalidate c st len := by
  have hst := st.isLt
  have hlen := len.isLt
  have hvalue : natLE (bytesLE 8 st.toNat ++ bytesLE 8 len.toNat) = st.toNat + 2 ^ 64 * len.toNat := by
    rw [natLE_append, bytesLE_length, natLE_bytesLE_of_lt (by omega), natLE_bytesLE_of_lt (by omega)]
    omega
  have h0 : bits (st.toNat + 2 ^ 64 * len.toNat) 63 0 = st.toNat := by unfold bits; omega
  have h1 : bits (st.toNat + 2 ^ 64 * len.toNat) 127 64 = len.toNat := by unfold bits; omega
  simp only [writeItem]
  rw [hvalue, bits_written (by omega) (by omega) (by omega), bits_written (by omega) (by omega) (by omega), h0, h1, BitVec.ofNat_toNat, BitVec.ofNat_toNat,
    BitVec.setWidth_eq, BitVec.setWidth_eq]

theorem writeItem_answer (old c a : Nat) (fid : Word) (am rpc : DWord) (ha : a < 4) :
    writeItem (.answer c) (splice old (8 * 0) (8 * (0 + 32)) (natLE (bytesLE 32 (fid.toNat + a * 2 ^ 32 + am.toNat * 2 ^ 128 + rpc.toNat * 2 ^ 192)))) 0 32 =
      Machine.answer c fid am (Action.ofCode a) rpc := by
  have hfid := fid.isLt
  have ham := am.isLt
  have hrpc := rpc.isLt
  generalize hx : fid.toNat + a * 2 ^ 32 + am.toNat * 2 ^ 128 + rpc.toNat * 2 ^ 192 = x
  have hlt : x < 256 ^ 32 := by omega
  have h0 : bits x 31 0 = fid.toNat := by unfold bits; omega
  have h1 : bits x 33 32 = a := by unfold bits; omega
  have h2 : bits x 191 128 = am.toNat := by unfold bits; omega
  have h3 : bits x 255 192 = rpc.toNat := by unfold bits; omega
  simp only [writeItem]
  rw [natLE_bytesLE_of_lt hlt, bits_written hlt (by omega) (by omega), bits_written hlt (by omega) (by omega), bits_written hlt (by omega) (by omega),
    bits_written hlt (by omega) (by omega), h0, h1, h2, h3]
  simp only [BitVec.ofNat_toNat, BitVec.setWidth_eq]

theorem writeItem_preemptStart (old c : Nat) (t1 t2 : Half) :
    writeItem (.preempt c) (splice old (8 * 0) (8 * (0 + 8)) (natLE (bytesLE 8 (t1.toNat * 2 ^ 16 + t2.toNat * 2 ^ 32)))) 0 8 = stepPreemptStart c t1 t2 := by
  have h1 := t1.isLt
  have h2 := t2.isLt
  generalize hx : t1.toNat * 2 ^ 16 + t2.toNat * 2 ^ 32 = x
  have hlt : x < 256 ^ 8 := by omega
  have hb0 : bits x 0 0 = 0 := by unfold bits; omega
  have hb1 : bits x 31 16 = t1.toNat := by unfold bits; omega
  have hb2 : bits x 47 32 = t2.toNat := by unfold bits; omega
  simp only [writeItem]
  rw [natLE_bytesLE_of_lt hlt, bits_written hlt (by omega) (by omega), bits_written hlt (by omega) (by omega), bits_written hlt (by omega) (by omega),
    hb0, hb1, hb2, if_pos rfl]
  simp only [BitVec.ofNat_toNat, BitVec.setWidth_eq]

theorem writeItem_preemptResume (old c : Nat) :
    writeItem (.preempt c) (splice old (8 * 0) (8 * (0 + 8)) (natLE (bytesLE 8 1))) 0 8 = stepPreemptResume c := by
  simp only [writeItem]
  rw [natLE_bytesLE_of_lt (by omega), bits_written (by omega) (by omega) (by omega), if_neg (by unfold bits; omega)]

/-! ### Writes of a context's entry (R366) -/

/-- A context with its consumer indices as an entry holds them. -/
def Ctx.withIndices (c : Ctx) (e : Nat) : Ctx := { c with
  fqci := BitVec.ofNat 32 (bits e 511 480), eqci := BitVec.ofNat 32 (bits e 575 544), cqci := BitVec.ofNat 32 (bits e 639 608) }

theorem Ctx.withIndices_of_eq {c : Ctx} {e : Nat} (hf : bits e 511 480 = c.fqci.toNat) (he : bits e 575 544 = c.eqci.toNat)
    (hc : bits e 639 608 = c.cqci.toNat) : c.withIndices e = c := by
  simp only [Ctx.withIndices, hf, he, hc, BitVec.ofNat_toNat, BitVec.setWidth_eq]

/-- A field of four bytes that is written is what is written; every other stays. -/
theorem bits_index {old o x hi lo : Nat} (hx : x < 2 ^ 32) (hlo : 8 * o = lo) (hhi : lo + 31 = hi) :
    bits (splice old (8 * o) (8 * (o + 4)) x) hi lo = x := by
  subst hlo hhi
  rw [bits_splice_inside (by omega) (by rwa [show 8 * (o + 4) - 8 * o = 32 by omega]) (le_refl _) (by omega) (by omega), bits, Nat.sub_self,
    Nat.pow_zero, Nat.div_one, show 8 * o + 31 - 8 * o + 1 - 0 = 32 by omega, Nat.mod_eq_of_lt hx]

theorem bits_index_other {old o x hi lo : Nat} (hx : x < 2 ^ 32) (h : hi < 8 * o ∨ 8 * (o + 4) ≤ lo) :
    bits (splice old (8 * o) (8 * (o + 4)) x) hi lo = bits old hi lo :=
  bits_splice_outside (by omega) (by rwa [show 8 * (o + 4) - 8 * o = 32 by omega]) h

section Entry

variable {s : State} {c : Nat} {v : Ctx} (hv : s.ctxs.get? c = some v)

include hv

theorem ctx_of_get? : s.ctx c = v := by simp only [State.ctx, Map.getD, hv, Option.getD_some]

/-- A write of the entry of a context that is not free sets its consumer indices, and closes an open one whose STATE becomes 2. -/
theorem after_writeContext (hstate : v.state ≠ 0) (e o n : Nat) : s.after (writeContext c e o n) =
    ({ s with ctxs := s.ctxs.set c (v.withIndices e) } : State).after (Act.when (v.state == 1 && bits e 993 992 == 2) (stepClose c)) := by
  have hmeans : writeContext c e o n s = Act.all [fun _ => [.ctx c (some (v.withIndices e))], Act.skip,
      Act.when (v.state == 1 && bits e 993 992 == 2) (stepClose c)] s := by
    simp only [writeContext, ctx_of_get? hv, if_neg hstate, beq_eq_false_iff_ne.2 hstate, Bool.false_and]
    rfl
  rw [after_eq, hmeans, ← after_eq, after_all_cons, after_all_cons, after_all_cons, after_all_nil]
  rfl

/-- A write of STATE with 2 closes an open context. -/
theorem after_writeState_close (hstate : v.state = 1) :
    s.after (writeContext c (splice v.entry (8 * 124) (8 * (124 + 4)) 2) 124 4) = s.after (stepClose c) := by
  have hsplice {hi lo : Nat} (h : hi < 8 * 124 ∨ 8 * (124 + 4) ≤ lo) : bits (splice v.entry (8 * 124) (8 * (124 + 4)) 2) hi lo = bits v.entry hi lo :=
    bits_splice_outside (by omega) (by omega) h
  have hbits : bits (splice v.entry (8 * 124) (8 * (124 + 4)) 2) 993 992 = 2 :=
    (bits_splice_inside (by omega) (by omega) (by omega) (by omega) (by omega)).trans (by decide)
  have hsame : v.withIndices (splice v.entry (8 * 124) (8 * (124 + 4)) 2) = v := Ctx.withIndices_of_eq ((hsplice (by omega)).trans (bits_entry_fqci v))
    ((hsplice (by omega)).trans (bits_entry_eqci v)) ((hsplice (by omega)).trans (bits_entry_cqci v))
  rw [after_writeContext hv (by rw [hstate]; decide), hsame, hbits, Map.set_get? _ _ _ hv, hstate]
  rfl

/-- A write of a consumer index's field leaves STATE. -/
theorem after_writeIndex (hstate : v.state ≠ 0) {o x : Nat} (ho : 8 * (o + 4) ≤ 992) (hx : x < 2 ^ 32) :
    s.after (writeContext c (splice v.entry (8 * o) (8 * (o + 4)) x) o 4) =
      { s with ctxs := s.ctxs.set c (v.withIndices (splice v.entry (8 * o) (8 * (o + 4)) x)) } := by
  have hbits : bits (splice v.entry (8 * o) (8 * (o + 4)) x) 993 992 = v.state.toNat :=
    (bits_index_other hx (Or.inr ho)).trans (bits_entry_state v)
  have hclose : (v.state == 1 && v.state.toNat == 2) = false := by
    rw [Bool.and_eq_false_imp, beq_iff_eq]
    intro h
    rw [h]
    rfl
  rw [after_writeContext hv hstate, hbits, hclose]
  rfl

theorem after_writeCi (hstate : v.state ≠ 0) (ci : Word) :
    s.after (writeContext c (splice v.entry (8 * 60) (8 * (60 + 4)) ci.toNat) 60 4) = s.after (fun _ => [.ctx c (some (v.withCi .fault ci))]) ∧
    s.after (writeContext c (splice v.entry (8 * 68) (8 * (68 + 4)) ci.toNat) 68 4) = s.after (fun _ => [.ctx c (some (v.withCi .error ci))]) ∧
    s.after (writeContext c (splice v.entry (8 * 76) (8 * (76 + 4)) ci.toNat) 76 4) = s.after (fun _ => [.ctx c (some (v.withCi .completion ci))]) := by
  have hx := ci.isLt
  refine ⟨(after_writeIndex hv hstate (by omega) hx).trans ?_, (after_writeIndex hv hstate (by omega) hx).trans ?_,
    (after_writeIndex hv hstate (by omega) hx).trans ?_⟩
  · rw [Ctx.withIndices, bits_index (o := 60) hx rfl rfl, bits_index_other (o := 60) hx (by omega), bits_index_other (o := 60) hx (by omega),
      bits_entry_eqci, bits_entry_cqci]
    simp only [BitVec.ofNat_toNat, BitVec.setWidth_eq]
    rfl
  · rw [Ctx.withIndices, bits_index (o := 68) hx rfl rfl, bits_index_other (o := 68) hx (by omega), bits_index_other (o := 68) hx (by omega),
      bits_entry_fqci, bits_entry_cqci]
    simp only [BitVec.ofNat_toNat, BitVec.setWidth_eq]
    rfl
  · rw [Ctx.withIndices, bits_index (o := 76) hx rfl rfl, bits_index_other (o := 76) hx (by omega), bits_index_other (o := 76) hx (by omega),
      bits_entry_fqci, bits_entry_eqci]
    simp only [BitVec.ofNat_toNat, BitVec.setWidth_eq]
    rfl

end Entry

/-- The first write of an entry: STATE with 1. -/
def openedEntry : Nat := splice Ctx.start.entry (8 * 124) (8 * (124 + 4)) 1

theorem start_of_openedEntry : (Ctx.start.withSettings openedEntry 124 4).withIndices openedEntry = Ctx.start ∧ bits openedEntry 993 992 = 1 := by
  decide +kernel

/-- A write of STATE with 1 opens a context of which nothing has been set. -/
theorem after_writeState_open {s : State} {c : Nat} (hc : c < 4096) (hnone : s.ctxs.get? c = none) :
    s.after (writeContext c openedEntry 124 4) = s.after (stepOpen c) := by
  have hctx : s.ctx c = Ctx.start := by simp only [State.ctx, Map.getD, hnone, Option.getD_none]
  have hmeans : writeContext c openedEntry 124 4 s = Act.all [fun _ => [.ctx c (some Ctx.start)], stepOpen c, Act.skip] s := by
    have hset := start_of_openedEntry.1
    simp only [Ctx.withIndices] at hset
    simp only [writeContext, hctx, start_of_openedEntry.2]
    rw [if_pos (by rfl), hset]
    rfl
  have hopen (t : State) (ht : t.ctx c = Ctx.start) : t.after (stepOpen c) = { t with ctxs := t.ctxs.set c { Ctx.start with state := 1 } } := by
    rw [State.ctx] at ht
    rw [after_eq]
    simp only [stepOpen, ht, hc]
    rfl
  rw [after_eq, hmeans, ← after_eq, after_all_cons, after_all_cons, after_all_cons, after_all_nil, hopen s hctx, after_const, applyAll_cons, applyAll_nil,
    hopen (Upd.apply s (.ctx c (some Ctx.start))) (Map.getD_set_self _ _ _ _)]
  exact congrArg (fun m => { s with ctxs := m }) (Map.set_set _ _ _ _)

theorem after_writeContext_ci {s : State} {c : Nat} {v : Ctx} (hc : c < 4096) (hv : s.ctxs.get? c = some v) (ci : Word) (o : Nat) (r : Ring)
    (h : s.after (writeContext c (splice v.entry (8 * o) (8 * (o + 4)) ci.toNat) o 4) = s.after (fun _ => [.ctx c (some (v.withCi r ci))])) :
    s.after (writeItem (.context c) (splice (s.item (.context c)) (8 * o) (8 * (o + 4)) (natLE (bytesLE 4 ci.toNat))) o 4) =
      s.after (stepCi c r ci) := by
  have hlt : ci.toNat < 256 ^ 4 := ci.isLt
  have hstep : stepCi c r ci s = [.ctx c (some (v.withCi r ci))] := by simp only [stepCi, if_pos hc, ctx_of_get? hv]
  rw [natLE_bytesLE_of_lt hlt, State.item, ctx_of_get? hv, writeItem, h, after_eq s (stepCi c r ci), hstep]
  rfl

/-- A write of what is read only is discarded. -/
theorem after_controlWrite_readOnly {s : State} {off o : Nat} {bs : List Byte} {x : Item} (hreg : regAt off bs.length = some (x, o))
    (hx : x = .identity ∨ x = .status ∨ x = .report ∨ (∃ c, x = .invdone c) ∨ ∃ c i, x = .binding c i) : s.after (controlWrite off bs) = s := by
  rw [after_eq, controlWrite_eq hreg, ifUp]
  split
  · obtain rfl | rfl | rfl | ⟨c, rfl⟩ | ⟨c, i, rfl⟩ := hx <;> rfl
  · rfl

/-! ### Settings of the device -/

theorem after_writePower_written (s : State) (old : Nat) (v : BitVec 256) :
    s.after (writePower (splice old (8 * 0) (8 * (0 + 32)) (natLE (bytesLE 32 v.toNat)))) = { s with dev := { s.dev with
      pcap := BitVec.ofNat 12 (max 1200 (min 3600 (v.extractLsb' 0 12).toNat)), floor := BitVec.ofNat 8 (max 4 (min 20 (v.extractLsb' 32 8).toNat)),
      tlim := BitVec.ofNat 8 (max 20 (min 60 (v.extractLsb' 40 8).toNat)) } } := by
  have hlt : v.toNat < 256 ^ 32 := v.isLt
  rw [natLE_bytesLE_of_lt hlt, writePower, bits_written hlt (by omega) (by omega), bits_written hlt (by omega) (by omega),
    bits_written hlt (by omega) (by omega), bits_toNat v 0 11 rfl, bits_toNat v 32 39 rfl, bits_toNat v 40 47 rfl, after_updDev]
  rfl

theorem after_writeRing_written (s : State) (old : Nat) (v : BitVec 256) :
    s.after (writeRing (splice old (8 * 0) (8 * (0 + 32)) (natLE (bytesLE 32 v.toNat))) 0 32) = { s with dev := { s.dev with
      relBase := v.extractLsb' 0 64, relSize := BitVec.ofNat 64 (max 6 (min 16 (v.extractLsb' 64 8).toNat)), relCi := v.extractLsb' 160 32 } } := by
  have hlt : v.toNat < 256 ^ 32 := v.isLt
  rw [natLE_bytesLE_of_lt hlt, writeRing, bits_written hlt (by omega) (by omega), bits_written hlt (by omega) (by omega),
    bits_written hlt (by omega) (by omega), ofNat_bits v 0 63 rfl, bits_toNat v 64 71 rfl, ofNat_bits v 160 191 rfl, after_updDev]
  rfl

end Sys2Proof.Machine

namespace Sys2Proof

open Machine

/-- Settles O23: an access names its register by its offset, the write splices the bytes into what the register reads as, and the fields that the
register's own step takes from that value are those written, or those that stood there. -/
theorem controlWritesAreTheNamedSteps : Obligations.ControlWritesAreTheNamedSteps := by
  unfold Obligations.ControlWritesAreTheNamedSteps
  intro s
  refine ⟨fun c v hc => ?_, fun c v hc => ?_, fun v => ?_, fun q v hq => ?_, fun d v hd => ?_, fun c st len hc => ?_, fun c fid am rpc hc => ?_,
    fun c t1 t2 hc => ⟨?_, ?_⟩, fun c hc => ⟨fun hnone => ?_, fun v hv => ⟨fun hstate => ?_, fun hstate ci => ⟨?_, ?_, ?_⟩⟩⟩, fun hup v => ⟨?_, ?_⟩,
    fun off bs x o hreg hx => ?_, fun off bs hreg => ?_⟩
  · exact run_controlWrite (bytesLE_length _ _) (regAt_quantum hc) (by rw [writeItem, ofNat_written _ 2 rfl])
  · exact run_controlWrite (bytesLE_length _ _) (regAt_cisthw hc) (by rw [writeItem, ofNat_written _ 2 rfl])
  · exact run_controlWrite (bytesLE_length _ _) regAt_nonce (by rw [writeItem, ofNat_written _ 32 rfl])
  · exact run_controlWrite (bytesLE_length _ _) (regAt_queue hq) (by rw [writeItem, ofNat_written _ 16 rfl])
  · exact run_controlWrite (bytesLE_length _ _) (regAt_route hd) (by rw [writeItem, ofNat_written _ 4 rfl])
  · exact run_controlWrite (by rw [List.length_append, bytesLE_length, bytesLE_length]) (regAt_inval hc) (by rw [writeItem_inval])
  · have hpage (a : Nat) (ha : a < 4) (p : DWord) : exec (.controlSpaceWrite (0x1000000 + 4096 * c)
        (bytesLE 32 (fid.toNat + a * 2 ^ 32 + am.toNat * 2 ^ 128 + p.toNat * 2 ^ 192))) s = run (ifUp (answer c fid am (Action.ofCode a) p)) s :=
      run_controlWrite (bytesLE_length _ _) (regAt_answer hc) (by rw [writeItem_answer _ _ _ _ _ _ ha])
    exact ⟨hpage 0 (by omega) 0, hpage 1 (by omega) 0, hpage 2 (by omega) 0, hpage 3 (by omega) rpc⟩
  · exact run_controlWrite (bytesLE_length _ _) (regAt_preempt hc) (by rw [writeItem_preemptStart])
  · exact run_controlWrite (bytesLE_length _ _) (regAt_preempt hc) (by rw [writeItem_preemptResume])
  · refine run_controlWrite (bytesLE_length _ _) (regAt_context hc (by omega) rfl (by simp [Item.fields])) ?_
    have hctx : s.ctx c = Ctx.start := by simp only [State.ctx, Map.getD, hnone, Option.getD_none]
    rw [natLE_bytesLE_of_lt (by omega), State.item, hctx]
    exact after_writeState_open hc hnone
  · refine run_controlWrite (bytesLE_length _ _) (regAt_context hc (by omega) rfl (by simp [Item.fields])) ?_
    rw [natLE_bytesLE_of_lt (by omega), State.item, ctx_of_get? hv]
    exact after_writeState_close hv hstate
  · exact run_controlWrite (bytesLE_length _ _) (regAt_context hc (by omega) rfl (by simp [Item.fields])) (after_writeContext_ci hc hv ci 60 .fault (after_writeCi hv hstate ci).1)
  · exact run_controlWrite (bytesLE_length _ _) (regAt_context hc (by omega) rfl (by simp [Item.fields])) (after_writeContext_ci hc hv ci 68 .error (after_writeCi hv hstate ci).2.1)
  · exact run_controlWrite (bytesLE_length _ _) (regAt_context hc (by omega) rfl (by simp [Item.fields])) (after_writeContext_ci hc hv ci 76 .completion (after_writeCi hv hstate ci).2.2)
  · refine (run_controlWrite (a := writePower _) (bytesLE_length _ _) regAt_power rfl).trans (run_ifUp_of_after hup (after_writePower_written s _ v))
  · refine (run_controlWrite (a := writeRing _ 0 32) (bytesLE_length _ _) regAt_ring rfl).trans (run_ifUp_of_after hup (after_writeRing_written s _ v))
  · exact run_of_after (after_controlWrite_readOnly hreg hx)
  · exact run_of_after (by rw [after_eq, show controlWrite off bs s = [] by simp only [controlWrite, hreg], applyAll_nil])

end Sys2Proof
end

section
/-! PROOFS. Lane operations at a ditch controller (R299, R301, R302, R305): what each leaves, and that a ditch is a queue. -/

namespace Sys2Proof.Machine

open Sys2Proof

/-! ### The operations -/

theorem after_updPort' {s : State} {cl p : Nat} {d : Ditch} (h : (s.cluster cl).ports.get? p = some d) (f : Ditch → Ditch) :
    s.after (updPort' cl p f) = { s with clusters := s.clusters.set cl { s.cluster cl with ports := (s.cluster cl).ports.set p (f d) } } := by
  rw [updPort', after_updCluster, h]

/-- A lane no longer parked at an operation of a ditch. -/
def Lane.leaveDitch (l : Lane) (id : Nat) : Lane :=
  { l with parks := { l.parks with queue := if l.parks.queue = some (.ditch id) then none else l.parks.queue } }

theorem after_endDop {s : State} {o : DOp} {l : Lane} (hl : s.lanes.get? o.lane = some l) (cl : Nat) : s.after (endDop cl o) = { s with
    clusters := s.clusters.set cl { s.cluster cl with dops := (s.cluster cl).dops.filter fun x => x.id != o.id },
    lanes := s.lanes.set o.lane (l.leaveDitch o.id) } := by
  rw [endDop, after_all_cons, after_updCluster, after_all_cons, after_updParks _ o.lane _ l ?_, after_all_nil]
  · rfl
  · exact hl

section Dop

variable {s : State} {cl : Nat} {o : DOp} {d : Ditch} {l : Lane}

/-- The operation done: the ditch is `x`, and the lane, which goes on, has the results `rs`. -/
def State.dopDone (s : State) (cl : Nat) (o : DOp) (l : Lane) (x : Ditch) (rs : List Result) : State := { s with
  clusters := s.clusters.set cl { s.cluster cl with
    ports := (s.cluster cl).ports.set o.port x, dops := (s.cluster cl).dops.filter fun x => x.id != o.id },
  lanes := s.lanes.set o.lane { l.leaveDitch o.id with results := rs } }

theorem after_stepDitchOp (hfind : (s.cluster cl).dops.find? (fun x => x.id == o.id) = some o) (hready : s.dopReady cl o = true) :
    s.after (stepDitchOp cl o.id) = s.after (performDop cl o) := by
  rw [after_eq, after_eq]
  simp only [stepDitchOp, hfind, hready, if_true]

variable (hport : (s.cluster cl).ports.get? o.port = some d) (hl : s.lanes.get? o.lane = some l)

include hport hl

/-- The ditch changes, and the operation ends. -/
theorem after_updPort'_endDop (f : Ditch → Ditch) :
    (s.after (updPort' cl o.port f)).after (endDop cl o) = s.dopDone cl o l (f d) l.results := by
  rw [after_updPort' hport, after_endDop (l := l) ?_, State.dopDone, cluster_set, if_pos rfl, Map.set_set]
  · rfl
  · exact hl

theorem after_performDop_push {ws : List Word} (hkind : o.kind = .push ws) : s.after (performDop cl o) = s.dopDone cl o l (d.push ws) l.results := by
  have hmeans : performDop cl o s = Act.all [updPort' cl o.port fun d => d.push ws, endDop cl o] s := by
    simp only [performDop, hport, hkind]
  rw [after_eq, hmeans, ← after_eq, after_all_cons, after_all_cons, after_all_nil, after_updPort'_endDop hport hl]

theorem after_performDop_reset (hkind : o.kind = .reset) : s.after (performDop cl o) = s.dopDone cl o l d.reset l.results := by
  have hmeans : performDop cl o s = Act.all [updPort' cl o.port Ditch.reset, endDop cl o] s := by
    simp only [performDop, hport, hkind]
  rw [after_eq, hmeans, ← after_eq, after_all_cons, after_all_cons, after_all_nil, after_updPort'_endDop hport hl]

/-- What a pop answers. -/
def Lane.answered (l : Lane) (res : Nat) (ws : Writes) : List Result := l.results.map fun x => if x.id = res then { x with vals := some ws } else x

section Pop

variable {try_ : Bool} {reg n res : Nat} {p : Option Nat} (hkind : o.kind = .pop try_ reg n p res)

include hkind

theorem after_performDop_pop (hcan : (s.cluster cl).can { o with kind := .pop false reg n p res } = true) :
    s.after (performDop cl o) = s.dopDone cl o l (d.drop 1)
      (l.answered res (((d.slot d.cptr).zipIdx.map fun w => (reg + w.2, w.1)) ++ p.toList.map fun q => (0x100 + q, 1))) := by
  have hmeans : performDop cl o s = Act.all [updPort' cl o.port fun d => d.drop 1, endDop cl o,
      updLane o.lane fun l => l.resolve res (ditchWrites reg n p (some (d.slot d.cptr)))] s := by
    simp only [performDop, hport, hkind, hcan]
    rfl
  rw [after_eq, hmeans, ← after_eq, after_all_cons, after_all_cons, after_all_cons, after_all_nil, after_updPort'_endDop hport hl, State.dopDone,
    after_updLane _ o.lane _ _ (Map.get?_set_self _ _ _), Map.set_set]
  rfl

theorem after_performDop_pop_none (hcan : (s.cluster cl).can { o with kind := .pop false reg n p res } = false) :
    s.after (performDop cl o) = s.dopDone cl o l d
      (l.answered res (((List.replicate n (0 : Word)).zipIdx.map fun w => (reg + w.2, w.1)) ++ p.toList.map fun q => (0x100 + q, 0))) := by
  have hmeans : performDop cl o s = Act.all [Act.skip, endDop cl o, updLane o.lane fun l => l.resolve res (ditchWrites reg n p none)] s := by
    simp only [performDop, hport, hkind, hcan]
    rfl
  have hskip : s.after Act.skip = s := rfl
  rw [after_eq, hmeans, ← after_eq, after_all_cons, after_all_cons, after_all_cons, after_all_nil, hskip, after_endDop hl,
    after_updLane _ o.lane _ _ (Map.get?_set_self _ _ _), Map.set_set, State.dopDone, Map.set_get? _ _ _ hport]
  rfl

end Pop

end Dop

/-! ### A ditch is a queue (R299, R305) -/

section Queue

variable {d : Ditch}

theorem slot_push_pptr (ws : List Word) : (d.push ws).slot d.pptr = ws := Map.getD_set_self _ _ _ _

/-- A push adds an entry behind those held. -/
theorem held_push (hlgn : d.lgn < 32) (hroom : d.held < 2 ^ d.lgn) (ws : List Word) : (d.push ws).held = d.held + 1 := by
  have hle : 2 ^ d.lgn ≤ 2 ^ 31 := Nat.pow_le_pow_right (by omega) (by omega)
  have hheld : d.held = (d.pptr - d.cptr).toNat := rfl
  have hpush : (d.push ws).held = (d.pptr - d.cptr + 1).toNat := by
    have hcomm : d.pptr + 1 - d.cptr = d.pptr - d.cptr + 1 := by ring
    simp only [Ditch.held, Ditch.push, hcomm]
  rw [hpush, hheld]
  bv_omega

/-- It leaves them: fewer than the slots are held, so the new one's is another. -/
theorem slot_push_held (hlgn : d.lgn < 32) (hroom : d.held < 2 ^ d.lgn) (ws : List Word) {i : Nat} (hi : i < d.held) :
    (d.push ws).slot (d.cptr + BitVec.ofNat 32 i) = d.slot (d.cptr + BitVec.ofNat 32 i) := by
  have hheld : d.held = (d.pptr - d.cptr).toNat := rfl
  have hpptr : d.pptr.toNat = (d.cptr.toNat + d.held) % 2 ^ 32 := by bv_omega
  have hcptr : (d.cptr + BitVec.ofNat 32 i).toNat = (d.cptr.toNat + i) % 2 ^ 32 := by simp
  have hdvd : 2 ^ d.lgn ∣ 2 ^ 32 := Nat.pow_dvd_pow 2 (by omega)
  refine Map.getD_set_ne _ _ _ fun heq => ?_
  have hlgn : (d.push ws).lgn = d.lgn := rfl
  rw [hlgn, hpptr, hcptr, Nat.mod_mod_of_dvd _ hdvd, Nat.mod_mod_of_dvd _ hdvd] at heq
  have hmod : i % 2 ^ d.lgn = d.held % 2 ^ d.lgn := Nat.ModEq.add_left_cancel' d.cptr.toNat heq
  rw [Nat.mod_eq_of_lt (hi.trans hroom), Nat.mod_eq_of_lt hroom] at hmod
  exact absurd hmod hi.ne

theorem held_reset : d.reset.held = 0 := by simp [Ditch.held, Ditch.reset]

theorem held_drop (h : 0 < d.held) : (d.drop 1).held = d.held - 1 := by
  have hheld : d.held = (d.pptr - d.cptr).toNat := rfl
  have hdrop : (d.drop 1).held = (d.pptr - d.cptr - 1).toNat := by
    have hcomm : d.pptr - (d.cptr + 1) = d.pptr - d.cptr - 1 := by ring
    simp only [Ditch.held, Ditch.drop]
    exact congrArg BitVec.toNat hcomm
  rw [hdrop]
  bv_omega

end Queue

end Sys2Proof.Machine

namespace Sys2Proof

open Machine

/-- Settles O54: what a performed operation leaves, by its kind; no fault record is made, so the order of records holds nothing back. A ditch that is
not full has a slot besides those of the entries held, and its pointers count modulo 2^32. -/
theorem ditchesAreQueues : Obligations.DitchesAreQueues := by
  unfold Obligations.DitchesAreQueues
  refine ⟨fun s cl o d l hfind hready hport hl hold => ?_, fun d ws hlgn hroom => ⟨held_push hlgn hroom ws, slot_push_pptr ws,
    fun i hi => slot_push_held hlgn hroom ws hi, held_reset, fun h => ⟨held_drop h, rfl, rfl⟩⟩⟩
  have hrun {x : Ditch} {rs : List Result} (h : s.after (performDop cl o) = s.dopDone cl o l x rs) :
      exec (.ditchControllerOp cl o.id) s = .next (s.dopDone cl o l x rs).settled := by
    have hstep := (after_stepDitchOp hfind hready).trans h
    exact run_of_after ((after_recordsInOrder_of_ctxs_eq s _ (by rw [hstep]; rfl) hold).trans hstep)
  refine ⟨fun hkind => hrun (after_performDop_reset hport hl hkind), fun ws hkind => hrun (after_performDop_push hport hl hkind),
    fun try_ reg n p res hkind => ⟨fun hcan => hrun (after_performDop_pop hport hl hkind hcan),
      fun hcan => hrun (after_performDop_pop_none hport hl hkind hcan)⟩⟩

end Sys2Proof
end

section
/-! PROOFS. GANG_PLACE, WORKGROUP_ACTIVATE and QUANTUM_TICK (R338, R340 to R343): what each leaves. -/

namespace Sys2Proof

/-- A map with several entries set, one after another. -/
def Map.setAll {κ α : Type} [DecidableEq κ] (m : Map κ α) (es : List (κ × α)) : Map κ α := es.foldl (fun m e => m.set e.1 e.2) m

section SetAll

variable {κ α : Type} [DecidableEq κ]

theorem Map.setAll_cons (m : Map κ α) (e : κ × α) (es : List (κ × α)) : m.setAll (e :: es) = (m.set e.1 e.2).setAll es := rfl

theorem Map.setAll_append (m : Map κ α) (ds es : List (κ × α)) : m.setAll (ds ++ es) = (m.setAll ds).setAll es := List.foldl_append

theorem Map.get?_setAll_of_not_mem {m : Map κ α} {es : List (κ × α)} {k : κ} (h : ∀ e ∈ es, e.1 ≠ k) : (m.setAll es).get? k = m.get? k := by
  induction es generalizing m with
  | nil => rfl
  | cons e es ih =>
    rw [Map.setAll_cons, ih fun d hd => h d (List.mem_cons_of_mem _ hd), Map.get?_set_ne _ _ (h e List.mem_cons_self).symm]

/-- Every entry set for a key has this value. -/
theorem Map.get?_setAll {m : Map κ α} {es : List (κ × α)} {k : κ} {v : α} (hmem : (k, v) ∈ es) (hsame : ∀ e ∈ es, e.1 = k → e.2 = v) :
    (m.setAll es).get? k = some v := by
  induction es generalizing m with
  | nil => exact absurd hmem List.not_mem_nil
  | cons e es ih =>
    rw [Map.setAll_cons]
    by_cases hes : (k, v) ∈ es
    · exact ih hes fun d hd => hsame d (List.mem_cons_of_mem _ hd)
    · obtain rfl : (k, v) = e := (List.mem_cons.1 hmem).resolve_right hes
      rw [Map.get?_setAll_of_not_mem fun d hd hkey => hes ?_, Map.get?_set_self]
      have hval := hsame d (List.mem_cons_of_mem _ hd) hkey
      rwa [← hkey, ← hval]

end SetAll

end Sys2Proof

namespace Sys2Proof.Machine

open Sys2Proof

theorem each_map {α β : Type} (xs : List α) (f : α → β) (g : β → Act) : Act.each (xs.map f) g = Act.each xs fun x => g (f x) := by
  rw [Act.each, List.map_map]
  rfl

/-! ### Entries set -/

section Sets

variable {α : Type} (s : State) (xs : List α)

theorem after_each_setWg (key : α → Nat) (val : α → Wg) : s.after (Act.each xs fun x => fun _ => [.wg (key x) (some (val x))]) =
    { s with wgs := s.wgs.setAll (xs.map fun x => (key x, val x)) } := by
  induction xs generalizing s with
  | nil => rfl
  | cons x xs ih => rw [after_each_cons, ih, List.map_cons, Map.setAll_cons]; rfl

theorem after_each_setLane (key : α → LaneId) (val : α → Lane) : s.after (Act.each xs fun x => fun _ => [.lane (key x) (some (val x))]) =
    { s with lanes := s.lanes.setAll (xs.map fun x => (key x, val x)) } := by
  induction xs generalizing s with
  | nil => rfl
  | cons x xs ih => rw [after_each_cons, ih, List.map_cons, Map.setAll_cons]; rfl

theorem after_each_each_setLane {β : Type} (ys : List β) (key : α → β → LaneId) (val : α → β → Lane) :
    s.after (Act.each xs fun x => Act.each ys fun y => fun _ => [.lane (key x y) (some (val x y))]) =
    { s with lanes := s.lanes.setAll (xs.flatMap fun x => ys.map fun y => (key x y, val x y)) } := by
  induction xs generalizing s with
  | nil => rfl
  | cons x xs ih => rw [after_each_cons, ih, after_each_setLane, List.flatMap_cons, Map.setAll_append]

theorem after_each_setCrew (key : α → CrewId) (val : α → Crew) : s.after (Act.each xs fun x => fun _ => [.crew (key x) (some (val x))]) =
    { s with crews := s.crews.setAll (xs.map fun x => (key x, val x)) } := by
  induction xs generalizing s with
  | nil => rfl
  | cons x xs ih => rw [after_each_cons, ih, List.map_cons, Map.setAll_cons]; rfl

end Sets

/-! ### Weirs initialised (R378, R379) -/

/-- A workgroup with a weir at an offset. -/
def Wg.withWeir (w : Wg) (off : Nat) : Wg := { w with weirs := if w.weirs.contains off then w.weirs else w.weirs ++ [off] }

theorem wgOfKey_scratchKey {w off : Nat} (h : off < 2 ^ 22) : wgOfKey (scratchKey w off) = w ∧ offOfKey (scratchKey w off) = off := by
  unfold wgOfKey offOfKey scratchKey
  omega

theorem get?_wgs_after_updWg (s : State) (k j : Nat) (f : Wg → Wg) :
    (s.after (updWg k f)).wgs.get? j = (s.wgs.get? j).map fun v => if j = k then f v else v := by
  cases h : s.wgs.get? k with
  | none =>
    rw [after_eq, show updWg k f s = [] by simp only [updWg, h], applyAll_nil]
    by_cases hj : j = k
    · rw [hj, h]
      rfl
    · simp [hj]
  | some v =>
    rw [after_updWg s k f v h]
    by_cases hj : j = k
    · subst hj
      simp [h]
    · simp [hj, Map.get?_set_ne _ _ hj]

theorem after_updWg_frame (s : State) (k : Nat) (f : Wg → Wg) : s.after (updWg k f) = { s with wgs := (s.after (updWg k f)).wgs } := by
  rw [after_eq]
  simp only [updWg]
  split <;> rfl

/-- An action that changes workgroups and memory alone, memory as memory and the device alone tell. -/
def Act.Local (a : Act) : Prop := (∀ s : State, s.after a = { s with mem := (s.after a).mem, wgs := (s.after a).wgs }) ∧
  ∀ s t : State, t.mem = s.mem → t.dev = s.dev → (t.after a).mem = (s.after a).mem

theorem local_all {as : List Act} (h : ∀ a ∈ as, a.Local) : (Act.all as).Local := by
  induction as with
  | nil => exact ⟨fun _ => rfl, fun _ _ hmem _ => hmem⟩
  | cons a as ih =>
    obtain ⟨hframe, hmems⟩ := h a List.mem_cons_self
    obtain ⟨hframes, hrest⟩ := ih fun b hb => h b (List.mem_cons_of_mem _ hb)
    have hdev (s : State) : (s.after a).dev = s.dev := by rw [hframe s]
    refine ⟨fun s => ?_, fun s t hmem hdevs => ?_⟩
    · rw [after_all_cons, hframes, hframe s]
    · rw [after_all_cons, after_all_cons]
      exact hrest _ _ (hmems s t hmem hdevs) (by rw [hdev, hdev, hdevs])

theorem local_each {α : Type} {xs : List α} {f : α → Act} (h : ∀ x ∈ xs, (f x).Local) : (Act.each xs f).Local := local_all (List.forall_mem_map.2 h)

theorem local_storeBytes (key : Nat) (bs : List Byte) : (storeBytes key bs).Local := by
  constructor
  · intro s
    have hframe := after_storeBytes_frame s key bs
    generalize s.after (storeBytes key bs) = t at hframe ⊢
    have hwgs : t.wgs = s.wgs := by rw [hframe]
    rw [hwgs]
    exact hframe
  · intro s t hmem hdev
    exact mem_after_storeBytes_congr (s := s) (t := t) hmem hdev key bs

theorem local_updWg (k : Nat) (f : Wg → Wg) : (updWg k f).Local :=
  ⟨fun s => by rw [after_updWg_frame], fun s t hmem _ => by rw [after_updWg_frame s, after_updWg_frame t]; exact hmem⟩

theorem local_weirInit (key e : Nat) : (weirInit key e).Local := local_all fun a ha => by
  obtain rfl | ha := List.mem_cons.1 ha
  · exact local_updWg _ _
  · obtain rfl := List.mem_singleton.1 ha
    exact local_storeBytes _ _

theorem after_local_updLaunch {t : State} {a : Act} (ha : a.Local) {n : Nat} {l : Launch} (hl : t.launches.get? n = some l) (f : Launch → Launch) :
    t.after (Act.all [a, updLaunch n f]) = { t with mem := (t.after a).mem, wgs := (t.after a).wgs, launches := t.launches.set n (f l) } := by
  rw [after_all_cons, ha.1 t, after_all_cons, after_all_nil]
  exact after_updLaunch { t with mem := (t.after a).mem, wgs := (t.after a).wgs } n f l hl

theorem get?_wgs_after_weirInit (s : State) {w off : Nat} (h : off < 2 ^ 22) (e j : Nat) :
    (s.after (weirInit (scratchKey w off) e)).wgs.get? j = (s.wgs.get? j).map fun v => if j = w then v.withWeir off else v := by
  obtain ⟨hw, hoff⟩ := wgOfKey_scratchKey (w := w) h
  have hstore (t : State) (key : Nat) (bs : List Byte) : (t.after (storeBytes key bs)).wgs = t.wgs := by rw [after_storeBytes_frame]
  rw [weirInit, after_all_cons, after_all_cons, after_all_nil, hstore, hw, hoff, get?_wgs_after_updWg]
  rfl

theorem get?_wgs_after_weirInits (s : State) {ds : List (Nat × Nat)} (h : ∀ x ∈ ds, x.1 < 2 ^ 22) (w j : Nat) :
    (s.after (Act.each ds fun x => weirInit (scratchKey w x.1) x.2)).wgs.get? j =
      (s.wgs.get? j).map fun v => if j = w then (ds.map (·.1)).foldl Wg.withWeir v else v := by
  induction ds generalizing s with
  | nil => simp
  | cons d ds ih =>
    rw [after_each_cons, ih _ fun x hx => h x (List.mem_cons_of_mem _ hx), get?_wgs_after_weirInit s (h d List.mem_cons_self), Option.map_map]
    refine congrArg (Option.map · _) (funext fun v => ?_)
    by_cases hj : j = w
    · simp [hj]
    · simp [hj]

theorem get?_wgs_after_allWeirs (s : State) {ds : List (Nat × Nat)} (h : ∀ x ∈ ds, x.1 < 2 ^ 22) {ws : List Nat} (hws : ws.Nodup) (j : Nat) :
    (s.after (Act.each ws fun w => Act.each ds fun x => weirInit (scratchKey w x.1) x.2)).wgs.get? j =
      (s.wgs.get? j).map fun v => if j ∈ ws then (ds.map (·.1)).foldl Wg.withWeir v else v := by
  induction ws generalizing s with
  | nil => simp
  | cons w ws ih =>
    obtain ⟨hw, hws⟩ := List.nodup_cons.1 hws
    rw [after_each_cons, ih _ hws, get?_wgs_after_weirInits s h, Option.map_map]
    refine congrArg (Option.map · _) (funext fun v => ?_)
    by_cases hj : j = w
    · subst hj
      simp [hw]
    · simp [hj]

/-- Only the weirs change. -/
theorem foldl_withWeir (v : Wg) (offs : List Nat) : ∃ ws, offs.foldl Wg.withWeir v = { v with weirs := ws } ∧ ∀ o, o ∈ ws ↔ o ∈ v.weirs ∨ o ∈ offs := by
  induction offs generalizing v with
  | nil => exact ⟨v.weirs, rfl, fun o => by simp⟩
  | cons off offs ih =>
    obtain ⟨ws, hws, hmem⟩ := ih (v.withWeir off)
    refine ⟨ws, by rw [List.foldl_cons, hws]; rfl, fun o => ?_⟩
    have hone : o ∈ (v.withWeir off).weirs ↔ o ∈ v.weirs ∨ o = off := by
      simp only [Wg.withWeir]
      split
      · next hin =>
        rw [List.contains_iff_mem] at hin
        exact ⟨Or.inl, fun ho => ho.elim id fun heq => heq ▸ hin⟩
      · rw [List.mem_append, List.mem_singleton]
    rw [hmem, hone, List.mem_cons, or_assoc]

theorem after_updCluster_updCluster (s : State) (n : Nat) (f g : Cluster → Cluster) :
    (s.after (updCluster n f)).after (updCluster n g) = { s with clusters := s.clusters.set n (g (f (s.cluster n))) } := by
  rw [after_updCluster, after_updCluster, cluster_set, if_pos rfl, Map.set_set]

/-! ### GANG_PLACE (R338) -/

section Place

variable (s : State) (n cl idx rel : Nat) (stk und cores : List Nat) (l : Launch) (c : Ctx)

/-- The workgroups of the gang: identifier and index. -/
def State.newWgs (s : State) (l : Launch) : List (Nat × Nat) := (List.range l.desc.gang).map fun i => (s.fresh + 1 + i, i)

/-- The gang. -/
def State.newGang (s : State) (n cl idx rel : Nat) (l : Launch) : Gang :=
  { launch := n, ctx := l.ctx, idx := idx, relaunch := rel, cluster := cl, wgs := (s.newWgs l).map (·.1), started := false, startedAt := s.now,
    kill := none, ended := false, phases := [] }

/-- A workgroup of the gang, parked. -/
def State.newWg (s : State) (cl : Nat) (cores : List Nat) (l : Launch) (i : Nat) : Wg :=
  { ctx := l.ctx, gang := s.fresh, idx := i, core := 4 * cl + (cores[i]?).getD 0, kdi := l.kdi, desc := l.desc, active := false,
    begun := false, place := [], crewOf := [], parkedAt := s.now, activeAt := s.now, parking := false, exited := false,
    freed := false, sregs := [], weirs := [], retiring := [], phases := [], answers := [], saddleOwed := [], exitMark := 0 }

/-- A lane of the gang, at the descriptor's entry. -/
def newLane (stk und : List Nat) (l : Launch) (c : Ctx) (i j : Nat) : Lane :=
  Lane.start l.desc.entry (c.stkva + BitVec.ofNat 64 ((stk[i * l.desc.lanes + j]?).getD 0))
    (c.stkva + BitVec.ofNat 64 ((stk[i * l.desc.lanes + j]?).getD 0) + BitVec.ofNat 64 l.desc.stack)
    (c.undob.toNat + (und[i * l.desc.lanes + j]?).getD 0)

/-- The gang, its workgroups and lanes entered, and the cluster's ports and segments taken; its weirs are not initialised yet. -/
def State.admitted : State := { s with
  fresh := s.fresh + 1 + l.desc.gang,
  gangs := s.gangs.set s.fresh (s.newGang n cl idx rel l),
  wgs := s.wgs.setAll ((s.newWgs l).map fun w => (w.1, s.newWg cl cores l w.2)),
  lanes := s.lanes.setAll ((s.newWgs l).flatMap fun w => (List.range l.desc.lanes).map fun j => (⟨w.1, j⟩, newLane stk und l c w.2 j)),
  clusters := s.clusters.set cl (configurePorts s.fresh
    (takeAllSegs l.desc.segs ((s.cluster cl).dropClean fun _ _ => true) ((s.newWgs l).map (·.1))) (c.ditches l.desc)) }

/-- The weirs of workgroups initialised. -/
def initWeirs (c : Ctx) (d : Desc) (ids : List Nat) : Act := Act.each ids fun w => Act.each (c.weirs d) fun x => weirInit (scratchKey w x.1) x.2

theorem local_initWeirs (c : Ctx) (d : Desc) (ids : List Nat) : (initWeirs c d ids).Local :=
  local_each fun _ _ => local_each fun _ _ => local_weirInit _ _

/-- The launch with its next gang placed. -/
def Launch.placed (l : Launch) (idx rel : Nat) : Launch := { l with
  again := l.again.filter fun x => decide (x ≠ (idx, rel)), next := if l.again.isEmpty then l.next + 1 else l.next }

/-- The gang placed. -/
def State.placed : State := { s.admitted n cl idx rel stk und cores l c with
  mem := (s.after (initWeirs c l.desc ((s.newWgs l).map (·.1)))).mem,
  wgs := ((s.admitted n cl idx rel stk und cores l c).after (initWeirs c l.desc ((s.newWgs l).map (·.1)))).wgs,
  launches := s.launches.set n (l.placed idx rel) }

variable {s n cl idx rel stk und cores l c}

theorem after_stepPlace (hl : s.launches.get? n = some l) (hc : s.ctxs.get? l.ctx = some c) (hnext : l.nextGang = some (idx, rel))
    (hup : s.dev.up = true) (hcl : cl < 144) (hplaceable : s.placeable l = true) (hfits : s.fits l cl = true)
    (hfirst : ∀ m ∈ s.launches, m.2.before l = true → s.placeable m.2 = true → ∀ i < 144, s.fits m.2 i = false)
    (hcores : cores.length = l.desc.gang) (hnodup : cores.Nodup) (hslots : ∀ i ∈ cores, i < 4 ∧ 0 < s.freeSlots (4 * cl + i))
    (hstk : stk.length = l.desc.gang * l.desc.lanes)
    (hstkOk : piecesOk (c.stksz.toNat * 65536) l.desc.stack 16 (s.stacks l.ctx c) stk = true)
    (hund : und.length = l.desc.gang * l.desc.lanes) (hundOk : piecesOk (c.undosz.toNat * 65536) l.desc.undo 1 (s.undos l.ctx c) und = true) :
    s.after (stepPlace n cl cores stk und) = s.placed n cl idx rel stk und cores l c := by
  have hother : (s.launches.all fun m => !m.2.before l || !(s.placeable m.2 && (List.range 144).any (s.fits m.2))) = true := by
    refine List.all_eq_true.2 fun m hm => ?_
    cases hbefore : m.2.before l with
    | false => rfl
    | true =>
      cases hplace : s.placeable m.2 with
      | false => rfl
      | true =>
        have hnone : (List.range 144).any (s.fits m.2) = false := List.any_eq_false.2 fun i hi => by
          rw [hfirst m hm hbefore hplace i (List.mem_range.1 hi)]
          exact Bool.false_ne_true
        rw [hnone]
        rfl
  have hslot : (cores.all fun i => decide (i < 4) && decide (0 < s.freeSlots (4 * cl + i))) = true :=
    List.all_eq_true.2 fun i hi => by simp [hslots i hi]
  have hmeans : stepPlace n cl cores stk und s = Act.all [
      fun _ => [.fresh (s.fresh + 1 + l.desc.gang)],
      fun _ => [.gang s.fresh (some (s.newGang n cl idx rel l))],
      Act.each (s.newWgs l) fun w => fun _ => [.wg w.1 (some (s.newWg cl cores l w.2))],
      Act.each (s.newWgs l) fun w => Act.each (List.range l.desc.lanes) fun j => fun _ => [.lane ⟨w.1, j⟩ (some (newLane stk und l c w.2 j))],
      dropCleanAll cl,
      updCluster cl fun k => configurePorts s.fresh (takeAllSegs l.desc.segs k ((s.newWgs l).map (·.1))) (c.ditches l.desc),
      Act.each (s.newWgs l) fun w => Act.each (c.weirs l.desc) fun x => weirInit (scratchKey w.1 x.1) x.2,
      updLaunch n fun v => v.placed idx rel] s := by
    simp only [stepPlace, hl, hc, hnext, hup, hcl, hplaceable, hfits, hother, hcores, hnodup, hslot, hstk, hstkOk, hund, hundOk, decide_true,
      Bool.and_self, Bool.not_true, Bool.false_eq_true, if_false]
    rfl
  have hweirs : (Act.each (s.newWgs l) fun w => Act.each (c.weirs l.desc) fun x => weirInit (scratchKey w.1 x.1) x.2) =
      initWeirs c l.desc ((s.newWgs l).map (·.1)) := by
    rw [initWeirs, each_map]
  have hadmitted : (((((s.after fun _ => [.fresh (s.fresh + 1 + l.desc.gang)]).after
      fun _ => [.gang s.fresh (some (s.newGang n cl idx rel l))]).after
      (Act.each (s.newWgs l) fun w => fun _ => [.wg w.1 (some (s.newWg cl cores l w.2))])).after
      (Act.each (s.newWgs l) fun w => Act.each (List.range l.desc.lanes) fun j => fun _ => [.lane ⟨w.1, j⟩ (some (newLane stk und l c w.2 j))])).after
      (dropCleanAll cl)).after
      (updCluster cl fun k => configurePorts s.fresh (takeAllSegs l.desc.segs k ((s.newWgs l).map (·.1))) (c.ditches l.desc)) =
      s.admitted n cl idx rel stk und cores l c := by
    rw [after_each_setWg, after_each_each_setLane, dropCleanAll, after_updCluster_updCluster]
    rfl
  have hlocal := local_initWeirs c l.desc ((s.newWgs l).map (·.1))
  rw [after_eq, hmeans, ← after_eq, hweirs, after_all_cons, after_all_cons, after_all_cons, after_all_cons, after_all_cons, after_all_cons, hadmitted,
    after_local_updLaunch (t := s.admitted n cl idx rel stk und cores l c) hlocal hl, State.placed,
    hlocal.2 s (s.admitted n cl idx rel stk und cores l c) rfl rfl]
  rfl

theorem newWgs_fst : (s.newWgs l).map (·.1) = (List.range l.desc.gang).map (s.fresh + 1 + ·) := by
  rw [State.newWgs, List.map_map]
  rfl

theorem nodup_newWgs : ((s.newWgs l).map (·.1)).Nodup := by
  rw [newWgs_fst]
  exact List.nodup_range.map fun _ _ h => Nat.add_left_cancel h

theorem mem_newWgs {w : Nat × Nat} : w ∈ s.newWgs l ↔ w.2 < l.desc.gang ∧ w.1 = s.fresh + 1 + w.2 := by
  obtain ⟨a, i⟩ := w
  simp only [State.newWgs, List.mem_map, List.mem_range, Prod.mk.injEq]
  constructor
  · rintro ⟨j, hj, rfl, rfl⟩
    exact ⟨hj, rfl⟩
  · rintro ⟨hi, rfl⟩
    exact ⟨i, hi, rfl, rfl⟩

/-- A workgroup of the gang is as it was admitted, with the kernel's weirs. -/
theorem get?_wgs_placed (hweirs : ∀ x ∈ c.weirs l.desc, x.1 < 2 ^ 22) {i : Nat} (hi : i < l.desc.gang) : ∃ ws : List Nat,
    (s.placed n cl idx rel stk und cores l c).wgs.get? (s.fresh + 1 + i) = some { s.newWg cl cores l i with weirs := ws } ∧
    ∀ o, o ∈ ws ↔ ∃ e, (o, e) ∈ c.weirs l.desc := by
  obtain ⟨ws, hws, hmem⟩ := foldl_withWeir (s.newWg cl cores l i) ((c.weirs l.desc).map (·.1))
  refine ⟨ws, ?_, fun o => (hmem o).trans ?_⟩
  · have hin : s.fresh + 1 + i ∈ (s.newWgs l).map (·.1) := by
      rw [newWgs_fst]
      exact List.mem_map_of_mem (List.mem_range.2 hi)
    have hadmitted : (s.admitted n cl idx rel stk und cores l c).wgs.get? (s.fresh + 1 + i) = some (s.newWg cl cores l i) := by
      refine Map.get?_setAll (List.mem_map.2 ⟨(s.fresh + 1 + i, i), mem_newWgs.2 ⟨hi, rfl⟩, rfl⟩) fun e he hkey => ?_
      obtain ⟨w, hw, rfl⟩ := List.mem_map.1 he
      have hw2 : w.2 = i := by have := (mem_newWgs.1 hw).2; simp only at hkey; omega
      rw [hw2]
    exact (get?_wgs_after_allWeirs _ hweirs nodup_newWgs _).trans (by rw [hadmitted, Option.map_some, if_pos hin, hws])
  · simp [State.newWg]

theorem get?_wgs_placed_other (hweirs : ∀ x ∈ c.weirs l.desc, x.1 < 2 ^ 22) {w : Nat} (hw : w < s.fresh + 1 ∨ s.fresh + 1 + l.desc.gang ≤ w) :
    (s.placed n cl idx rel stk und cores l c).wgs.get? w = s.wgs.get? w := by
  have hout : w ∉ (s.newWgs l).map (·.1) := by
    rw [newWgs_fst, List.mem_map]
    rintro ⟨i, hi, rfl⟩
    have := List.mem_range.1 hi
    omega
  have hadmitted : (s.admitted n cl idx rel stk und cores l c).wgs.get? w = s.wgs.get? w := by
    refine Map.get?_setAll_of_not_mem fun e he hkey => hout ?_
    obtain ⟨x, hx, rfl⟩ := List.mem_map.1 he
    exact hkey ▸ List.mem_map_of_mem hx
  refine (get?_wgs_after_allWeirs _ hweirs nodup_newWgs _).trans ?_
  rw [hadmitted]
  simp only [hout, if_false]
  exact Option.map_id'

theorem get?_lanes_placed {i j : Nat} (hi : i < l.desc.gang) (hj : j < l.desc.lanes) :
    (s.placed n cl idx rel stk und cores l c).lanes.get? ⟨s.fresh + 1 + i, j⟩ = some (newLane stk und l c i j) := by
  refine Map.get?_setAll (List.mem_flatMap.2 ⟨(s.fresh + 1 + i, i), mem_newWgs.2 ⟨hi, rfl⟩,
    List.mem_map.2 ⟨j, List.mem_range.2 hj, rfl⟩⟩) fun e he hkey => ?_
  obtain ⟨w, hw, he⟩ := List.mem_flatMap.1 he
  obtain ⟨y, _, rfl⟩ := List.mem_map.1 he
  simp only [LaneId.mk.injEq] at hkey
  have hw2 : w.2 = i := by have := (mem_newWgs.1 hw).2; omega
  rw [hw2, hkey.2]

theorem get?_lanes_placed_other {k : LaneId} (hk : k.wg < s.fresh + 1 ∨ s.fresh + 1 + l.desc.gang ≤ k.wg) :
    (s.placed n cl idx rel stk und cores l c).lanes.get? k = s.lanes.get? k := by
  refine Map.get?_setAll_of_not_mem fun e he hkey => ?_
  obtain ⟨w, hw, he⟩ := List.mem_flatMap.1 he
  obtain ⟨y, _, rfl⟩ := List.mem_map.1 he
  have := mem_newWgs.1 hw
  subst hkey
  simp only at hk
  omega

theorem cluster_placed (x : Nat) : (s.placed n cl idx rel stk und cores l c).cluster x = if x = cl then configurePorts s.fresh
    (takeAllSegs l.desc.segs ((s.cluster cl).dropClean fun _ _ => true) ((s.newWgs l).map (·.1))) (c.ditches l.desc) else s.cluster x := cluster_set s cl x _

end Place

/-! ### WORKGROUP_ACTIVATE (R341) -/

section Activate

variable {s : State} {wg : Nat} {w : Wg} (place : List (Nat × Nat))

/-- The crews of a workgroup's groups. -/
def Wg.crewNos (w : Wg) (place : List (Nat × Nat)) : List Nat := if w.begun then w.crewOf else crewNumbers place

/-- The launch's arguments. -/
def State.argsOf (s : State) (w : Wg) : List Word := (((s.gangs.get? w.gang).bind fun g => s.launches.get? g.launch).map (·.args)).getD []

/-- A peloton slot that was empty: its counts start again. -/
def Peloton.fresh (v : Peloton) : Peloton := { v with agelim := 8, overdue := [] }

theorem after_each_updPeloton_fresh (s : State) (core : Nat) (ps : List Nat) :
    s.after (Act.each ps fun p => updPeloton (core, p) Peloton.fresh) =
      { s with pelotons := (s.after (Act.each ps fun p => updPeloton (core, p) Peloton.fresh)).pelotons } ∧
    ∀ i p, (s.after (Act.each ps fun p => updPeloton (core, p) Peloton.fresh)).peloton i p =
      if i = core ∧ p ∈ ps then (s.peloton i p).fresh else s.peloton i p := by
  induction ps generalizing s with
  | nil => exact ⟨rfl, fun i p => by simp⟩
  | cons q ps ih =>
    rw [after_each_cons, after_updPeloton]
    obtain ⟨hframe, hget⟩ := ih { s with pelotons := s.pelotons.set (core, q) (s.peloton core q).fresh }
    refine ⟨hframe.trans rfl, fun i p => ?_⟩
    rw [hget]
    have hset : State.peloton { s with pelotons := s.pelotons.set (core, q) (s.peloton core q).fresh } i p =
        if i = core ∧ p = q then (s.peloton i p).fresh else s.peloton i p := by
      by_cases h : i = core ∧ p = q
      · obtain ⟨rfl, rfl⟩ := h
        rw [if_pos ⟨rfl, rfl⟩]
        exact Map.getD_set_self _ _ _ _
      · rw [if_neg h]
        exact Map.getD_set_ne _ _ _ fun heq => h ⟨congrArg Prod.fst heq, congrArg Prod.snd heq⟩
    rw [hset]
    by_cases hi : i = core
    · by_cases hp : p ∈ ps
      · by_cases hq : p = q
        · simp [hi, hq, Peloton.fresh]
        · simp [hi, hp, hq]
      · simp [hi, hp]
    · simp [hi]

/-- A lane at its activation. -/
def Lane.awake (l : Lane) : Lane := { l with wait := 0, latch := none, asked := none }

/-- The slots of a placement that no active workgroup of the core is on. -/
def State.emptySlots (s : State) (core : Nat) (place : List (Nat × Nat)) : List Nat :=
  (place.map (·.1)).dedup.filter fun slot => !(s.activeOn core).any fun x => x.2.place.any fun p => p.1 == slot

theorem mem_emptySlots {core p : Nat} {place : List (Nat × Nat)} : p ∈ s.emptySlots core place ↔
    (∃ x ∈ place, x.1 = p) ∧ ∀ y ∈ s.activeOn core, ∀ z ∈ y.2.place, z.1 ≠ p := by
  simp only [State.emptySlots, List.mem_filter, List.mem_dedup, List.mem_map, Bool.not_eq_true', List.any_eq_false, beq_iff_eq, not_exists, not_and,
    List.any_eq_true]

/-- A crew at the first activation of its workgroup, its K registers holding the launch's arguments. -/
def Wg.newCrew (w : Wg) (place : List (Nat × Nat)) (args : List Word) (c : Nat) : Crew :=
  Crew.start (args.zipIdx.map fun a => (a.2, a.1)) (crewLanes w.desc.lanes place (w.crewNos place) c)

/-- A workgroup at its activation. -/
def Wg.awake (w : Wg) (place : List (Nat × Nat)) (now : Nat) (v : Wg) : Wg := { v with
  active := true, begun := true, place := place, crewOf := w.crewNos place, activeAt := now, answers := [], saddleOwed := [] }

/-- What an activation does where no answer and no request for the saddle waits. -/
def State.activation (s : State) (wg : Nat) (w : Wg) (place : List (Nat × Nat)) (args : List Word) : List Act := [
  Act.each (s.emptySlots w.core place) fun p => updPeloton (w.core, p) Peloton.fresh,
  updWg wg (w.awake place s.now),
  Act.when (!w.begun) (Act.each (w.crewNos place).dedup fun c => fun _ => [.crew ⟨wg, c⟩ (some (w.newCrew place args c))]),
  Act.each (s.wgLanes wg) fun k => updLane k Lane.awake,
  Act.skip, Act.skip,
  Act.each (s.wgLanes wg) fun k => fun t => match t.lanes.get? k with
    | some l => match l.err with
      | some e => Act.all [cancelParks k, Act.when (retryable l.regions).isNone (decideKill w.gang e.pc)] t
      | none => []
    | none => []]

theorem after_activate (hw : s.wgs.get? wg = some w) (hanswers : w.answers = []) (howed : w.saddleOwed = [])
    (herr : ∀ k ∈ s.wgLanes wg, ∀ l, s.lanes.get? k = some l → l.err = none) : s.after (activate wg place) = { s with
      pelotons := (s.after (Act.each (s.emptySlots w.core place) fun p => updPeloton (w.core, p) Peloton.fresh)).pelotons,
      wgs := s.wgs.set wg (w.awake place s.now w),
      crews := if w.begun then s.crews else
        s.crews.setAll ((w.crewNos place).dedup.map fun c => (⟨wg, c⟩, w.newCrew place (s.argsOf w) c)),
      lanes := (s.after (Act.each (s.wgLanes wg) fun k => updLane k Lane.awake)).lanes } := by
  have hargs : (match s.gangs.get? w.gang with
      | some g => match s.launches.get? g.launch with | some l => l.args | none => []
      | none => []) = s.argsOf w := by
    unfold State.argsOf
    cases s.gangs.get? w.gang with
    | none => rfl
    | some g => cases h : s.launches.get? g.launch <;> simp [h]
  have hmeans : activate wg place s = Act.all (s.activation wg w place (match s.gangs.get? w.gang with
      | some g => match s.launches.get? g.launch with | some l => l.args | none => []
      | none => [])) s := by
    simp only [activate, hw, hanswers, howed]
    rfl
  have hpelotons := (after_each_updPeloton_fresh s w.core (s.emptySlots w.core place)).1
  have hlanes := after_each_updLane s (s.wgLanes wg) Lane.awake fun _ => rfl
  have hlanes (t : State) (ht : t.lanes = s.lanes) : t.after (Act.each (s.wgLanes wg) fun k => updLane k Lane.awake) =
      { t with lanes := (s.after (Act.each (s.wgLanes wg) fun k => updLane k Lane.awake)).lanes } := by
    rw [← after_each_updLane_lanes_congr ht (s.wgLanes wg) (fun k => k) fun _ => Lane.awake]
    exact (after_each_updLane t (s.wgLanes wg) Lane.awake fun _ => rfl).1
  have hget := (after_each_updLane s (s.wgLanes wg) Lane.awake fun _ => rfl).2
  have hskip (t : State) : t.after Act.skip = t := rfl
  rw [after_eq, hmeans, hargs, ← after_eq, State.activation, after_all_cons, hpelotons, after_all_cons, after_updWg _ wg _ w ?_, after_all_cons, after_when,
    after_each_setCrew, after_all_cons, hlanes, after_all_cons, hskip, after_all_cons, hskip, after_all_cons, after_all_nil,
    after_each_id]
  · cases w.begun <;> rfl
  · intro k hk
    rw [after_fun]
    dsimp only
    rw [hget k]
    cases hl : s.lanes.get? k with
    | none => rfl
    | some l =>
      have hawake : (if k ∈ s.wgLanes wg then l.awake else l).err = none := by
        split <;> exact herr k hk l hl
      simp only [Option.map_some, hawake]
      rfl
  · cases w.begun <;> rfl
  · exact hw

theorem get?_newCrews (s : State) (wg : Nat) (w : Wg) (place : List (Nat × Nat)) {c : Nat} (hc : c ∈ w.crewNos place) :
    (s.crews.setAll ((w.crewNos place).dedup.map fun c => ((⟨wg, c⟩ : CrewId), w.newCrew place (s.argsOf w) c))).get? ⟨wg, c⟩ =
      some (w.newCrew place (s.argsOf w) c) := by
  refine Map.get?_setAll (List.mem_map.2 ⟨c, List.mem_dedup.2 hc, rfl⟩) fun e he hkey => ?_
  obtain ⟨d, _, rfl⟩ := List.mem_map.1 he
  rw [(CrewId.mk.inj hkey).2]

theorem after_stepActivate (hw : s.wgs.get? wg = some w) (heligible : s.eligible w = true)
    (hturn : (s.core w.core).swap = some wg ∨ (s.core w.core).swap = none ∧ ∀ x ∈ s.wgs, x.2.core = w.core → s.eligible x.2 = true →
      s.goesBefore x.2 w = true → x.2.couldJoin (s.activeOn w.core) = false)
    (hplace : w.placeOk (s.activeOn w.core) place = true) :
    s.after (stepActivate wg place) =
      ({ s with cores := s.cores.set w.core { s.core w.core with swap := none } } : State).after (activate wg place) := by
  have hmeans : stepActivate wg place s = Act.all [updCore w.core fun c => { c with swap := none }, activate wg place] s := by
    obtain hswap | ⟨hswap, hfirst⟩ := hturn
    · simp only [stepActivate, hw, heligible, hswap, hplace, beq_self_eq_true, Bool.and_self, if_true]
    · have hall : (s.wgs.all fun x => x.2.core != w.core || !s.eligible x.2 || !s.goesBefore x.2 w || !x.2.couldJoin (s.activeOn w.core)) = true := by
        refine List.all_eq_true.2 fun x hx => ?_
        by_cases hcore : x.2.core = w.core
        · cases helig : s.eligible x.2 with
          | false => simp
          | true =>
            cases hbefore : s.goesBefore x.2 w with
            | false => simp
            | true => simp [hfirst x hx hcore helig hbefore]
        · simp [hcore]
      simp only [stepActivate, hw, heligible, hswap, hplace, hall, Bool.and_self, if_true]
  rw [after_eq, hmeans, ← after_eq, after_all_cons, after_all_cons, after_all_nil, after_updCore]

end Activate

/-! ### QUANTUM_TICK (R342) -/

section Quantum

variable {s : State} {core : Nat} (place : List (Nat × Nat))

theorem after_stepQuantum_early (h : s.now < (s.core core).lastTick + 1200 * (s.core core).quantum.toNat) : s.after (stepQuantum core place) = s := by
  rw [after_eq]
  simp only [stepQuantum, cyclesOf, h, if_true]
  rfl

theorem after_stepQuantum_none (h : (s.core core).lastTick + 1200 * (s.core core).quantum.toNat ≤ s.now)
    (hnone : ∀ w ∈ s.wgs, w.2.core = core → s.eligible w.2 = true → s.now ≤ w.2.parkedAt + 1200 * (s.core core).quantum.toNat) :
    s.after (stepQuantum core place) =
      { s with cores := s.cores.set core { s.core core with quantum := (s.core core).quantumSet, lastTick := s.now } } := by
  have hcands (p : Nat × Wg → Bool) : (s.wgs.filter fun w => w.2.core == core && s.eligible w.2 && s.calm w.2 && p w &&
      decide (w.2.parkedAt + cyclesOf (s.core core).quantum.toNat < s.now)) = [] := by
    refine List.filter_eq_nil_iff.2 fun w hw hand => ?_
    simp only [Bool.and_eq_true, beq_iff_eq, decide_eq_true_eq] at hand
    obtain ⟨⟨⟨⟨hcore, helig⟩, _⟩, _⟩, hlt⟩ := hand
    exact absurd (hnone w hw hcore helig) (Nat.not_le.2 hlt)
  have hmeans : stepQuantum core place s = updCore core (fun v => { v with quantum := v.quantumSet, lastTick := s.now }) s := by
    have hlate : ¬ s.now < (s.core core).lastTick + cyclesOf (s.core core).quantum.toNat := Nat.not_lt.2 h
    simp only [stepQuantum, hlate, if_false]
    rw [hcands, List.mergeSort_nil]
    cases (s.core core).swap <;> rfl
  rw [after_eq, hmeans, ← after_eq, after_updCore]

end Quantum

end Sys2Proof.Machine

namespace Sys2Proof

open Machine

/-- Settles O59: a placement enters the gang, its workgroups and its lanes under keys of its own and initialises the weirs after that; an activation
and a tick change one workgroup and one core, and what they leave of the rest follows field by field. -/
theorem gangsRun : Obligations.GangsRun := by
  unfold Obligations.GangsRun
  refine ⟨?_, ?_, ?_⟩
  · intro s n cl idx rel cores stk und l c d hl hc hnext hup hcl hplaceable hfits hfirst hcores hnodup hslots hstk hstkOk hund hundOk hweirs
    refine ⟨s.placed n cl idx rel stk und cores l c, run_of_after (after_stepPlace hl hc hnext hup hcl hplaceable hfits hfirst hcores hnodup hslots
      hstk hstkOk hund hundOk), rfl, ?_, fun i hi => ?_, fun w hw => get?_wgs_placed_other hweirs hw, fun i hi j hj a b ha hb => ?_,
      fun k hk => get?_lanes_placed_other hk, ⟨?_, ?_⟩, fun x hx => ?_⟩
    · rw [← newWgs_fst]
      rfl
    · obtain ⟨ws, hget, hmem⟩ := get?_wgs_placed (n := n) (cl := cl) (idx := idx) (rel := rel) (stk := stk) (und := und) (cores := cores) hweirs hi
      refine ⟨_, hget, rfl, rfl, rfl, ?_, rfl, rfl, rfl, rfl, rfl, rfl, rfl, rfl, hmem⟩
      have hlt : i < cores.length := by rw [hcores]; exact hi
      simp [State.newWg, hlt]
    · rw [get?_lanes_placed hi hj, newLane, ha, hb]
      rfl
    · rw [← newWgs_fst]
      rfl
    · rw [cluster_placed, if_pos rfl, newWgs_fst]
    · rw [cluster_placed, if_neg hx]
  · intro s wg place w hw heligible hturn hplace hanswers howed herr nos args
    have hstep := (after_stepActivate place hw heligible hturn hplace).trans (after_activate place hw hanswers howed herr)
    refine ⟨_, run_of_after hstep, rfl, fun hbegun => if_pos hbegun, fun hbegun => ?_, fun k => ?_, fun i p => ?_⟩
    · have hcrews : (if w.begun = true then s.crews else
          s.crews.setAll ((w.crewNos place).dedup.map fun c => ((⟨wg, c⟩ : CrewId), w.newCrew place (s.argsOf w) c))) = _ :=
        if_neg (Bool.eq_false_iff.1 hbegun)
      refine ⟨fun x hx => (congrArg (Map.get? · _) hcrews).trans (get?_newCrews s wg w place hx), fun x hx =>
        (congrArg (Map.get? · _) hcrews).trans (Map.get?_setAll_of_not_mem fun e he hkey => ?_)⟩
      obtain ⟨c, hc, rfl⟩ := List.mem_map.1 he
      exact hx c (List.mem_dedup.1 hc) hkey.symm
    · exact (after_each_updLane _ (s.wgLanes wg) Lane.awake fun _ => rfl).2 k
    · refine ((after_each_updPeloton_fresh _ w.core _).2 i p).trans ?_
      exact if_congr (and_congr_right fun _ => mem_emptySlots (s := s)) rfl rfl
  · exact fun s core place => ⟨fun h => run_of_after (after_stepQuantum_early place h), fun h hnone => run_of_after (after_stepQuantum_none place h hnone)⟩

end Sys2Proof
end

section
/-! PROOFS. GANG_KILL (R410 to R412): the steps of a kill, what it frees of a workgroup, and what it tells the gang's launch. -/

namespace Sys2Proof.Machine

open Sys2Proof

/-! ### Memory cleared -/

/-- A byte of 0 takes its key's cell from memory. -/
theorem Memory.write_zero {m : List Host.Cell} (hm : Memory.wf m) (a : Nat) : Memory.write m a 0 = m.filter fun c => decide (c.1 ≠ a) := by
  induction m with
  | nil => rfl
  | cons c m ih =>
    obtain ⟨k, w⟩ := c
    obtain ⟨hpair, hzero⟩ := hm
    obtain ⟨hlt, hpair⟩ := List.pairwise_cons.1 hpair
    have htail : Memory.wf m := ⟨hpair, fun c hc => hzero c (List.mem_cons_of_mem _ hc)⟩
    have hkeep (h : ¬ k < a) : m.filter (fun c => decide (c.1 ≠ a)) = m := List.filter_eq_self.2 fun c hc => by
      have : k < c.1 := hlt c hc
      exact decide_eq_true (by omega)
    simp only [Memory.write]
    split
    · next hka => rw [ih htail, List.filter_cons_of_pos (by simp; omega)]
    · next hka =>
      split
      · next heq => rw [if_pos trivial, List.filter_cons_of_neg (by simp [heq]), hkeep hka]
      · next hne => rw [if_pos trivial, List.filter_cons_of_pos (by simp [hne]), hkeep hka]

/-- The bytes of cells cleared one after another. -/
theorem applyAll_clear (s : State) (hm : Memory.wf s.mem) (cs : List Host.Cell) :
    applyAll (cs.map fun c => .byte c.1 0) s = { s with mem := s.mem.filter fun d => decide (∀ c ∈ cs, d.1 ≠ c.1) } := by
  induction cs generalizing s with
  | nil =>
    have hall : s.mem.filter (fun d => decide (∀ c ∈ ([] : List Host.Cell), d.1 ≠ c.1)) = s.mem := List.filter_eq_self.2 fun _ _ => by simp
    rw [hall]
    rfl
  | cons c cs ih =>
    have hwf : Memory.wf (Memory.write s.mem c.1 0) := Memory.wf_write _ hm _ _
    rw [List.map_cons, applyAll_cons]
    refine (ih { s with mem := Memory.write s.mem c.1 0 } hwf).trans ?_
    have hmem : (Memory.write s.mem c.1 0).filter (fun d => decide (∀ c ∈ cs, d.1 ≠ c.1)) =
        s.mem.filter fun d => decide (∀ e ∈ c :: cs, d.1 ≠ e.1) := by
      rw [Memory.write_zero hm, List.filter_filter]
      refine List.filter_congr fun d _ => ?_
      simp only [List.forall_mem_cons, Bool.decide_and, Bool.and_comm]
    rw [hmem]

/-- The cells whose keys no cell of a kind has. -/
theorem filter_not_hit (m : List Host.Cell) {p : Host.Cell → Bool} (hp : ∀ c d, c.1 = d.1 → p c = p d) :
    m.filter (fun d => decide (∀ c ∈ m.filter p, d.1 ≠ c.1)) = m.filter fun c => !p c := by
  refine List.filter_congr fun d hd => ?_
  cases hin : p d with
  | true => exact decide_eq_false fun h => h d (List.mem_filter.2 ⟨hd, hin⟩) rfl
  | false =>
    refine decide_eq_true fun c hc heq => ?_
    have hcin := (List.mem_filter.1 hc).2
    rw [← hp d c heq, hin] at hcin
    exact Bool.false_ne_true hcin

/-- A workgroup's scratchpad is gone, and no other byte. -/
theorem after_freeScratch {s : State} (hm : Memory.wf s.mem) (wg : Nat) : s.after (freeScratch wg) =
    { s with mem := s.mem.filter fun c => !(decide (scratchKey wg 0 ≤ c.1) && decide (c.1 < scratchKey (wg + 1) 0)) } := by
  rw [after_eq, freeScratch, applyAll_clear s hm, filter_not_hit s.mem fun c d h => by rw [h]]

/-! ### What a kill frees and tells -/

/-- What a workgroup that holds no tile holds, freed. -/
theorem after_freeWg {s : State} {wg : Nat} {v : Wg} (hm : Memory.wf s.mem) (hv : s.wgs.get? wg = some v)
    (htiles : ∀ t < 16, ((s.core v.core).tile t).owner ≠ some wg) : s.after (freeWg wg) = { s with
      mem := s.mem.filter fun c => !(decide (scratchKey wg 0 ≤ c.1) && decide (c.1 < scratchKey (wg + 1) 0)),
      clusters := s.clusters.set (v.core / 4) { s.cluster (v.core / 4) with segs := (s.cluster (v.core / 4)).segs.filter fun x => x.2.1 != wg },
      wgs := s.wgs.set wg { v with
        active := false, parking := false, exited := true, freed := true, weirs := [], retiring := [], answers := [], saddleOwed := [] } } := by
  have hnone : ((List.range 16).filter fun i => ((s.core v.core).tile i).owner == some wg) = [] :=
    List.filter_eq_nil_iff.2 fun i hi => by simpa using htiles i (List.mem_range.1 hi)
  have hmeans : freeWg wg s = Act.all [
      Act.each [] (freeTile v.core),
      updCluster (v.core / 4) fun c => { c with segs := c.segs.filter fun x => x.2.1 != wg },
      freeScratch wg,
      updWg wg fun w => { w with
        active := false, parking := false, exited := true, freed := true, weirs := [], retiring := [], answers := [], saddleOwed := [] }] s := by
    simp only [freeWg, hv, hnone]
  rw [after_eq, hmeans, ← after_eq, after_all_cons, after_each_nil, after_all_cons, after_updCluster, after_all_cons, after_freeScratch (wg := wg) ?_,
    after_all_cons, after_updWg _ wg _ v ?_, after_all_nil]
  · exact hv
  · exact hm

/-- An error record and a launch have nothing in common. -/
theorem after_writeError_launches (s : State) (e : ErrRec) (ls : Map Nat Launch) :
    ({ s with launches := ls } : State).after (writeError e) = { s.after (writeError e) with launches := ls } := by
  cases h : s.ctxs.get? e.ctx with
  | none =>
    have hskip (t : State) (ht : t.ctxs.get? e.ctx = none) : t.after (writeError e) = t := by
      rw [after_eq, show writeError e t = [] by simp only [writeError, ht], applyAll_nil]
    rw [hskip s h, hskip { s with launches := ls } h]
  | some v =>
    rw [after_writeError h, after_writeError (s := { s with launches := ls }) h]
    split
    · rw [mem_after_storeBytes_congr (s := s) (t := { s with launches := ls }) rfl rfl]
    · rfl

theorem gangs_after_writeError (s : State) (e : ErrRec) : (s.after (writeError e)).gangs = s.gangs := by
  cases h : s.ctxs.get? e.ctx with
  | none => rw [after_eq, show writeError e s = [] by simp only [writeError, h], applyAll_nil]
  | some v =>
    rw [after_writeError h]
    split <;> rfl

theorem after_relaunch {s : State} {g : Gang} {l : Launch} (hl : s.launches.get? g.launch = some l) : s.after (relaunch g) =
    if g.relaunch < l.limit
      then { s.after (writeError (s.gangErr g 0x13 1 0)) with launches := s.launches.set g.launch { l with
        again := l.again ++ [(g.idx, g.relaunch + 1)], reln := min 15 (l.reln + 1) } }
      else { s.after (writeError (s.gangErr g 0x15 0 0)) with launches := s.launches.set g.launch { l with
        finished := l.finished + 1, abandoned := true } } := by
  have hmeans : relaunch g s = if g.relaunch < l.limit then Act.all [
      updLaunch g.launch fun l => { l with again := l.again ++ [(g.idx, g.relaunch + 1)], reln := min 15 (l.reln + 1) },
      writeError (s.gangErr g 0x13 1 0)] s
    else Act.all [updLaunch g.launch fun l => { l with finished := l.finished + 1, abandoned := true }, writeError (s.gangErr g 0x15 0 0)] s := by
    simp only [relaunch, hl]
  rw [after_eq, hmeans]
  split
  all_goals rw [← after_eq, after_all_cons, after_updLaunch s _ _ l hl, after_all_cons, after_all_nil, after_writeError_launches]

/-! ### The steps of a kill (R410) -/

section Kill

variable {s : State} {id : Nat} {g : Gang} {pc : DWord} (hg : s.gangs.get? id = some g) (hkill : g.kill = some pc) (hended : g.ended = false)

include hg hkill hended

theorem after_stepGangKill_first (hreported : g.reported = false) : s.after (stepGangKill id) =
    (({ s.after (writeError (s.gangErr g 0x12 1 pc.toNat)) with gangs := s.gangs.set id { g with reported := true } } : State).after
      (Act.all (s.drainAll (fun k => g.wgs.contains k.wg) g.cluster))).after
        (Act.each ((s.gangLanes id).filter fun k => !s.gone k) endLane) := by
  have hmeans : stepGangKill id s = Act.all [writeError (s.gangErr g 0x12 1 pc.toNat), updGang id fun v => { v with reported := true },
      Act.all (s.drainAll (fun k => g.wgs.contains k.wg) g.cluster), Act.each ((s.gangLanes id).filter fun k => !s.gone k) endLane] s := by
    simp only [stepGangKill, hg, hkill, hended, hreported, Bool.not_false, if_true, Bool.false_eq_true, if_false]
  rw [after_eq, hmeans, ← after_eq, after_all_cons, after_all_cons, after_updGang _ id _ g ?_, after_all_cons, after_all_cons, after_all_nil,
    gangs_after_writeError]
  rw [gangs_after_writeError, hg]

theorem after_stepGangKill_drain (hreported : g.reported = true) (hds : s.drainAll (fun k => g.wgs.contains k.wg) g.cluster ≠ []) :
    s.after (stepGangKill id) = s.after (Act.all (s.drainAll (fun k => g.wgs.contains k.wg) g.cluster)) := by
  have hfull : (s.drainAll (fun k => g.wgs.contains k.wg) g.cluster).isEmpty = false := List.isEmpty_eq_false_iff.2 hds
  rw [after_eq, after_eq]
  simp only [stepGangKill, hg, hkill, hended, hreported, hfull, Bool.not_false, Bool.not_true, if_true, Bool.false_eq_true, if_false]

theorem after_stepGangKill_last (hreported : g.reported = true) (hds : s.drainAll (fun k => g.wgs.contains k.wg) g.cluster = [])
    (hleft : s.commandsLeft (fun k => g.wgs.contains k.wg) g.cluster = false) : s.after (stepGangKill id) =
      (((((s.after (dropHolds (s.gangLanes id))).after (freePorts id g.cluster)).after (Act.each g.wgs freeWg)).after
        (closeFaults g.ctx fun f => f.gang == id)).after (updGang id fun g => { g with ended := true })).after (relaunch g) := by
  have hmeans : stepGangKill id s = Act.all [dropHolds (s.gangLanes id), freePorts id g.cluster, Act.each g.wgs freeWg,
      closeFaults g.ctx fun f => f.gang == id, updGang id fun g => { g with ended := true }, relaunch g] s := by
    simp only [stepGangKill, hg, hkill, hended, hreported, hds, hleft, List.isEmpty_nil, Bool.not_true, Bool.false_eq_true, if_false]
  rw [after_eq, hmeans, ← after_eq, after_all_cons, after_all_cons, after_all_cons, after_all_cons, after_all_cons, after_all_cons, after_all_nil]

end Kill

end Sys2Proof.Machine

namespace Sys2Proof

open Machine

/-- Settles O57: each phase of a kill is one list of actions; what they leave of the launch, of a workgroup without tiles and of a lane is computed. -/
theorem gangKillsEnd : Obligations.GangKillsEnd := by
  unfold Obligations.GangKillsEnd
  intro s id g pc hg hkill hended
  exact ⟨fun hreported => run_of_after (after_stepGangKill_first hg hkill hended hreported),
    fun hreported hds => run_of_after (after_stepGangKill_drain hg hkill hended hreported hds),
    fun hreported hds hleft => run_of_after (after_stepGangKill_last hg hkill hended hreported hds hleft),
    fun l hl => after_relaunch hl, fun w v hm hv htiles => after_freeWg hm hv htiles, fun k l hl hexited => after_endLane hl hexited⟩

end Sys2Proof
end

section
/-! PROOFS. Recovery regions as a lane issues them (R415 to R418), the ends of the waits of REND and RPRESM, and ROLLBACK of one lane
(R404, R405, R412, R420). -/

namespace Sys2Proof.Machine

open Sys2Proof

/-! ### What leaves the lanes -/

theorem lanes_after_keepLeaf (s : State) (c : Nat) (va : DWord) : (s.after (keepLeaf c va)).lanes = s.lanes := by
  rw [after_eq, keepLeaf]
  split
  · dsimp only
    split <;> rfl
  · rfl

theorem onWay_sendLines (after : List Nat) (xs : List (Access × Loc)) : (sendLines after xs).Only Upd.onWay := by
  intro s
  refine only_each (K := Upd.onWay) (fun lh _ => only_read fun t => ?_) s
  dsimp only
  split
  · exact only_skip
  · exact onWay_sendReq _ _ _ _ _ _ _

/-! ### RBEGIN and RPRES -/

section Issue

variable {s : State} {e : Env} (hl : s.lanes.get? e.k = some e.l)

/-- The lane goes on at the next instruction. -/
def State.goesOn (s : State) (e : Env) (l : Lane) : State := { s with lanes := s.lanes.set e.k (l.issued (e.l.pc + 12) e.op.w) }

/-- The region that RBEGIN opens. -/
def Env.region (e : Env) : Region :=
  { restart := e.l.pc + 12 + e.op.lit.signExtend 64, rlim := (e.src e.op.fy).setWidth 8, rtry := 0, umark := e.l.undoUse, tiles := 0, cmdMark := e.l.seq }

include hl

theorem after_issueRbegin : s.after (issueRbegin [e]) = if 8 ≤ e.l.regions.length then s.after (faultRecord 2 0 [⟨e.k, 0x1A, e.l.pc⟩])
    else s.goesOn e { e.l with regions := e.region :: e.l.regions } := by
  rw [issueRbegin]
  split
  · next hfull => exact after_split_stopped (b := ⟨2, 0x1A, e.l.pc⟩) (by simp [entryStop, hfull]) fun _ => rfl
  · next hroom =>
    rw [after_split_go (by simp [entryStop, hroom]), after_all_cons, after_each_cons, after_each_nil, after_updLane _ _ _ _ hl, after_all_cons,
      after_all_nil, after_retire _ _ _ (Map.get?_set_self _ _ _), Map.set_set]
    rfl

theorem after_retire_goesOn : s.after (retire [e]) = s.goesOn e e.l := after_retire s e e.l hl

omit hl in
theorem after_issueRpres_none (hregions : e.l.regions = []) : s.after (issueRpres [e]) = s.after (faultRecord 2 0 [⟨e.k, 0x13, e.l.pc⟩]) :=
  after_split_stopped (b := ⟨2, 0x13, e.l.pc⟩) (by simp [firstStop, entryStop, hregions]) fun _ => rfl

omit hl in
theorem after_issueRpres_full (hregions : e.l.regions ≠ []) (hsome : e.preserved ≠ [])
    (hfull : e.undo < e.l.undoUse + snapSize (8 * e.preserved.length)) :
    s.after (issueRpres [e]) = s.after (faultRecord 2 0 [⟨e.k, 0x3A, e.l.pc⟩]) :=
  after_split_stopped (b := ⟨2, 0x3A, e.l.pc⟩) (by simp [firstStop, entryStop, hregions, hsome, hfull]) fun _ => rfl

theorem after_issueRpres_nothing (hregions : e.l.regions ≠ []) (hnone : e.preserved = []) : s.after (issueRpres [e]) = s.goesOn e e.l := by
  rw [issueRpres, after_split_go (by simp [firstStop, entryStop, hregions, hnone]), after_all_cons, after_each_cons, after_each_nil, hnone, after_all_cons,
    after_all_nil]
  exact after_retire_goesOn hl

omit hl in
theorem preserved_eq {y z : Nat} (hy : e.mn ≠ 1 → ∃ n : Fin 256, e.op.fy = .g n ∧ n.val = y)
    (hz : 2 ≤ e.mn → ∃ n : Fin 256, e.op.fz = .g n ∧ n.val = z) : e.preserved = match e.mn with
      | 0 => ((List.range 32).filter fun i => e.op.lit.getLsbD i).map fun i => (y + i, e.l.reg (y + i))
      | 1 => ((List.range 16).filter fun i => e.op.lit.getLsbD i).map fun i => (0x100 + i, if e.l.pred i then 1 else 0)
      | _ => (List.range (z + 1 - y)).map fun i => (y + i, e.l.reg (y + i)) := by
  unfold Env.preserved
  match hmn : e.mn with
  | 0 =>
    obtain ⟨n, hfy, rfl⟩ := hy (by omega)
    simp only [hfy]
  | 1 => rfl
  | m + 2 =>
    obtain ⟨n, hfy, rfl⟩ := hy (by omega)
    obtain ⟨i, hfz, rfl⟩ := hz (by omega)
    simp only [hfy, hfz]

/-- The bytes of a record of registers. -/
def Env.snapBytes (e : Env) (rs : List (Nat × Word)) : List Byte :=
  bytesLE 16 (8 * rs.length * 2 ^ 32 + e.l.regions.length * 2 ^ 16) ++ (rs.flatMap fun r => bytesLE 4 r.1 ++ bytesLE 4 r.2.toNat) ++
    List.replicate (snapSize (8 * rs.length) - 16 - 8 * rs.length) 0

theorem after_issueRpres_room (hregions : e.l.regions ≠ []) (hsome : e.preserved ≠ [])
    (hroom : ¬ e.undo < e.l.undoUse + snapSize (8 * e.preserved.length)) : s.after (issueRpres [e]) =
      { s.goesOn e { e.l with undoUse := e.l.undoUse + snapSize (8 * e.preserved.length) } with
        mem := (s.after (storeBytes (e.l.undoBase + e.l.undoUse) (e.snapBytes e.preserved))).mem } := by
  have hhead : snapHead 0 (8 * e.preserved.length) e.l.regions.length false =
      bytesLE 16 (8 * e.preserved.length * 2 ^ 32 + e.l.regions.length * 2 ^ 16) := by
    simp only [snapHead, BitVec.ofNat_eq_ofNat, BitVec.toNat_zero, Nat.zero_mul, Nat.zero_add, Bool.false_eq_true, if_false, Nat.add_zero]
  have hnonempty : (!e.preserved.isEmpty) = true := by simp [hsome]
  have hrest (m : List Host.Cell) : (({ s with mem := m } : State).after
      (updLane e.k fun l => { l with undoUse := l.undoUse + snapSize (8 * e.preserved.length) })).after (retire [e]) =
      { s.goesOn e { e.l with undoUse := e.l.undoUse + snapSize (8 * e.preserved.length) } with mem := m } := by
    rw [after_updLane { s with mem := m } _ _ _ hl, after_retire _ _ _ (Map.get?_set_self _ _ _), Map.set_set]
    rfl
  have hrun : s.after (issueRpres [e]) = ((s.after (storeBytes (e.l.undoBase + e.l.undoUse) (e.snapBytes e.preserved))).after
      (updLane e.k fun l => { l with undoUse := l.undoUse + snapSize (8 * e.preserved.length) })).after (retire [e]) := by
    rw [issueRpres, after_split_go (by simp [firstStop, entryStop, hregions, hroom]), after_all_cons, after_each_cons, after_each_nil, after_all_cons,
      after_all_nil]
    dsimp only
    rw [hnonempty, after_when, if_pos rfl, after_all_cons, hhead, ← Env.snapBytes, after_all_cons, after_all_nil]
  rw [hrun, after_storeBytes_frame, hrest]

/-! ### RPRESM -/

section Rpresm

variable (hs : e.s = s)

include hs

omit hl hs in
theorem after_issueRpresm_none (hn : e.snapArgs.2 ≠ 0) (hregions : e.l.regions = []) :
    s.after (issueRpresm [e]) = s.after (faultRecord 2 0 [⟨e.k, 0x13, e.l.pc⟩]) :=
  after_split_stopped (b := ⟨2, 0x13, e.l.pc⟩) (by simp [firstStop, entryStop, hn, hregions]) fun _ => rfl

omit hl in
theorem after_issueRpresm_probe (hn : e.snapArgs.2 ≠ 0) (hregions : e.l.regions ≠ []) {cause : Nat} {addr : DWord}
    (hprobe : s.probe (s.ctxOf e.k) (s.gangOf e.k) e.snapArgs.1 e.snapArgs.2 { rd := true, wr := true } = some (cause, addr)) :
    s.after (issueRpresm [e]) = s.after (faultRecord 1 0 [⟨e.k, cause, addr⟩]) :=
  after_split_stopped (b := ⟨1, cause, addr⟩) (by subst hs; simp [firstStop, entryStop, probeStop, hn, hregions, hprobe]) fun _ => rfl

omit hl in
theorem after_issueRpresm_full (hn : e.snapArgs.2 ≠ 0) (hregions : e.l.regions ≠ [])
    (hprobe : s.probe (s.ctxOf e.k) (s.gangOf e.k) e.snapArgs.1 e.snapArgs.2 { rd := true, wr := true } = none)
    (hfull : 65520 < e.snapArgs.2 ∨ e.undo < e.l.undoUse + snapSize e.snapArgs.2) :
    s.after (issueRpresm [e]) = s.after (faultRecord 2 0 [⟨e.k, 0x3A, e.l.pc⟩]) :=
  after_split_stopped (b := ⟨2, 0x3A, e.l.pc⟩) (by subst hs; simp [firstStop, entryStop, probeStop, hn, hregions, hprobe, hfull]) fun _ => rfl

omit hs in
theorem after_issueRpresm_nothing (hn : e.snapArgs.2 = 0) : s.after (issueRpresm [e]) = s.goesOn e { e.l with seq := e.l.seq + 1 } := by
  have hkeep : (e.snapArgs.2 != 0) = false := by simp [hn]
  have hsnaps : s.after (sendSnaps []) = s := rfl
  rw [issueRpresm, after_split_go (by simp [hn]), after_all_cons, after_each_cons, after_each_nil, hkeep, after_when, if_neg Bool.false_ne_true,
    after_all_cons, List.filter_cons_of_neg (by simp [hn]), List.filter_nil, hsnaps, after_all_cons, after_all_cons, after_all_nil,
    after_countAccess_retire s e e.l hl]
  rfl

/-- The reads of a snapshot sent, its lines' dirty bytes before them. -/
def Env.snapSent (e : Env) (u : State) : State :=
  (u.after (Act.each (e.snapReads u) fun x => sendWback (u.clusterOf x.1.lane) (lineOf x.1.key))).after (sendLines [] (e.snapReads u))

omit hl hs in
theorem lanes_after_snapSent (e : Env) (u : State) : (e.snapSent u).lanes = u.lanes := by
  rw [Env.snapSent, after_onWay_frame (onWay_sendLines _ _), after_onWay_frame (only_each fun x _ => onWay_sendWback _ _)]

theorem after_issueRpresm_room (hn : e.snapArgs.2 ≠ 0) (hregions : e.l.regions ≠ [])
    (hprobe : s.probe (s.ctxOf e.k) (s.gangOf e.k) e.snapArgs.1 e.snapArgs.2 { rd := true, wr := true } = none)
    (hle : e.snapArgs.2 ≤ 65520) (hroom : e.l.undoUse + snapSize e.snapArgs.2 ≤ e.undo) :
    let v := e.snapSent (s.after (keepLeaf (s.ctxOf e.k) e.snapArgs.1))
    s.after (issueRpresm [e]) = { v with lanes := s.lanes.set e.k (Lane.issued { e.l with
      parks := { e.l.parks with wait := e.l.parks.wait ++ [.snap e.snapArgs.1 e.snapArgs.2 (v.sentFor e.k e.l.seq)] },
      seq := e.l.seq + 1 } (e.l.pc + 12) e.op.w) } := by
  intro v
  have hlanes : v.lanes = s.lanes := by
    have hkeep : (s.after (keepLeaf (s.ctxOf e.k) e.snapArgs.1)).lanes = s.lanes := lanes_after_keepLeaf _ _ _
    rw [← hkeep]
    exact lanes_after_snapSent _ _
  have hv : v.lanes.get? e.k = some e.l := hlanes ▸ hl
  have hkept : (e.snapArgs.2 != 0) = true := by simp [hn]
  have hfilter : [e].filter (fun e => e.snapArgs.2 != 0) = [e] := by simp [hn]
  have hbad : (let (va, n) := e.snapArgs
      if n = 0 then none else firstStop [entryStop e.l.regions.isEmpty e 0x13,
        probeStop (e.s.probe (e.s.ctxOf e.k) (e.s.gangOf e.k) va n { rd := true, wr := true }),
        entryStop (decide (65520 < n) || decide (e.undo < e.l.undoUse + snapSize n)) e 0x3A]) = none := by
    subst hs
    simp [firstStop, entryStop, probeStop, hn, hregions, hprobe, Nat.not_lt.2 hle, Nat.not_lt.2 hroom]
  have hsend (u : State) : u.after (sendSnaps [e]) = (e.snapSent u).after (Act.read fun t => updParks e.k fun p => { p with
      wait := p.wait ++ [.snap e.snapArgs.1 e.snapArgs.2 (t.sentFor e.k e.l.seq)] }) := by
    rw [after_eq]
    simp only [sendSnaps, List.flatMap_cons, List.flatMap_nil, List.append_nil]
    rw [← after_eq u (Act.all _), after_all_cons, after_all_cons, after_all_cons, after_all_nil, after_each_cons, after_each_nil, Env.snapSent]
  rw [issueRpresm, after_split_go hbad, after_all_cons, after_each_cons, after_each_nil, hkept, after_when, if_pos rfl, hs, after_all_cons,
    hfilter, hsend, after_read, after_updParks _ _ _ _ hv, after_all_cons, after_all_cons, after_all_nil,
    after_countAccess_retire _ e _ (Map.get?_set_self _ _ _), Map.set_set, hlanes]

end Rpresm

/-! ### REND -/

omit hl in
theorem after_issueRend_none (hregions : e.l.regions = []) : s.after (issueRend [e]) = s.after (faultRecord 2 0 [⟨e.k, 0x13, e.l.pc⟩]) :=
  after_split_stopped (b := ⟨2, 0x13, e.l.pc⟩) (by simp [entryStop, hregions]) fun _ => rfl

theorem after_issueRend {r : Region} {rs : List Region} (hregions : e.l.regions = r :: rs) : s.after (issueRend [e]) =
    s.goesOn e { e.l with parks := { e.l.parks with wait := e.l.parks.wait ++ [.rend r.cmdMark] } } := by
  rw [issueRend, after_split_go (by simp [entryStop, hregions]), after_all_cons, after_retire _ _ _ hl, after_all_cons, after_each_cons, after_each_nil,
    after_updParks _ _ _ _ (Map.get?_set_self _ _ _), Map.set_set, after_all_nil, hregions]
  cases hw : e.op.w <;> simp only [State.goesOn, Lane.issued, hw, List.head?_cons, Option.map_some, Option.getD_some] <;> rfl

end Issue

/-! ### The ends of waits (R417, R418) -/

theorem after_storeBytes_storeBytes_frame (s : State) (a b : Nat) (xs ys : List Byte) : (s.after (storeBytes a xs)).after (storeBytes b ys) =
    { s with mem := ((s.after (storeBytes a xs)).after (storeBytes b ys)).mem } := by
  have hfirst := after_storeBytes_frame s a xs
  generalize s.after (storeBytes a xs) = t at hfirst ⊢
  have hsecond := after_storeBytes_frame t b ys
  generalize t.after (storeBytes b ys) = u at hsecond ⊢
  rw [hfirst] at hsecond
  exact hsecond

section Waits

variable {s : State} {k : LaneId} {l : Lane} (hl : s.lanes.get? k = some l)

/-- A lane whose waits are over. -/
def Lane.unwaited (l : Lane) : Lane := { l with parks := { l.parks with wait := [] } }

include hl

theorem after_serveWaits_one {w : WaitFor} (hwait : l.parks.wait = [w]) (hover : s.waitOver k l w = true) :
    s.after (serveWaits k) = ({ s with lanes := s.lanes.set k l.unwaited } : State).after (endWait k w) := by
  have hmeans : serveWaits k s = Act.all [updParks k fun p => { p with wait := p.wait.filter fun v => !([w].contains v) }, Act.each [w] (endWait k)] s := by
    simp only [serveWaits, hl, hwait, List.filter_cons, hover, if_true, List.filter_nil, List.isEmpty_cons, Bool.false_eq_true, if_false]
  have hnone : (l.parks.wait.filter fun v => !([w].contains v)) = [] := by simp [hwait]
  rw [after_eq, hmeans, ← after_eq, after_all_cons, after_updParks _ _ _ _ hl, after_all_cons, after_all_nil, after_each_cons, after_each_nil, hnone]
  rfl

theorem after_serveWaits_waiting {w : WaitFor} (hwait : l.parks.wait = [w]) (hover : s.waitOver k l w = false) : s.after (serveWaits k) = s := by
  refine after_of_nil ?_
  simp only [serveWaits, hl, hwait, List.filter_cons, hover, Bool.false_eq_true, if_false, List.filter_nil, List.isEmpty_nil, if_true]

omit hl in
theorem waitOver_rend (mark : Nat) : s.waitOver k l (.rend mark) = true ↔
    l.err = none ∧ (∀ x ∈ l.results, x.silent = true) ∧ (s.setD k mark).cmds = [] ∧ (s.setD k mark).tiles = [] := by
  simp [State.waitOver, and_assoc]

theorem after_endWait_rend {r : Region} {rs : List Region} (hregions : l.regions = r :: rs) (mark : Nat) :
    s.after (endWait k (.rend mark)) = (s.after (Act.each ((List.range 16).filter fun i => r.tiles.getLsbD i) (unbindTile (s.coreOf k)))).after
      (updLane k fun x => { x with regions := x.regions.drop 1, undoUse := r.umark }) := by
  have hmeans : endWait k (.rend mark) s = Act.all [Act.each ((List.range 16).filter fun i => r.tiles.getLsbD i) (unbindTile (s.coreOf k)),
      updLane k fun l => { l with regions := l.regions.drop 1, undoUse := r.umark }] s := by
    simp only [endWait, popRegion, hl, hregions]
  rw [after_eq, hmeans, ← after_eq, after_all_cons, after_all_cons, after_all_nil]

theorem after_endWait_snap (va : DWord) (n : Nat) (ids : List Nat) : s.after (endWait k (.snap va n ids)) = { s with
    mem := ((s.after (storeBytes (l.undoBase + l.undoUse) (bytesLE 16 (va.toNat * 2 ^ 64 + n * 2 ^ 32 + l.regions.length * 2 ^ 16 + 1)))).after
      (storeBytes (l.undoBase + l.undoUse + 16 + n) (List.replicate (snapSize n - 16 - n) 0))).mem,
    lanes := s.lanes.set k { l with undoUse := l.undoUse + snapSize n } } := by
  have hmeans : endWait k (.snap va n ids) s = Act.all [
      storeBytes (l.undoBase + l.undoUse) (bytesLE 16 (va.toNat * 2 ^ 64 + n * 2 ^ 32 + l.regions.length * 2 ^ 16 + 1)),
      storeBytes (l.undoBase + l.undoUse + 16 + n) (List.replicate (snapSize n - 16 - n) 0),
      updLane k fun l => { l with undoUse := l.undoUse + snapSize n }] s := by
    simp only [endWait, hl, endSnap, snapHead, if_true]
  have hrest (m : List Host.Cell) : ({ s with mem := m } : State).after (updLane k fun l => { l with undoUse := l.undoUse + snapSize n }) =
      { s with mem := m, lanes := s.lanes.set k { l with undoUse := l.undoUse + snapSize n } } := after_updLane { s with mem := m } k _ l hl
  rw [after_eq, hmeans, ← after_eq, after_all_cons, after_all_cons, after_all_cons, after_all_nil, after_storeBytes_storeBytes_frame, hrest]

omit hl in
theorem rend_still_waits {mark : Nat} (h : l.err ≠ none ∨ (∃ x ∈ l.results, x.silent = false) ∨ (s.setD k mark).cmds ≠ [] ∨ (s.setD k mark).tiles ≠ []) :
    s.waitOver k l (.rend mark) = false := by
  rw [← Bool.not_eq_true, waitOver_rend]
  rintro ⟨herr, hres, hcmds, htiles⟩
  obtain h | ⟨x, hx, hsilent⟩ | h | h := h
  · exact h herr
  · exact Bool.false_ne_true (hsilent.symm.trans (hres x hx))
  · exact h hcmds
  · exact h htiles

/-- REND's effect when its park ends. -/
theorem after_serveWaits_rend {r : Region} {rs : List Region} {mark : Nat} (hregions : l.regions = r :: rs) (hwait : l.parks.wait = [.rend mark])
    (hover : s.waitOver k l (.rend mark) = true) : s.after (serveWaits k) = (({ s with lanes := s.lanes.set k l.unwaited } : State).after
      (Act.each ((List.range 16).filter fun i => r.tiles.getLsbD i) (unbindTile (s.coreOf k)))).after
        (updLane k fun x => { x with regions := x.regions.drop 1, undoUse := r.umark }) := by
  rw [after_serveWaits_one hl hwait hover,
    after_endWait_rend (s := { s with lanes := s.lanes.set k l.unwaited }) (l := l.unwaited) (Map.get?_set_self _ _ _) hregions]
  rfl

theorem after_serveWaits_rend_untiled {r : Region} {rs : List Region} {mark : Nat} (hregions : l.regions = r :: rs) (hwait : l.parks.wait = [.rend mark])
    (hover : s.waitOver k l (.rend mark) = true) (hnone : r.tiles = 0) :
    s.after (serveWaits k) = { s with lanes := s.lanes.set k { l.unwaited with regions := rs, undoUse := r.umark } } := by
  have hempty : ((List.range 16).filter fun i => r.tiles.getLsbD i) = [] := by simp [hnone]
  have hdrop : l.unwaited.regions.drop 1 = rs := by rw [Lane.unwaited, hregions, List.drop_one, List.tail_cons]
  rw [after_serveWaits_rend hl hregions hwait hover, hempty, after_each_nil, after_updLane _ _ _ _ (Map.get?_set_self _ _ _), Map.set_set, hdrop]

omit hl in
theorem waitOver_snap {va : DWord} {n : Nat} {ids : List Nat} (herr : l.err = none) (hids : ∀ r ∈ s.reqs, r.id ∉ ids) :
    s.waitOver k l (.snap va n ids) = true := by
  simp only [State.waitOver, herr, Option.isNone_none, Bool.true_and, Bool.not_eq_true', List.any_eq_false, List.contains_iff_mem]
  exact hids

/-- RPRESM's effect when its park ends. -/
theorem after_serveWaits_snap {va : DWord} {n : Nat} {ids : List Nat} (hwait : l.parks.wait = [.snap va n ids])
    (hover : s.waitOver k l (.snap va n ids) = true) : s.after (serveWaits k) = { s with
      mem := ((s.after (storeBytes (l.undoBase + l.undoUse) (bytesLE 16 (va.toNat * 2 ^ 64 + n * 2 ^ 32 + l.regions.length * 2 ^ 16 + 1)))).after
        (storeBytes (l.undoBase + l.undoUse + 16 + n) (List.replicate (snapSize n - 16 - n) 0))).mem,
      lanes := s.lanes.set k { l.unwaited with undoUse := l.undoUse + snapSize n } } := by
  have hmem (a b : Nat) (xs ys : List Byte) : ((({ s with lanes := s.lanes.set k l.unwaited } : State).after (storeBytes a xs)).after (storeBytes b ys)).mem =
      ((s.after (storeBytes a xs)).after (storeBytes b ys)).mem :=
    mem_after_storeBytes_congr (mem_after_storeBytes_congr (s := s) (t := { s with lanes := s.lanes.set k l.unwaited }) rfl rfl a xs)
      (by rw [after_storeBytes_frame s, after_storeBytes_frame { s with lanes := s.lanes.set k l.unwaited }]) b ys
  have hend := after_endWait_snap (s := { s with lanes := s.lanes.set k l.unwaited }) (l := l.unwaited) (Map.get?_set_self _ _ _) va n ids
  rw [after_serveWaits_one hl hwait hover, hend, hmem, Map.set_set]
  rfl

end Waits

/-! ### ROLLBACK (R404, R405, R412, R420) -/

/-- An error record changes memory and contexts alone. -/
theorem after_writeError_frame (s : State) (e : ErrRec) : ∃ (m : List Host.Cell) (cs : Map Nat Ctx), s.after (writeError e) = { s with mem := m, ctxs := cs } := by
  cases h : s.ctxs.get? e.ctx with
  | none => exact ⟨s.mem, s.ctxs, by rw [after_eq, show writeError e s = [] by simp only [writeError, h], applyAll_nil]⟩
  | some v =>
    rw [after_writeError h]
    split
    · exact ⟨_, _, rfl⟩
    · exact ⟨s.mem, _, rfl⟩

section Rollback

theorem retryIndex_append {inner outer : List Region} {r : Region} (hinner : ∀ y ∈ inner, y.rlim.toNat ≤ y.rtry.toNat) (hr : r.rtry.toNat < r.rlim.toNat) :
    retryIndex (inner ++ r :: outer) = some inner.length := by
  induction inner with
  | nil =>
    rw [retryIndex, List.nil_append, List.findIdx?_cons, if_pos (by simpa using hr)]
    rfl
  | cons y ys ih =>
    have hy := hinner y List.mem_cons_self
    have hrest := ih fun z hz => hinner z (List.mem_cons_of_mem _ hz)
    unfold retryIndex at hrest ⊢
    rw [List.cons_append, List.findIdx?_cons, if_neg (by simpa using hy), hrest]
    rfl

/-- The rollback of the innermost region with a retry left. -/
def rollOut (k : LaneId) (l : Lane) (inner outer : List Region) (r : Region) : Roll :=
  { lane := k, l := l, r := r, inner := inner.getLast?, outer := outer }

variable {s : State} {k : LaneId} {l : Lane} {inner outer : List Region} {r : Region}

theorem roll_eq (hl : s.lanes.get? k = some l) (hregions : l.regions = inner ++ r :: outer) : s.roll k inner.length = some (rollOut k l inner outer r) := by
  have hlast : (if inner.length = 0 then none else (inner ++ r :: outer)[inner.length - 1]?) = inner.getLast? := by
    split
    · next h => rw [List.length_eq_zero_iff.1 h]; rfl
    · next h => rw [List.getLast?_eq_getElem?, List.getElem?_append_left (by omega)]
  simp only [State.roll, hl, hregions, List.drop_left, hlast]
  rfl

theorem rollOf_eq {w : Wg} {g : Gang} {e : DetErr} (hl : s.lanes.get? k = some l) (hw : s.wgs.get? k.wg = some w) (hactive : w.active = true)
    (hexited : l.exited = false) (herr : l.err = some e) (hg : s.gangs.get? w.gang = some g) (hkill : g.kill = none) (hended : g.ended = false)
    (hregions : l.regions = inner ++ r :: outer) (hinner : ∀ y ∈ inner, y.rlim.toNat ≤ y.rtry.toNat) (hr : r.rtry.toNat < r.rlim.toNat) :
    s.rollOf k = some (e, inner.length, rollOut k l inner outer r) := by
  have hindex : retryIndex l.regions = some inner.length := hregions ▸ retryIndex_append hinner hr
  simp only [State.rollOf, hl, hw, herr, hindex, hactive, hexited, hg, hkill, hended, roll_eq hl hregions, Option.isSome_none, Bool.or_self, Bool.not_true,
    Bool.false_eq_true, if_false, Option.map_some]

variable (hundo : l.undoUse ≤ r.umark)

include hundo

/-- No snapshot has been taken since the region opened. -/
theorem snaps_rollOut : (rollOut k l inner outer r).snaps s = [] := by
  simp only [Roll.snaps, rollOut, State.snaps, hundo, if_true, List.reverse_nil]

theorem restores_rollOut : (rollOut k l inner outer r).restores s = true := by rw [Roll.restores, snaps_rollOut hundo, List.all_nil]

omit hundo in
theorem boundTiles_eq_nil (hbound : ∀ t < 16, ∀ d, ((s.core (s.coreOf k)).tile t).bound = some (k, d) → d ≤ outer.length) {n : Nat} (hn : outer.length < n) :
    s.boundTiles k n = [] := by
  refine List.filter_eq_nil_iff.2 fun i hi => ?_
  cases hb : ((s.core (s.coreOf k)).tile i).bound with
  | none => simp
  | some x =>
    obtain ⟨j, d⟩ := x
    simp only [Bool.and_eq_true, beq_iff_eq, decide_eq_true_eq, not_and, Nat.not_le]
    rintro rfl
    have := hbound i (List.mem_range.1 hi) d hb
    omega

/-- The lane at the restart label (R405). -/
def Lane.restarted (l : Lane) (e : DetErr) (inner outer : List Region) (r : Region) : Lane := { l with
  regions := { r with rtry := r.rtry + 1 } :: outer, undoUse := match inner.getLast? with | some y => y.umark | none => l.undoUse,
  pc := r.restart, latch := none, wait := 0, err := none, last := BitVec.ofNat 32 (e.code % 2 ^ 16 + e.source * 2 ^ 16) }

theorem after_finish {e : DetErr} (hl : s.lanes.get? k = some l) (herr : l.err = some e)
    (hbound : ∀ t < 16, ∀ d, ((s.core (s.coreOf k)).tile t).bound = some (k, d) → d ≤ outer.length)
    (htiles : (s.setD k r.cmdMark).tiles = []) (pc : DWord) :
    s.after ((rollOut k l inner outer r).finish pc true) = { s with lanes := s.lanes.set k (l.restarted e inner outer r) } := by
  have hdiscards : (rollOut k l inner outer r).discards s = [] := boundTiles_eq_nil hbound (Nat.lt_succ_self _)
  have hinnermost : s.boundTiles k (outer.length + 2) = [] := boundTiles_eq_nil hbound (by omega)
  have hmeans : (rollOut k l inner outer r).finish pc true s = Act.all [Act.each [] (dropTileCmd (s.coreOf k)), Act.each [] (discardTile (s.coreOf k)),
      Act.each [] (unbindTile (s.coreOf k)), Act.each [] (fun x : Snap => x.restore k pc), updLane k fun l => { l with
        regions := { r with rtry := r.rtry + 1 } :: outer, undoUse := match inner.getLast? with | some r => r.umark | none => l.undoUse,
        pc := r.restart, latch := none, wait := 0, err := none,
        last := match l.err with | some e => BitVec.ofNat 32 (e.code % 2 ^ 16 + e.source * 2 ^ 16) | none => l.last }] s := by
    simp only [Roll.finish, hdiscards, snaps_rollOut hundo, restores_rollOut hundo, List.takeWhile_nil, if_true]
    simp only [rollOut, htiles, hinnermost, List.filter_nil] <;> rfl
  rw [after_eq, hmeans, ← after_eq, after_all_cons, after_each_nil, after_all_cons, after_each_nil, after_all_cons, after_each_nil, after_all_cons,
    after_each_nil, after_all_cons, after_updLane _ _ _ _ hl, after_all_nil, herr]
  rfl

omit hundo in
/-- Nothing is left to drain. -/
theorem drain_rollOut (hcmds : (s.setD k r.cmdMark).cmds = []) (htiles : (s.setD k r.cmdMark).tiles = []) :
    (rollOut k l inner outer r).drain s = none := by
  simp only [Roll.drain, rollOut, hcmds, htiles, List.filter_nil, List.isEmpty_nil, Bool.and_self, Bool.not_true, Bool.and_false, Bool.false_eq_true,
    if_false]

omit hundo in
theorem ready_rollOut (hresults : l.results = []) (hcmds : (s.setD k r.cmdMark).cmds = []) (htiles : (s.setD k r.cmdMark).tiles = [])
    (hreqs : ∀ q ∈ s.reqs, ∀ a ∈ q.acc, a.lane ≠ k) : (rollOut k l inner outer r).ready s = true := by
  have hnone : (s.reqs.any fun q => !q.done && q.acc.any fun a => a.lane == k && (match a.op with | .snap _ _ => true | _ => false)) = false := by
    refine List.any_eq_false.2 fun q hq hand => ?_
    obtain ⟨a, ha, hlane⟩ := List.any_eq_true.1 (Bool.and_eq_true_iff.1 hand).2
    exact hreqs q hq a ha (beq_iff_eq.1 (Bool.and_eq_true_iff.1 hlane).1)
  simp only [Roll.ready, rollOut, hresults, hcmds, htiles, List.isEmpty_nil, List.all_nil, Bool.and_self, Bool.true_and]
  rw [Bool.not_eq_true']
  exact hnone

theorem after_stepRollback {e : DetErr} (hl : s.lanes.get? k = some l) (herr : l.err = some e)
    (hroll : s.rollOf k = some (e, inner.length, rollOut k l inner outer r)) (hresults : l.results = [])
    (hcmds : (s.setD k r.cmdMark).cmds = []) (htiles : (s.setD k r.cmdMark).tiles = []) (hreqs : ∀ q ∈ s.reqs, ∀ a ∈ q.acc, a.lane ≠ k)
    (hbound : ∀ t < 16, ∀ d, ((s.core (s.coreOf k)).tile t).bound = some (k, d) → d ≤ outer.length)
    (hcycle : (s.peloton (s.coreOf k) (s.pslot k)).rolledAt ≠ some s.now) :
    s.after (stepRollback k []) = { s.after (writeError { s.errOf k (if inner = [] then 0x10 else 0x11) e.pc.toNat r.restart.toNat with cnt := 1 }) with
      lanes := s.lanes.set k (l.restarted e inner outer r),
      pelotons := s.pelotons.set (s.coreOf k, s.pslot k) { s.peloton (s.coreOf k) (s.pslot k) with rolledAt := some s.now } } := by
  have hks : ([k] : List LaneId).dedup = [k] := List.dedup_eq_self.2 (List.nodup_singleton _)
  have hready := ready_rollOut (inner := inner) (outer := outer) hresults hcmds htiles hreqs
  have hmeans : stepRollback k [] s = Act.all [
      rollRecord 0x10 ([(e, inner.length, rollOut k l inner outer r)].filter fun x => x.2.1 == 0 && x.2.2.restores s),
      rollRecord 0x11 ([(e, inner.length, rollOut k l inner outer r)].filter fun x => x.2.1 != 0 && x.2.2.restores s),
      Act.each [(e, inner.length, rollOut k l inner outer r)] fun x => x.2.2.finish x.1.pc true,
      updPeloton (s.coreOf k, s.pslot k) fun p => { p with rolledAt := some s.now }] s := by
    simp only [stepRollback, List.filter_nil, hks, List.mergeSort_singleton, List.filterMap_cons, List.filterMap_nil, hroll, drain_rollOut hcmds htiles,
      List.filter_cons, hready, List.isEmpty_nil, List.isEmpty_cons, Bool.not_true, Bool.false_eq_true, if_false, if_true, beq_eq_false_iff_ne.2 hcycle,
      Bool.or_self]
  have hgo (rec : ErrRec) : (s.after (writeError rec)).after (Act.all [
      Act.each [(e, inner.length, rollOut k l inner outer r)] fun x => x.2.2.finish x.1.pc true,
      updPeloton (s.coreOf k, s.pslot k) fun p => { p with rolledAt := some s.now }]) = { s.after (writeError rec) with
        lanes := s.lanes.set k (l.restarted e inner outer r),
        pelotons := s.pelotons.set (s.coreOf k, s.pslot k) { s.peloton (s.coreOf k) (s.pslot k) with rolledAt := some s.now } } := by
    obtain ⟨m, cs, hframe⟩ := after_writeError_frame s rec
    rw [hframe, after_all_cons, after_each_cons, after_each_nil, after_finish (s := { s with mem := m, ctxs := cs }) hundo hl herr hbound htiles,
      after_all_cons, after_updPeloton, after_all_nil]
    rfl
  rw [after_eq, hmeans, ← after_eq, after_all_cons, after_all_cons]
  have hrestores := restores_rollOut (s := s) (k := k) (inner := inner) (outer := outer) hundo
  by_cases hinner : inner = []
  · have hfirst : ([(e, inner.length, rollOut k l inner outer r)].filter fun x => x.2.1 == 0 && x.2.2.restores s) =
        [(e, inner.length, rollOut k l inner outer r)] := by simp [hinner, hinner ▸ hrestores]
    have hsecond : ([(e, inner.length, rollOut k l inner outer r)].filter fun x => x.2.1 != 0 && x.2.2.restores s) = [] := by simp [hinner]
    rw [hfirst, hsecond, if_pos hinner]
    exact hgo _
  · have hfirst : ([(e, inner.length, rollOut k l inner outer r)].filter fun x => x.2.1 == 0 && x.2.2.restores s) = [] := by simp [hinner]
    have hsecond : ([(e, inner.length, rollOut k l inner outer r)].filter fun x => x.2.1 != 0 && x.2.2.restores s) =
        [(e, inner.length, rollOut k l inner outer r)] := by simp [hinner, hrestores]
    rw [hfirst, hsecond, if_neg hinner]
    exact hgo _

end Rollback

end Sys2Proof.Machine

namespace Sys2Proof

open Machine

/-- Settles O56: one lane stops or goes on at each of the four majors, a wait that is over ends with its effect, and a lane with nothing to drain, to
discard or to restore is at its restart label after one record. -/
theorem rollbacksRestart : Obligations.RollbacksRestart := by
  unfold Obligations.RollbacksRestart
  refine ⟨fun s e hs hl => ?_, fun s k l hl => ?_, ?_⟩
  · intro stops goes base waits
    refine ⟨fun hmaj => ?_, fun y z hmaj hy hz => ?_, fun hmaj => ?_, fun hmaj => ?_⟩
    · rw [hmaj]
      exact after_issueRbegin hl
    · intro rs n
      have hrs : e.preserved = rs := preserved_eq hy hz
      have hn : n = 8 * e.preserved.length := by rw [hrs]
      rw [hmaj, hn, ← hrs]
      split
      · next hregions => exact after_issueRpres_none hregions
      · next hregions =>
        split
        · next hnone => exact after_issueRpres_nothing hl hregions hnone
        · next hsome =>
          split
          · next hfull => exact after_issueRpres_full hregions hsome hfull
          · next hroom => exact after_issueRpres_room hl hregions hsome hroom
    · intro va n probe
      rw [hmaj]
      exact ⟨fun hn => after_issueRpresm_nothing hl hn, fun hn hregions => after_issueRpresm_none hn hregions,
        fun cause addr hn hregions hprobe => after_issueRpresm_probe hs hn hregions hprobe,
        fun hn hregions hprobe hfull => after_issueRpresm_full hs hn hregions hprobe hfull,
        fun hn hregions hprobe hle hroom => after_issueRpresm_room hl hs hn hregions hprobe hle hroom⟩
    · rw [hmaj]
      exact ⟨fun hregions => after_issueRend_none hregions, fun r rs hregions => after_issueRend hl hregions⟩
  · intro awake
    refine ⟨fun r rs mark hregions hwait => ⟨fun herr hres hcmds htiles => ⟨?_, fun hnone => ?_⟩, fun h => ?_⟩, fun va n ids hwait herr hids => ?_⟩
    · exact after_serveWaits_rend hl hregions hwait ((waitOver_rend mark).2 ⟨herr, hres, hcmds, htiles⟩)
    · exact after_serveWaits_rend_untiled hl hregions hwait ((waitOver_rend mark).2 ⟨herr, hres, hcmds, htiles⟩) hnone
    · exact after_serveWaits_waiting hl hwait (rend_still_waits h)
    · exact after_serveWaits_snap hl hwait (waitOver_snap herr hids)
  · intro s k l w g e inner outer r hl hw hactive hexited herr hg hkill hended hregions hinner hr hresults hcmds hmq hreqs hbound hundo hcycle
    have hroll := rollOf_eq hl hw hactive hexited herr hg hkill hended hregions hinner hr
    refine run_of_after (after_stepRollback hundo hl herr hroll hresults ?_ ?_ hreqs hbound hcycle)
    · refine List.filter_eq_nil_iff.2 fun m hm hand => ?_
      obtain ⟨hlane, hmark⟩ := Bool.and_eq_true_iff.1 hand
      have := hcmds m hm (beq_iff_eq.1 hlane)
      exact absurd (of_decide_eq_true hmark) (Nat.not_le.2 this)
    · refine List.filter_eq_nil_iff.2 fun m hm hand => ?_
      obtain ⟨hlane, hmark⟩ := Bool.and_eq_true_iff.1 (Bool.and_eq_true_iff.1 hand).1
      have := hmq m hm (beq_iff_eq.1 hlane)
      exact absurd (of_decide_eq_true hmark) (Nat.not_le.2 this)

end Sys2Proof
end

section
/-! PROOFS. Engine commands (R303, R317, R321, R325, R328): what a firing, a row and a completion leave. -/

namespace Sys2Proof.Machine

open Sys2Proof

/-! ### ENGINE_COMMAND_FIRE (R303) -/

section Fire

/-- A ditch with entries taken. -/
theorem Ditch.drop_drop (d : Ditch) (a b : Nat) : (d.drop a).drop b = d.drop (a + b) := by
  simp only [Ditch.drop, BitVec.ofNat_add, BitVec.add_assoc]

/-- Entries of a port that a list of inputs takes. -/
def takesOf (p : Nat) (xs : List (Nat × Nat)) : Nat := ((xs.filter fun x => x.1 == p).map (·.2)).sum

theorem takes_eq (c : Cluster) (m : Cmd) (p : Nat) : m.takes c p = takesOf p (m.inputs c) := List.sum_eq_foldl.symm

theorem takesOf_cons (p : Nat) (x : Nat × Nat) (xs : List (Nat × Nat)) : takesOf p (x :: xs) = (if x.1 = p then x.2 else 0) + takesOf p xs := by
  by_cases h : x.1 = p
  · simp [takesOf, h]
  · simp [takesOf, h]

/-- From `s` to `t` the ports of one cluster alone have changed. -/
structure PortsOnly (cl : Nat) (s t : State) : Prop where
  frame : t = { s with clusters := t.clusters }
  other : ∀ n, n ≠ cl → t.cluster n = s.cluster n
  here : t.cluster cl = { s.cluster cl with ports := (t.cluster cl).ports }

theorem PortsOnly.refl (cl : Nat) (s : State) : PortsOnly cl s s := ⟨rfl, fun _ _ => rfl, rfl⟩

theorem PortsOnly.trans {cl : Nat} {s t u : State} (h : PortsOnly cl s t) (h' : PortsOnly cl t u) : PortsOnly cl s u := by
  refine ⟨?_, fun n hn => (h'.other n hn).trans (h.other n hn), ?_⟩
  · rw [h'.frame, h.frame]
  · rw [h'.here, h.here]

theorem portsOnly_updPort' (s : State) (cl p : Nat) (f : Ditch → Ditch) : PortsOnly cl s (s.after (updPort' cl p f)) ∧
    ∀ q, ((s.after (updPort' cl p f)).cluster cl).ports.get? q = ((s.cluster cl).ports.get? q).map fun d => if q = p then f d else d := by
  obtain ⟨ports, hafter, hports⟩ := after_updDitch s cl p f
  have hhere : (s.after (updPort' cl p f)).cluster cl = { s.cluster cl with ports := ports } := by rw [hafter, cluster_set, if_pos rfl]
  refine ⟨⟨by rw [hafter], fun n hn => by rw [hafter, cluster_set, if_neg hn], by rw [hhere]⟩, fun q => by rw [hhere]; exact hports q⟩

/-- Inputs taken one after another. -/
theorem portsOnly_each_drop (xs : List (Nat × Nat)) (cl : Nat) (s : State) :
    PortsOnly cl s (s.after (Act.each xs fun x => updPort' cl x.1 fun d => d.drop x.2)) ∧
    ∀ p, ((s.after (Act.each xs fun x => updPort' cl x.1 fun d => d.drop x.2)).cluster cl).ports.get? p =
      ((s.cluster cl).ports.get? p).map fun d => d.drop (takesOf p xs) := by
  induction xs generalizing s with
  | nil =>
    refine ⟨PortsOnly.refl cl s, fun p => ?_⟩
    have hzero (d : Ditch) : d.drop (takesOf p []) = d := by simp [Ditch.drop, takesOf]
    simp only [after_each_nil, hzero]
    exact Option.map_id'.symm
  | cons x xs ih =>
    obtain ⟨hone, hport⟩ := portsOnly_updPort' s cl x.1 fun d => d.drop x.2
    obtain ⟨hrest, hports⟩ := ih (s.after (updPort' cl x.1 fun d => d.drop x.2))
    rw [after_each_cons]
    refine ⟨hone.trans hrest, fun p => ?_⟩
    rw [hports, hport, Option.map_map]
    refine congrArg (Option.map · _) (funext fun d => ?_)
    rw [takesOf_cons, Function.comp_apply]
    by_cases h : p = x.1
    · rw [if_pos h, if_pos h.symm, Ditch.drop_drop]
    · rw [if_neg h, if_neg (Ne.symm h), Nat.zero_add]

/-- The room of a command's output reserved. -/
theorem portsOnly_opt_reserve (o : Option (Nat × Nat)) (cl : Nat) (s : State) :
    PortsOnly cl s (s.after (Act.opt o fun x => updPort' cl x.1 fun d => { d with rsv := d.rsv + BitVec.ofNat 32 x.2 })) ∧
    ∀ p, ((s.after (Act.opt o fun x => updPort' cl x.1 fun d => { d with rsv := d.rsv + BitVec.ofNat 32 x.2 })).cluster cl).ports.get? p =
      ((s.cluster cl).ports.get? p).map fun d => { d with
        rsv := d.rsv + (match o with | some (q, n) => if q = p then BitVec.ofNat 32 n else 0 | none => 0) } := by
  cases o with
  | none =>
    refine ⟨PortsOnly.refl cl s, fun p => ?_⟩
    simp only [BitVec.ofNat_eq_ofNat, BitVec.add_zero]
    exact Option.map_id'.symm
  | some x =>
    obtain ⟨hone, hport⟩ := portsOnly_updPort' s cl x.1 fun d => { d with rsv := d.rsv + BitVec.ofNat 32 x.2 }
    refine ⟨hone, fun p => (hport p).trans (congrArg (Option.map · _) (funext fun d => ?_))⟩
    by_cases h : p = x.1
    · simp [h]
    · simp [h, Ne.symm h]

variable {s : State} {cl : Nat} {m : Cmd}

/-- The entries that a firing command takes, input by input. -/
def Cmd.taken (m : Cmd) (c : Cluster) : List (List (List Word)) := (m.inputs c).zipIdx.map fun x =>
  let before := (((m.inputs c).take x.2).filter fun y => y.1 == x.1.1).map (·.2)
  match c.ports.get? x.1.1 with
  | some d => (d.first (before.foldl (· + ·) 0 + x.1.2)).drop (before.foldl (· + ·) 0)
  | none => []

theorem taken_first {c : Cluster} {p n : Nat} {rest : List (Nat × Nat)} {d : Ditch} (hinputs : m.inputs c = (p, n) :: rest) (hd : c.ports.get? p = some d) :
    ((m.taken c)[0]?).getD [] = d.first n := by
  simp [Cmd.taken, hinputs, hd]

/-- The command as it has fired. -/
def Cmd.asFired (m : Cmd) (s : State) (c : Cluster) (y : Cmd) : Cmd :=
  if y.id = m.id then { y with fired := true, arr := s.fresh, ins := ((m.taken c)[0]?).getD [], ins2 := ((m.taken c)[1]?).getD [] } else y

theorem after_stepFire (hfind : (s.cluster cl).cmds.find? (fun x => x.id == m.id) = some m) (hfireable : s.fireable cl m = true)
    (hturn : ∀ o ∈ (s.cluster cl).dops, o.id < m.id → o.port ∈ m.ports (s.cluster cl) → (s.cluster cl).can o = false) :
    s.after (stepFire cl m.id) = (({ s with fresh := s.fresh + 1 } : State).after
      (Act.all [Act.each (m.inputs (s.cluster cl)) fun x => updPort' cl x.1 fun d => d.drop x.2,
        Act.opt (m.output (s.cluster cl)) fun x => updPort' cl x.1 fun d => { d with rsv := d.rsv + BitVec.ofNat 32 x.2 }])).after
      (updCluster cl fun c => { c with cmds := c.cmds.map (m.asFired s (s.cluster cl)) }) := by
  have hfirst : ((s.cluster cl).dops.any fun x => (m.ports (s.cluster cl)).contains x.port && decide (x.id < m.id) && (s.cluster cl).can x) = false := by
    refine List.any_eq_false.2 fun o ho hand => ?_
    simp only [Bool.and_eq_true, List.contains_iff_mem, decide_eq_true_eq] at hand
    obtain ⟨⟨hport, hid⟩, hcan⟩ := hand
    exact Bool.false_ne_true ((hturn o ho hid hport).symm.trans hcan)
  have hmeans : stepFire cl m.id s = Act.fresh (fun n => Act.all [
      Act.each (m.inputs (s.cluster cl)) fun x => updPort' cl x.1 fun d => d.drop x.2,
      Act.opt (m.output (s.cluster cl)) fun x => updPort' cl x.1 fun d => { d with rsv := d.rsv + BitVec.ofNat 32 x.2 },
      updCluster cl fun c => { c with cmds := c.cmds.map fun y => if y.id = m.id then
        { y with fired := true, arr := n, ins := ((m.taken (s.cluster cl))[0]?).getD [], ins2 := ((m.taken (s.cluster cl))[1]?).getD [] } else y }]) s := by
    simp only [stepFire, hfind, hfireable, hfirst, Bool.not_false, Bool.and_self, if_true]
    rfl
  rw [after_eq, hmeans, ← after_eq, after_fresh, after_all_cons, after_all_cons, after_all_cons, after_all_nil, after_all_cons, after_all_cons, after_all_nil]
  rfl

/-- Firing leaves the device as it is, but for the count of commands, and, in its cluster, the ports and the command. -/
theorem after_stepFire_frame (hfind : (s.cluster cl).cmds.find? (fun x => x.id == m.id) = some m) (hfireable : s.fireable cl m = true)
    (hturn : ∀ o ∈ (s.cluster cl).dops, o.id < m.id → o.port ∈ m.ports (s.cluster cl) → (s.cluster cl).can o = false) :
    let c := s.cluster cl
    let t := s.after (stepFire cl m.id)
    t = { s with fresh := s.fresh + 1, clusters := t.clusters } ∧ (∀ n, n ≠ cl → t.cluster n = s.cluster n) ∧
    t.cluster cl = { c with ports := (t.cluster cl).ports, cmds := c.cmds.map (m.asFired s c) } ∧
    ∀ p, (t.cluster cl).ports.get? p = (c.ports.get? p).map fun d => { d with
      cptr := d.cptr + BitVec.ofNat 32 (m.takes c p),
      rsv := d.rsv + (match m.output c with | some (q, n) => if q = p then BitVec.ofNat 32 n else 0 | none => 0) } := by
  intro c t
  have ht : t = _ := after_stepFire hfind hfireable hturn
  obtain ⟨hdrop, hdrops⟩ := portsOnly_each_drop (m.inputs c) cl { s with fresh := s.fresh + 1 }
  obtain ⟨hreserve, hreserves⟩ := portsOnly_opt_reserve (m.output c) cl
    (({ s with fresh := s.fresh + 1 } : State).after (Act.each (m.inputs c) fun x => updPort' cl x.1 fun d => d.drop x.2))
  rw [after_all_cons, after_all_cons, after_all_nil] at ht
  have hpair := hdrop.trans hreserve
  generalize hu : (({ s with fresh := s.fresh + 1 } : State).after (Act.each (m.inputs c) fun x => updPort' cl x.1 fun d => d.drop x.2)).after
    (Act.opt (m.output c) fun x => updPort' cl x.1 fun d => { d with rsv := d.rsv + BitVec.ofNat 32 x.2 }) = u at ht hpair hreserves
  have hset : t = { u with clusters := u.clusters.set cl { u.cluster cl with cmds := (u.cluster cl).cmds.map (m.asFired s c) } } := by
    rw [ht, after_updCluster]
  have hhere : t.cluster cl = { u.cluster cl with cmds := (u.cluster cl).cmds.map (m.asFired s c) } := by rw [hset, cluster_set, if_pos rfl]
  refine ⟨by rw [hset, hpair.frame], fun n hn => ?_, by rw [hhere, hpair.here]; rfl, fun p => ?_⟩
  · rw [hset, cluster_set, if_neg hn]
    exact hpair.other n hn
  · rw [hhere]
    refine (hreserves p).trans ?_
    rw [hdrops p, Option.map_map]
    refine congrArg (Option.map · _) (funext fun d => ?_)
    rw [takes_eq]
    rfl

end Fire

/-! ### ENGINE_ROW (R321, R325, R328) -/

section Row

variable {s : State} {cl row : Nat} {m : Cmd} (hfind : (s.cluster cl).cmds.find? (fun x => x.id == m.id) = some m) (hfired : m.fired = true)
  (hstop : m.stopped = none) (hkeep : m.dropped = false) (hrow : row < m.kind.total) (hnew : row ∉ m.rows) (hexp : s.expAhead m = false)

/-- A command whose row has been delivered. -/
def Cmd.delivered (m : Cmd) (row : Nat) (r : RowEffect) (x : Cmd) : Cmd := if x.id = m.id then
  { x with rows := x.rows ++ [row], got := x.got.del (row + 1), out := if r.out.isEmpty then x.out else x.out.set row r.out } else x

include hfired hstop hkeep hrow hnew hexp

/-- The row is one that the command may take. -/
theorem stepEngineRow_open : (!m.fired || m.dropped || decide (m.kind.total ≤ row) || m.rows.contains row || (m.stopped.isSome && !s.rowBegun cl m row) ||
    s.expAhead m) = false := by
  simp [hfired, hkeep, Nat.not_le.2 hrow, hnew, hstop, hexp]

include hfind

theorem after_stepEngineRow_goes {r : RowEffect} (hcount : m.count = none) (hgoes : s.rowOf m row = .goes r) (hadd : r.add = none) :
    let u := s.after (storeUnit (.engine cl m.id 0) cl m.lane m.pc m.ch [] [] r.puts)
    s.after (stepEngineRow cl m.id row) = { u with
      crews := (u.after (setFlags m.lane r.flags)).crews,
      clusters := u.clusters.set cl { u.cluster cl with cmds := (u.cluster cl).cmds.map (m.delivered row r) } } := by
  intro u
  have hmeans : stepEngineRow cl m.id row s = Act.all [
      storeUnit (.engine cl m.id 0) cl m.lane m.pc m.ch [] [] r.puts,
      setFlags m.lane r.flags,
      Act.opt none fun key => weirChange key m.lane m.pc (·.count r.counted),
      updCluster cl fun c => { c with cmds := c.cmds.map (m.delivered row r) }] s := by
    simp only [stepEngineRow, hfind, stepEngineRow_open (cl := cl) hfired hstop hkeep hrow hnew hexp, hgoes, hadd, hcount, Bool.false_eq_true, if_false]
    rfl
  rw [after_eq, hmeans, ← after_eq, after_all_cons, after_all_cons, after_all_cons, after_all_cons, after_all_nil, after_opt_none, after_setFlags_frame,
    after_updCluster]
  rfl

theorem after_stepEngineRow_asks {slot : Nat} {ls : List (Loc × DWord)} (hasks : s.rowOf m row = .asks slot ls) :
    s.after (stepEngineRow cl m.id row) = s.after (startLines cl m slot ls) := by
  rw [after_eq, after_eq]
  simp only [stepEngineRow, hfind, stepEngineRow_open (cl := cl) hfired hstop hkeep hrow hnew hexp, hasks, Bool.false_eq_true, if_false]

theorem after_stepEngineRow_stops {cause : Nat} {addr : DWord} (hstops : s.rowOf m row = .stops (cause, addr)) :
    s.after (stepEngineRow cl m.id row) = s.after (unitFault 6 cl m.id row m.lane m.pc cause addr fun n =>
      updCmd cl m.id fun x => { x with stopped := some (row, n), halted := true }) := by
  rw [after_eq, after_eq]
  simp only [stepEngineRow, hfind, stepEngineRow_open (cl := cl) hfired hstop hkeep hrow hnew hexp, hstops, Bool.false_eq_true, if_false]
  simp only [hstop, Option.isNone_none, Act.when, if_true]

end Row

/-! ### ENGINE_COMMAND_COMPLETE (R303, R317) -/

section Complete

variable {s : State} {cl : Nat} {m : Cmd}

theorem boundTo_eq_nil {t : State} (hctx : t.ctxs = s.ctxs) (hwgs : t.wgs = s.wgs) (hbinds : ∀ v, s.ctxs.get? (s.ctxOf m.lane) = some v → v.binds = []) :
    t.boundTo m = [] := by
  have hof : t.ctxOf m.lane = s.ctxOf m.lane := by simp only [State.ctxOf, hwgs]
  simp only [State.boundTo, hctx, hof]
  cases h : s.ctxs.get? (s.ctxOf m.lane) with
  | none => rfl
  | some v => simp [hbinds v h]

/-- The ditches of a cluster in which a command's output has got its entries, and its room back. -/
def Cluster.portsWith (c : Cluster) (m : Cmd) (es : List (List Word)) (ord : Bool) : Map Nat Ditch := match m.output c with
  | some (p, mx) => match c.ports.get? p with
    | some d => c.ports.set p { es.foldl Ditch.push d with
        rsv := (es.foldl Ditch.push d).rsv - BitVec.ofNat 32 mx, ord := (es.foldl Ditch.push d).ord || ord }
    | none => c.ports
  | none => c.ports

/-- Entries pushed into a command's output, its room returned, and the command gone. -/
theorem after_push_leave (t : State) (o : Option (Nat × Nat)) (es : List (List Word)) (ord : Bool) (ho : o = m.output (t.cluster cl)) :
    (t.after (Act.opt o fun x => updPort' cl x.1 fun d =>
      { es.foldl Ditch.push d with rsv := (es.foldl Ditch.push d).rsv - BitVec.ofNat 32 x.2, ord := (es.foldl Ditch.push d).ord || ord })).after
      (updCluster cl fun c => { c with cmds := c.cmds.filter fun x => x.id != m.id }) = { t with
        clusters := t.clusters.set cl { t.cluster cl with
          ports := (t.cluster cl).portsWith m es ord, cmds := (t.cluster cl).cmds.filter fun x => x.id != m.id } } := by
  subst ho
  cases hout : m.output (t.cluster cl) with
  | none =>
    rw [after_opt_none, after_updCluster]
    simp only [Cluster.portsWith, hout]
  | some x =>
    rw [after_opt_some, updPort', after_updCluster_updCluster]
    simp only [Cluster.portsWith, hout] <;> rfl

theorem after_opt_updPort'_frame (t : State) (o : Option (Nat × Nat)) (f : Nat × Nat → Ditch → Ditch) :
    t.after (Act.opt o fun x => updPort' cl x.1 (f x)) = { t with clusters := (t.after (Act.opt o fun x => updPort' cl x.1 (f x))).clusters } := by
  cases o with
  | none => rfl
  | some x => rfl

theorem after_stepComplete (hfind : (s.cluster cl).cmds.find? (fun x => x.id == m.id) = some m) (hfired : m.fired = true) (hstop : m.stopped = none)
    (hrows : m.rows.length = m.kind.total) (hdone : s.cmdDone cl m = true) (harrive : m.arrive = none)
    (hkind : ∀ a b n p y g r f w, m.kind ≠ .nz a b n p y g r f w) (hbinds : ∀ v, s.ctxs.get? (s.ctxOf m.lane) = some v → v.binds = [])
    (hfirst : ∀ x ∈ (s.cluster cl).cmds, x.fired = true → m.arr ≤ x.arr) :
    let c := s.cluster cl
    let out := m.entries (match m.output c with | some (p, _) => (match c.ports.get? p with | some d => d.ew | none => 1) | none => 1)
    s.after (stepComplete cl m.id) = { s with
      crews := (s.after (setFlags m.lane out.2.1)).crews,
      clusters := s.clusters.set cl { c with ports := c.portsWith m out.1 out.2.2, cmds := c.cmds.filter fun x => x.id != m.id } } := by
  intro c out
  have hbound : s.boundTo m = [] := boundTo_eq_nil rfl rfl hbinds
  have hputs : m.bufPuts = [] := by
    simp only [Cmd.bufPuts]
    split
    · next h => exact absurd h (hkind _ _ _ _ _ _ _ _ _)
    · rfl
  have hbefore (p : Cmd → Bool) : (c.cmds.any fun x => x.fired && decide (x.arr < m.arr) && p x) = false := by
    refine List.any_eq_false.2 fun x hx hand => ?_
    simp only [Bool.and_eq_true, decide_eq_true_eq] at hand
    obtain ⟨⟨hf, harr⟩, -⟩ := hand
    exact absurd (hfirst x hx hf) (Nat.not_le.2 harr)
  have hskip : (match m.kind with
      | .nz _ _ _ _ _ (some reg) (some res) _ _ => updLane m.lane fun l => l.resolve res (if reg < 256 then [(reg, BitVec.ofNat 32 m.produced.length)] else [])
      | _ => Act.skip) = Act.skip := by
    split
    · next h => exact absurd h (hkind _ _ _ _ _ _ _ _ _)
    · rfl
  have hopen (p : Cmd → Bool) (q : Nat → Bool) : (!m.fired || m.stopped.isSome || (c.cmds.any fun x => x.fired && decide (x.arr < m.arr) && p x) ||
      !(m.dropped || decide (m.rows.length = m.kind.total)) || !s.cmdDone cl m || (s.boundTo m).any q) = false := by
    simp [hfired, hstop, hbefore, hrows, hdone, hbound]
  have hmeans : stepComplete cl m.id s = Act.all [
      setFlags m.lane out.2.1,
      Act.opt (m.output c) fun x => updPort' cl x.1 fun d =>
        { out.1.foldl Ditch.push d with rsv := (out.1.foldl Ditch.push d).rsv - BitVec.ofNat 32 x.2, ord := (out.1.foldl Ditch.push d).ord || out.2.2 },
      engineRelease m,
      Act.opt none fun key => weirChange key m.lane m.pc Weir.arrive,
      Act.skip,
      updCluster cl fun c => { c with cmds := c.cmds.filter fun x => x.id != m.id }] s := by
    rw [← hskip]
    simp only [stepComplete, hfind, hputs, harrive, List.isEmpty_nil, Bool.not_true, Bool.and_false]
    rw [hopen] <;> rfl
  have hrelease (t : State) (hctxs : t.ctxs = s.ctxs) (hwgs : t.wgs = s.wgs) : t.after (engineRelease m) = t :=
    after_of_nil (by simp only [engineRelease, boundTo_eq_nil hctxs hwgs hbinds]; rfl)
  have hskip' (t : State) : t.after Act.skip = t := rfl
  rw [after_eq, hmeans, ← after_eq, after_all_cons, after_all_cons, after_all_cons, after_all_cons, after_all_cons, after_all_cons, after_all_nil,
    hskip', after_opt_none, hrelease _ ?_ ?_, after_push_leave (m := m) _ _ _ _ ?_, after_setFlags_frame]
  · rfl
  · rw [after_setFlags_frame]
    rfl
  · rw [after_opt_updPort'_frame, after_setFlags_frame]
  · rw [after_opt_updPort'_frame, after_setFlags_frame]

end Complete

end Sys2Proof.Machine

namespace Sys2Proof

open Machine

/-- Settles O55, step by step: a firing changes its cluster's ports and the command alone (`after_stepFire_frame`), a row is asked for,
delivered or stops its command (`after_stepEngineRow_asks`, `_goes`, `_stops`), and a completion pushes the entries (`after_stepComplete`). -/
theorem engineCommandsRun : Obligations.EngineCommandsRun := by
  unfold Obligations.EngineCommandsRun
  intro s cl m c hfind
  refine ⟨fun hfireable hturn => ?_, fun row hfired hstop hkeep hrow hnew hexp => ⟨fun r hcount hgoes hadd => ?_, fun slot ls hasks => ?_, fun cause addr hstops => ?_⟩, ?_⟩
  · obtain ⟨hframe, hother, hhere, hports⟩ := after_stepFire_frame hfind hfireable hturn
    refine ⟨s.after (stepFire cl m.id), ((m.taken c)[0]?).getD [], ((m.taken c)[1]?).getD [], rfl, hframe, hother, hhere, hports, ?_⟩
    intro p n rest d hinputs hd
    exact taken_first hinputs hd
  · exact run_of_after (after_stepEngineRow_goes hfind hfired hstop hkeep hrow hnew hexp hcount hgoes hadd)
  · exact run_of_after (after_stepEngineRow_asks hfind hfired hstop hkeep hrow hnew hexp hasks)
  · exact run_of_after (after_stepEngineRow_stops hfind hfired hstop hkeep hrow hnew hexp hstops)
  · intro hfired hstop hrows hdone harrive hkind hbinds hfirst
    exact run_of_after (after_stepComplete hfind hfired hstop hrows hdone harrive hkind hbinds hfirst)

end Sys2Proof
end

section
/-! PROOFS. Home slices (R261, R264 to R266, R270, R425): a request that misses, a fill, and a recall that completes. -/

namespace Sys2Proof.Machine

open Sys2Proof

/-! ### Slots of the controllers (R270) -/

/-- A list over the entries of a map in which one entry alone counts. -/
theorem Map.flatMap_set_of_nil {κ α β : Type} [DecidableEq κ] {m : Map κ α} {f : κ × α → List β} (h : ∀ e ∈ m, f e = []) (k : κ) (v : α) :
    (m.set k v).flatMap f = f (k, v) := by
  induction m with
  | nil => simp [Map.set]
  | cons e m ih =>
    have hrest : m.flatMap f = [] := List.flatMap_eq_nil_iff.2 fun x hx => h x (List.mem_cons_of_mem e hx)
    by_cases hkey : e.1 = k
    · simp [Map.set, hkey, hrest]
    · rw [Map.set, if_neg hkey, List.flatMap_cons, h e List.mem_cons_self, List.nil_append, ih fun x hx => h x (List.mem_cons_of_mem e hx)]

theorem controller_slots_pos (s : State) (line : Nat) : 0 < (s.controller line).2 := by
  simp only [State.controller]
  split
  · exact Nat.succ_pos _
  · split <;> exact Nat.succ_pos _

section Miss

variable {s : State} {r : Req} {n : Nat}

/-- No slice has a request at a controller. -/
def State.Undriven (s : State) : Prop := ∀ x ∈ s.slices, x.2.dram = []

theorem slice_dram_eq_nil (h : s.Undriven) (n : Nat) : (s.slice n).dram = [] := by
  simp only [State.slice, Map.getD]
  cases hget : s.slices.get? n with
  | none => rfl
  | some c => exact h _ (Map.mem_of_get? hget)

/-- The state in which slice `n` alone has a request at a controller, which is `d`. -/
def State.driving (s : State) (n : Nat) (d : Dram) : State := { s with slices := s.slices.set n { s.slice n with dram := [d] } }

theorem slices_driving_flatMap (h : s.Undriven) {β : Type} (d : Dram) (f : Nat → List Dram → List β) (hnil : ∀ k, f k [] = []) :
    (s.driving n d).slices.flatMap (fun c => f c.1 c.2.dram) = f n [d] :=
  Map.flatMap_set_of_nil (fun e he => by rw [h e he, hnil]) n _

/-- The only request of all to a controller takes one of its slots. -/
theorem after_serveDram_alone (h : s.Undriven) {d : Dram} (hslot : d.slot = false) (hcalm : s.repairing d.line = false) :
    (s.driving n d).after serveDram = s.driving n { d with slot := true } := by
  have hcount : ((s.driving n d).slices.flatMap fun c => c.2.dram.filter fun d => !d.slot) = [d] := by
    rw [slices_driving_flatMap h d (fun _ ds => ds.filter fun d => !d.slot) fun _ => rfl]
    simp [hslot]
  have hused : (s.driving n d).slotsUsed d.line = 0 := by
    rw [State.slotsUsed, slices_driving_flatMap h d (fun _ ds => ds.filter fun e =>
      e.slot && ((s.driving n d).controller e.line).1 == ((s.driving n d).controller d.line).1) fun _ => rfl]
    simp [hslot]
  have hfree : (!d.slot && !(s.driving n d).repairing d.line && decide ((s.driving n d).slotsUsed d.line < ((s.driving n d).controller d.line).2)) = true := by
    rw [hused, decide_eq_true (controller_slots_pos _ _), hslot, show (s.driving n d).repairing d.line = false from hcalm]
    rfl
  have hslotless : (s.driving n d).slotless = [(n, d)] := by
    rw [State.slotless, slices_driving_flatMap h d (fun k ds => (ds.filter fun e => !e.slot && !(s.driving n d).repairing e.line &&
      decide ((s.driving n d).slotsUsed e.line < ((s.driving n d).controller e.line).2)).map fun d => (k, d)) fun _ => rfl]
    simp only [List.filter_cons, hfree, if_true, List.filter_nil, List.map_cons, List.map_nil]
  rw [after_eq]
  simp only [serveDram, hcount, List.length_singleton, grantSlots, hslotless, choose_singleton]
  rw [← after_eq, after_seq, after_skip, after_updSlice]
  simp only [State.driving, State.slice, Map.getD_set_self, Map.set_set, List.map_cons, List.map_nil, if_true]

/-- The only request of a slice to a controller, a fill, has a slot at once. -/
theorem after_sendDram_alone (h : s.Undriven) {line : Nat} (hcalm : s.repairing line = false) :
    s.after (sendDram n line true) = s.driving n { line := line, fill := true, slot := true } := by
  have hdriving : s.driving n { line := line, fill := true, slot := false } = { s with slices := s.slices.set n { s.slice n with
      dram := (s.slice n).dram ++ [{ line := line, fill := true, slot := false }] } } := by
    rw [slice_dram_eq_nil h n]
    rfl
  have hsend : s.after (sendDram n line true) = (s.driving n { line := line, fill := true, slot := false }).after serveDram := by
    rw [hdriving, sendDram, after_all_cons, after_all_cons, after_all_nil]
    rfl
  rw [hsend, after_serveDram_alone (d := { line := line, fill := true, slot := false }) h rfl hcalm]

/-- A slice with a request that misses, which has a register and asks a controller for the line. -/
def Slice.missed (c : Slice) (r : Req) : Slice := { c.unwait r.id with miss := c.miss ++ [{ line := r.line, reqs := [r.id] }], l2miss := c.l2miss + 1 }

/-- A request behind no other, on a line that its slice neither holds nor awaits, takes a free register (R265). -/
theorem move_of_miss {t : State} (hstill : t.pieceMoves r.line = false) (hfirst : ∀ q ∈ t.reqs, ¬ q.order < r.order)
    (hsluice : t.behindSluice r = false) (hcalm : t.conflicts r = false) (hmiss : ∀ m ∈ (t.slice n).miss, m.line ≠ r.line)
    (hline : (t.slice n).lines.get? r.line = none) (hroom : t.registers (t.slice n) < 512) (hrepair : t.repairing r.line = false) :
    t.move n r = some (Act.all [updSlice n (·.missed r), setReq r.id .attached, sendDram n r.line true]) := by
  have hearlier (sts : List ReqSt) :
      (t.reqs.any fun q => q.home == r.home && q.line == r.line && decide (q.order < r.order) && sts.contains q.st) = false := by
    simp only [List.any_eq_false]
    intro q hq
    simp [hfirst q hq]
  have hnone : (t.slice n).miss.find? (fun m => m.line == r.line) = none := List.find?_eq_none.2 fun m hm => by simp [hmiss m hm]
  simp only [State.move, hstill, hearlier, hsluice, hcalm, hnone, hline, hroom, hrepair, Option.isSome_none, Bool.false_eq_true, Bool.or_self, if_false,
    if_true] <;> rfl

/-- A request is the only one on its way, and nothing is under way at its home slice `n` nor at any controller; the slice does not hold its line. -/
structure State.Misses (s : State) (r : Req) (n : Nat) : Prop where
  reqs : s.reqs = [r]
  home : r.home = .slice n
  memory : s.controlOff (r.line * 128) = none
  queue : (s.slice n).queue = []
  waiting : (s.slice n).waiting = []
  miss : (s.slice n).miss = []
  held : (s.slice n).held = []
  lacks : (s.slice n).lines.get? r.line = none
  still : s.pieceMoves r.line = false
  whole : s.repairing r.line = false
  copies : s.dev.hostCopies = []
  undriven : s.Undriven
  slreqs : ∀ x ∈ s.slreqs, x.held = none
  slrels : ∀ x ∈ s.slrels, x.held = none

theorem Map.mem_of_mem_set {κ α : Type} [DecidableEq κ] {m : Map κ α} {k : κ} {v : α} {e : κ × α} (h : e ∈ m.set k v) : e ∈ m ∨ e.2 = v := by
  induction m with
  | nil => exact .inr (by rw [List.mem_singleton.1 h])
  | cons d m ih =>
    by_cases hkey : d.1 = k
    · rw [Map.set, if_pos hkey] at h
      rcases List.mem_cons.1 h with rfl | h
      · exact .inr rfl
      · exact .inl (List.mem_cons_of_mem d h)
    · rw [Map.set, if_neg hkey] at h
      rcases List.mem_cons.1 h with rfl | h
      · exact .inl List.mem_cons_self
      · exact (ih h).imp_left (List.mem_cons_of_mem d)

theorem State.Undriven.set {t : State} (h : s.Undriven) {c : Slice} (hc : c.dram = []) (hslices : t.slices = s.slices.set n c) : t.Undriven := by
  intro e he
  rw [hslices] at he
  rcases Map.mem_of_mem_set he with he | he
  · exact h e he
  · rw [he, hc]

section Accept

variable (h : s.Misses r n)

include h

theorem State.Misses.move_eq : (s.accepting r n ((s.slice n).queued r.id)).move n (r.accepted s) = some (Act.all [
    updSlice n (·.missed (r.accepted s)), setReq r.id .attached, sendDram n r.line true]) := by
  have hsluice : (s.accepting r n ((s.slice n).queued r.id)).behindSluice (r.accepted s) = false := by
    simp only [State.behindSluice, State.accepting, Bool.or_eq_false_iff, List.any_eq_false]
    exact ⟨fun x hx => by simp [h.slreqs x hx], fun x hx => by simp [h.slrels x hx]⟩
  have hcalm : (s.accepting r n ((s.slice n).queued r.id)).conflicts (r.accepted s) = false := by
    simp [State.conflicts, State.accepting, h.copies]
  refine move_of_miss h.still ?_ hsluice hcalm ?_ ?_ ?_ h.whole
  · intro q hq
    rw [List.mem_singleton.1 hq]
    exact Nat.lt_irrefl _
  · rw [slice_accepting, Slice.queued, h.miss]
    exact fun m hm => absurd hm List.not_mem_nil
  · rw [slice_accepting]
    exact h.lacks
  · rw [slice_accepting, Slice.queued, State.registers, Slice.used, h.miss, h.held, slice_dram_eq_nil h.undriven]
    exact Nat.succ_pos _

/-- The state once the request has its register and its slot. -/
def State.missing (s : State) (r : Req) (n : Nat) : State := { s with
  slices := s.slices.set n { s.slice n with
    queue := [r.id], miss := [{ line := r.line, reqs := [r.id] }], l2req := (s.slice n).l2req + 1, l2miss := (s.slice n).l2miss + 1,
    l2qpeak := max (s.slice n).l2qpeak 1, dram := [{ line := r.line, fill := true, slot := true }] },
  reqs := [{ r with st := .attached, order := s.dev.order, acceptedAt := s.now }],
  dev := { s.dev with order := s.dev.order + 1 } }

/-- The state once it has its register. -/
def State.registering (s : State) (r : Req) (n : Nat) : State := { s with
  slices := s.slices.set n (((s.slice n).queued r.id).missed r),
  reqs := [{ r with st := .attached, order := s.dev.order, acceptedAt := s.now }],
  dev := { s.dev with order := s.dev.order + 1 } }

omit h in
theorem after_register : ((s.accepting r n ((s.slice n).queued r.id)).after (updSlice n (·.missed (r.accepted s)))).after (setReq r.id .attached) =
    s.registering r n := by
  rw [after_updSlice, slice_accepting, setReq, after_updReqs]
  simp only [State.accepting, Map.set_set, List.map_cons, List.map_nil, Req.accepted, if_true, State.registering]
  rfl

theorem State.Misses.driving_eq : (s.registering r n).driving n { line := r.line, fill := true, slot := true } = s.missing r n := by
  have hslice : (s.registering r n).slice n = ((s.slice n).queued r.id).missed r := Map.getD_set_self ..
  have hslices (c : Slice) : (s.registering r n).slices.set n c = s.slices.set n c := Map.set_set ..
  have hunwait : ((s.slice n).waiting ++ [r.id]).filter (· != r.id) = (s.slice n).waiting := by simp [h.waiting]
  rw [State.driving, hslice, hslices]
  simp only [Slice.missed, Slice.unwait, Slice.queued, hunwait, h.queue, h.miss]
  rfl

theorem State.Misses.after_serveWaiting : (s.accepting r n ((s.slice n).queued r.id)).after (serveWaiting n) = s.missing r n := by
  have hwaiting : ((s.slice n).queued r.id).waiting = [r.id] := by rw [Slice.queued, h.waiting, List.nil_append]
  have hfind : (s.accepting r n ((s.slice n).queued r.id)).reqs.find? (fun q => q.id == r.id) = some (r.accepted s) :=
    List.find?_cons_of_pos BEq.rfl
  rw [after_eq]
  simp only [serveWaiting, slice_accepting, hwaiting, List.length_singleton, serveSlice, List.findSome?_cons, hfind, Option.bind_some, h.move_eq]
  have hwhole : (s.registering r n).repairing r.line = false := h.whole
  rw [← after_eq, after_seq, after_skip, after_all_cons, after_all_cons, after_all_cons, after_all_nil, after_register,
    after_sendDram_alone (h.undriven.set (c := ((s.slice n).queued r.id).missed r) (slice_dram_eq_nil h.undriven n) rfl) hwhole, h.driving_eq]

/-- A request that misses takes an entry, a register and a slot as it is accepted. -/
theorem State.Misses.after_stepAccept (hst : r.st = .flying) (hafter : s.allPerformed r.after = true) (hbehind : s.behind r = false) :
    s.after (stepAccept r.id) = s.missing r n := by
  have hfind : s.reqs.find? (fun q => q.id == r.id) = some r := by
    rw [h.reqs]
    exact List.find?_cons_of_pos BEq.rfl
  have hflying : (ReqSt.flying == ReqSt.flying) = true := rfl
  have hroom : ¬ 32 ≤ (s.slice n).queue.length := by simp [h.queue]
  rw [← h.after_serveWaiting, after_eq]
  simp only [stepAccept, hfind, hst, hafter, hbehind, h.home, h.memory, hflying, Bool.true_or, Bool.not_true,
    Bool.or_self, Option.isSome_none, Bool.false_eq_true, if_false, hroom]
  rw [← after_eq]
  simp only [after_all_cons, after_all_nil, after_updSlice, after_updReqs, after_updDev, h.reqs, List.map_cons, List.map_nil, if_true]
  rfl

end Accept

end Miss

/-! ### Acceptance elsewhere, and where a slice is full (R261) -/

section Other

variable {s : State} {r : Req} (hfind : s.reqs.find? (fun q => q.id == r.id) = some r)

include hfind

theorem after_stepAccept_bank {b : Nat} (hst : r.st = .flying) (hafter : s.allPerformed r.after = true) (hbehind : s.behind r = false)
    (hhome : r.home = .bank b) : s.after (stepAccept r.id) = s.after (performReq r) := by
  have hflying : (ReqSt.flying == ReqSt.flying) = true := rfl
  rw [after_eq, after_eq]
  simp only [stepAccept, hfind, hst, hafter, hbehind, hhome, hflying, Bool.true_or, Bool.not_true, Bool.or_self, Bool.false_eq_true, if_false]

/-- A full queue takes nothing. -/
theorem after_stepAccept_full {n : Nat} (hhome : r.home = .slice n) (hmem : s.controlOff (r.line * 128) = none) (hfull : 32 ≤ (s.slice n).queue.length) :
    s.after (stepAccept r.id) = s := by
  refine after_of_nil ?_
  simp only [stepAccept, hfind, hhome, hmem, hfull, Option.isSome_none, Bool.false_eq_true, if_false, if_true, ite_self]

end Other

/-! ### L2_FILL_ARRIVAL (R264 to R266, R270) -/

section Fill

variable {s : State} {n line : Nat} {d : Dram} (hdram : (s.slice n).dram.find? (fun d => d.line == line) = some d) (hslot : d.slot = true)
  (hwhole : s.repairing line = false)

include hdram hslot hwhole

theorem after_stepFill_wback (hfill : d.fill = false) (v : Option Nat) : s.after (stepFill n line v) = s.after (dropDram n line false) := by
  rw [after_eq, after_eq]
  simp only [stepFill, hdram, hslot, hwhole, hfill, Bool.not_true, Bool.or_self, Bool.not_false, Bool.false_eq_true, if_false, if_true]

/-- The requests that a miss register holds. -/
def State.attached (s : State) (m : Miss) : List Req := m.reqs.filterMap fun id => s.reqs.find? fun r => r.id == id

/-- The mark of a line that is filled for them. -/
def fillMark (rs : List Req) : Mark := ((rs.flatMap (·.acc)).foldl (fun m a => markAfter m a.ch true) none).getD .n

theorem after_stepFill {m : Miss} (hfill : d.fill = true) (hmiss : (s.slice n).miss.find? (fun m => m.line == line) = some m) :
    let rs := s.attached m
    let keep := rs.any (·.cache)
    s.after (stepFill n line (if keep then (s.slice n).victim line else none)) = (((({ s with
      slices := s.slices.set n { s.slice n with miss := (s.slice n).miss.filter fun x => x.line != line } } : State).after
        (Act.when keep (placeLine n line (fillMark rs)))).after (Act.each rs (performAttached n))).after (dropDram n line true)).after (serveWaiting n) := by
  intro rs keep
  have hmeans : stepFill n line (if keep then (s.slice n).victim line else none) s = Act.all [
      updSlice n fun c => { c with miss := c.miss.filter fun x => x.line != line },
      Act.when keep (placeLine n line (fillMark rs)),
      Act.each rs (performAttached n),
      dropDram n line true,
      serveWaiting n] s := by
    simp only [stepFill, hdram, hslot, hwhole, hfill, hmiss, Bool.not_true, Bool.or_self, Bool.false_eq_true, if_false]
    refine if_neg ?_
    exact fun h => of_decide_eq_true h rfl
  rw [after_eq, hmeans, ← after_eq, after_all_cons, after_all_cons, after_all_cons, after_all_cons, after_all_cons, after_all_nil, after_updSlice]

end Fill

/-- A line that is placed where its set has room takes nobody's place. -/
theorem after_placeLine_room {s : State} {n line : Nat} (hroom : (s.slice n).victim line = none) (mark : Mark) :
    s.after (placeLine n line mark) = { s with slices := s.slices.set n { s.slice n with lines := (s.slice n).lines.del line ++ [(line, mark)] } } := by
  have hlines : (s.slice n).lines.filter (fun l => !(some l.1 == (none : Option Nat))) = (s.slice n).lines := List.filter_eq_self.2 fun _ _ => rfl
  have hdirty : (s.slice n).dirty.filter (fun x => !(some x == (none : Option Nat))) = (s.slice n).dirty := List.filter_eq_self.2 fun _ _ => rfl
  have hmeans : placeLine n line mark s = Act.all [
      updSlice n fun c => { c with lines := Map.del (c.lines.filter fun l => !(some l.1 == (none : Option Nat))) line ++ [(line, mark)],
                                   dirty := c.dirty.filter fun x => !(some x == (none : Option Nat)) },
      Act.opt none fun x => Act.when false (sendDram n x false)] s := by
    simp only [placeLine, hroom] <;> rfl
  rw [after_eq, hmeans, ← after_eq, after_all_cons, after_all_cons, after_all_nil, after_opt_none, after_updSlice,
    hlines, hdirty]

/-- An attached request with which no host's copy conflicts, behind none that waits, is performed. -/
theorem after_performAttached {s : State} {r : Req} (hcalm : s.conflicts r = false)
    (hfirst : ∀ q ∈ s.reqs, q.home = r.home → q.line = r.line → q.order < r.order → q.st ≠ .waiting) (n : Nat) :
    s.after (performAttached n r) = s.after (performReq r) := by
  have hnone : (s.reqs.any fun q => q.home == r.home && q.line == r.line && decide (q.order < r.order) && q.st == .waiting) = false := by
    refine List.any_eq_false.2 fun q hq hand => ?_
    simp only [Bool.and_eq_true, beq_iff_eq, decide_eq_true_eq] at hand
    obtain ⟨⟨⟨hhome, hline⟩, horder⟩, hst⟩ := hand
    exact hfirst q hq hhome hline horder hst
  rw [after_eq, after_eq]
  simp only [performAttached, hcalm, hnone, Bool.or_self, Bool.false_eq_true, if_false]

/-- BACK_INVALIDATION_COMPLETE (R425). -/
theorem after_stepBackInval {s : State} {line : Nat} (hcopy : line ∈ s.dev.hostCopies) : s.after (stepBackInval line) =
    ({ s with dev := { s.dev with hostCopies := s.dev.hostCopies.filter (· != line) } } : State).after
      (releaseSnooped (s.reqs.filter fun r => r.st == .snooped && r.line == line)) := by
  have hmeans : stepBackInval line s = Act.all [
      updDev fun d => { d with hostCopies := d.hostCopies.filter (· != line) },
      releaseSnooped (s.reqs.filter fun r => r.st == .snooped && r.line == line)] s := by
    simp only [stepBackInval, List.contains_iff_mem.2 hcopy, Bool.not_true, Bool.false_eq_true, if_false]
  rw [after_eq, hmeans, ← after_eq, after_all_cons, after_all_cons, after_all_nil, after_updDev]

end Sys2Proof.Machine

namespace Sys2Proof

open Machine

/-- Settles O44, clause by clause: acceptance (`after_stepAccept_bank`, `_full`, `State.Misses.after_stepAccept` for a miss, whose fill has a slot at
once), the arrival of a fill or a write-back (`after_stepFill`, `_wback`) and what it does, and a recall (`after_stepBackInval`). -/
theorem homeAgentsServe : Obligations.HomeAgentsServe := by
  unfold Obligations.HomeAgentsServe
  refine ⟨?bank, ?full, ?miss, ?wback, ?place, ?fill, ?attached, ?snoop⟩
  case bank =>
    intro s r b hfind hst hafter hbehind hhome
    exact run_of_after (after_stepAccept_bank hfind hst hafter hbehind hhome)
  case full =>
    intro s r n hfind hhome hmem hfull
    exact run_of_after (after_stepAccept_full hfind hhome hmem hfull)
  case miss =>
    intro s r n hreqs hst hafter hbehind hhome hmem hqueue hwaiting hmiss hheld hline hstill hwhole hcopies hdram hslreqs hslrels
    have h : s.Misses r n := ⟨hreqs, hhome, hmem, hqueue, hwaiting, hmiss, hheld, hline, hstill, hwhole, hcopies, hdram, hslreqs, hslrels⟩
    exact run_of_after (h.after_stepAccept hst hafter hbehind)
  case wback =>
    intro s n line d hdram hslot hfill hwhole v
    exact run_of_after (after_stepFill_wback hdram hslot hwhole hfill v)
  case place => exact fun s n line mark hroom => after_placeLine_room hroom mark
  case fill =>
    intro s n line d m hdram hslot hfill hmiss hwhole
    exact run_of_after (after_stepFill hdram hslot hwhole hfill hmiss)
  case attached => exact fun s n r hcalm hfirst => after_performAttached hcalm hfirst n
  case snoop => exact fun s line hcopy => run_of_after (after_stepBackInval hcopy)

end Sys2Proof
end

section
/-! PROOFS. Sluice operations at their home agents (R279, R281, R282, R284, R293, R294). -/

namespace Sys2Proof.Machine

open Sys2Proof

/-! ### The object (R279) -/

/-- The word of an object, from its fields and the reserved ones. -/
theorem Sluice.word_eq (v : Sluice) (old : Nat) : v.word old =
    v.relgen % 2 ^ 64 * 2 ^ 64 + bits old 63 48 * 2 ^ 48 + v.shr % 2 ^ 16 * 2 ^ 32 + bits old 31 2 * 4 + v.wq.toNat * 2 + v.x.toNat := by
  have hwq : (if v.wq then 2 else 0) = v.wq.toNat * 2 := by cases v.wq <;> rfl
  have hx : (if v.x then 1 else 0) = v.x.toNat := by cases v.x <;> rfl
  rw [Sluice.word, hwq, hx]

theorem Sluice.word_lt (v : Sluice) (old : Nat) : v.word old < 256 ^ 16 := by
  have hx := Bool.toNat_lt v.x
  have hwq := Bool.toNat_lt v.wq
  have h31 : bits old 31 2 < 2 ^ 30 := Nat.mod_lt _ (by decide)
  have h63 : bits old 63 48 < 2 ^ 16 := Nat.mod_lt _ (by decide)
  rw [Sluice.word_eq]
  omega

/-- The fields of an object read back from its word. -/
theorem Sluice.fields_word {v : Sluice} (hshr : v.shr < 2 ^ 16) (hrelgen : v.relgen < 2 ^ 64) (old : Nat) :
    ({ x := v.word old % 2 == 1, wq := bits (v.word old) 1 1 == 1, shr := bits (v.word old) 47 32, relgen := bits (v.word old) 127 64 } : Sluice) = v := by
  have hx := Bool.toNat_lt v.x
  have hwq := Bool.toNat_lt v.wq
  have h31 : bits old 31 2 < 2 ^ 30 := Nat.mod_lt _ (by decide)
  have h63 : bits old 63 48 < 2 ^ 16 := Nat.mod_lt _ (by decide)
  have hbit (b : Bool) : (b.toNat == 1) = b := by cases b <;> rfl
  have hword := v.word_eq old
  generalize v.word old = n at hword
  have h0 : n % 2 = v.x.toNat := by omega
  have h1 : bits n 1 1 = v.wq.toNat := by unfold bits; omega
  have h2 : bits n 47 32 = v.shr := by unfold bits; omega
  have h3 : bits n 127 64 = v.relgen := by unfold bits; omega
  rw [h0, h1, h2, h3, hbit, hbit]

theorem controlOff_withMem (s : State) (m : List Host.Cell) (key : Nat) : ({ s with mem := m } : State).controlOff key = s.controlOff key := rfl

/-- A number stored in memory reads back at its home. -/
theorem homeNum_after_storeBytes {s : State} {key : Nat} (hwf : Memory.wf s.mem) (hmoved : s.dev.moved = []) (hmem : s.controlOff key = none)
    (bs : List Byte) : (s.after (storeBytes key bs)).homeNum key bs.length = natLE bs := by
  have hoff : (s.after (storeBytes key bs)).controlOff key = none := by
    rw [after_storeBytes_frame, controlOff_withMem, hmem]
  simp only [State.homeNum, hoff, State.num]
  rw [(storedBytesReadBack s key bs hwf hmoved).1]

theorem after_putSluice {s : State} {key : Nat} (hmem : s.controlOff key = none) (v : Sluice) :
    s.after (putSluice key v) = s.after (storeBytes key (bytesLE 16 (v.word (s.num key 16)))) := by
  rw [after_eq, after_eq]
  simp only [putSluice, hmem]

/-- An object of memory reads back as it was written. -/
theorem sluice_after_putSluice {s : State} {key : Nat} {v : Sluice} (hwf : Memory.wf s.mem) (hmoved : s.dev.moved = []) (hmem : s.controlOff key = none)
    (hshr : v.shr < 2 ^ 16) (hrelgen : v.relgen < 2 ^ 64) : (s.after (putSluice key v)).sluice key = v := by
  have hnum := homeNum_after_storeBytes hwf hmoved hmem (bytesLE 16 (v.word (s.num key 16)))
  rw [bytesLE_length, natLE_bytesLE_of_lt (v.word_lt _)] at hnum
  rw [after_putSluice hmem, State.sluice, hnum]
  exact Sluice.fields_word hshr hrelgen _

/-- Writing an object of memory changes memory alone. -/
theorem after_putSluice_frame {s : State} {key : Nat} (hmem : s.controlOff key = none) (v : Sluice) :
    s.after (putSluice key v) = { s with mem := (s.after (putSluice key v)).mem } := by
  rw [after_putSluice hmem, after_storeBytes_frame]

/-! ### SLUICE_REQUEST_ARRIVE (R281) -/

section Arrive

theorem after_afterSluice_none (s : State) (home : Home) : s.after (afterSluice home none) = s := by
  cases home <;> rfl

variable {s : State} {r : SlReq}

/-- A request that no earlier operation, access, recall or migration keeps from its home agent. -/
structure State.Arrives (s : State) (r : SlReq) : Prop where
  find : s.slreqs.find? (fun x => x.id == r.id && !x.waiting) = some r
  lane : r.lane ≠ outsider
  held : r.held = none
  reach : s.keyReach r.key = true
  first : ∀ x ∈ s.slreqs, x.waiting = false → x.key = r.key → s.coreOf x.lane = s.coreOf r.lane → x.lane ≠ outsider → r.id ≤ x.id
  released : ∀ x ∈ s.slrels, x.lane = r.lane → r.id ≤ x.id
  apart : s.touching r.lane r.id r.key = false
  still : s.pieceMoves (lineOf r.key) = false
  calm : s.sluiceWaits r.home r.key none = false
  memory : s.controlOff r.key = none

variable (h : s.Arrives r)

include h

/-- It is examined. -/
theorem State.Arrives.after_stepSluiceArrive : s.after (stepSluiceArrive r.id) = s.after (examineSluice r) := by
  have hfirst : (s.slreqs.any fun x => !x.waiting && decide (x.id < r.id) && x.key == r.key && s.coreOf x.lane == s.coreOf r.lane &&
      (x.lane == outsider) == (r.lane == outsider)) = false := by
    refine List.any_eq_false.2 fun x hx hand => ?_
    simp only [Bool.and_eq_true, Bool.not_eq_true', decide_eq_true_eq, beq_iff_eq, beq_false_of_ne h.lane, beq_eq_false_iff_ne] at hand
    obtain ⟨⟨⟨⟨hwaiting, hid⟩, hkey⟩, hcore⟩, hlane⟩ := hand
    exact Nat.not_le.2 hid (h.first x hx hwaiting hkey hcore hlane)
  have hreleased : (s.slrels.any fun x => x.lane == r.lane && decide (x.id < r.id)) = false := by
    refine List.any_eq_false.2 fun x hx hand => ?_
    simp only [Bool.and_eq_true, decide_eq_true_eq, beq_iff_eq] at hand
    exact Nat.not_le.2 hand.2 (h.released x hx hand.1)
  have hmeans : stepSluiceArrive r.id s = Act.seq (examineSluice r) (afterSluice r.home none) s := by
    simp only [stepSluiceArrive, h.find, hfirst, hreleased, h.apart, h.still, h.reach, h.held, h.calm, Bool.or_self, Bool.not_true,
      Bool.false_eq_true, if_false]
  rw [after_eq, hmeans, ← after_eq, after_seq, after_afterSluice_none]

omit h in
/-- It joins the sluice's queue. -/
theorem after_examineSluice_queue (htry : r.try_ = none) :
    s.after (examineSluice r) = { s with slreqs := s.slreqs.filter (fun x => x.id != r.id) ++ [{ r with waiting := true }] } := by
  rw [after_eq]
  simp only [examineSluice, htry]
  rw [← after_eq, after_updSlReqs]

variable {res reg : Nat} {l : Lane} (htry : r.try_ = some (res, reg)) (hl : s.lanes.get? r.lane = some l)

/-- A lane that has the answer to its SLTRY. -/
def Lane.tried (l : Lane) (id res reg : Nat) (v : Word) : Lane := { l with
  parks := { l.parks with acq := l.parks.acq.filter fun a => a != .sluice id },
  results := l.results.map fun x => if x.id = res then { x with vals := some [(reg, v)] } else x }

/-- A lane that has the sluice. -/
def Lane.granted (l : Lane) (r : SlReq) : Lane := { l with
  holds := l.holds ++ [{ va := r.va, key := r.key, excl := r.excl, home := r.home }],
  parks := { l.parks with acq := l.parks.acq.filter fun a => a != .sluice r.id } }

/-- Can an SLTRY be granted, with no request ahead of it? -/
def State.sluiceFree (s : State) (r : SlReq) : Prop :=
  (s.sluice r.key).grants r.excl = true ∧ ∀ x ∈ s.slreqs, x.waiting = true → x.key ≠ r.key

omit h in
theorem sluiceFree_iff : s.sluiceFree r ↔ (!(s.slreqs.any fun x => x.waiting && x.key == r.key) && (s.sluice r.key).grants r.excl) = true := by
  simp only [State.sluiceFree, Bool.and_eq_true, Bool.not_eq_true', List.any_eq_false, beq_iff_eq, not_and]
  exact and_comm

include htry hl

omit h in
theorem after_examineSluice_refused (hbusy : ¬ s.sluiceFree r) : s.after (examineSluice r) = { s with
    slreqs := s.slreqs.filter fun x => x.id != r.id, lanes := s.lanes.set r.lane (l.tried r.id res reg 0) } := by
  rw [sluiceFree_iff] at hbusy
  rw [after_eq]
  simp only [examineSluice, htry, hbusy, Bool.false_eq_true, if_false]
  rw [← after_eq, after_all_cons, after_all_cons, after_all_nil, after_updSlReqs, after_updLane _ r.lane _ l ?_]
  · rfl
  · exact hl

omit hl in
theorem State.Arrives.after_grantSluice (hl : s.lanes.get? r.lane = some l) : s.after (grantSluice r) = { s with
    mem := (s.after (putSluice r.key ((s.sluice r.key).granted r.excl))).mem,
    slreqs := s.slreqs.filter fun x => x.id != r.id,
    lanes := s.lanes.set r.lane (Lane.tried { l with holds := l.holds ++ [{ va := r.va, key := r.key, excl := r.excl, home := r.home }] } r.id res reg 1),
    clusters := s.clusters.set (s.clusterOf r.lane) ((s.cluster (s.clusterOf r.lane)).dropClean fun x _ =>
      x.line == lineOf r.key || s.rangeHas (s.ctxOf r.lane) (s.gangOf r.lane) r.va x.line) } := by
  have hlane : (r.lane != outsider) = true := bne_iff_ne.2 h.lane
  have hheld (t : State) (hlanes : t.lanes = s.lanes.set r.lane (l.granted r)) : t.lanes.get? r.lane = some (l.granted r) := by
    rw [hlanes, Map.get?_set_self]
  rw [after_eq]
  simp only [grantSluice, htry]
  rw [← after_eq, after_all_cons, after_putSluice_frame h.memory]
  generalize (s.after (putSluice r.key ((s.sluice r.key).granted r.excl))).mem = mem
  rw [after_all_cons, after_updSlReqs, after_all_cons, after_updLane _ r.lane _ l ?_, after_all_cons, after_when, if_pos hlane, after_updCluster,
    after_all_cons, after_all_nil, after_opt_some, after_updLane _ r.lane _ (l.granted r) (hheld _ rfl)]
  · simp only [Map.set_set]
    rfl
  · exact hl

theorem State.Arrives.after_examineSluice_granted (hfree : s.sluiceFree r) : s.after (examineSluice r) = { s with
    mem := (s.after (putSluice r.key ((s.sluice r.key).granted r.excl))).mem,
    slreqs := s.slreqs.filter fun x => x.id != r.id,
    lanes := s.lanes.set r.lane (Lane.tried { l with holds := l.holds ++ [{ va := r.va, key := r.key, excl := r.excl, home := r.home }] } r.id res reg 1),
    clusters := s.clusters.set (s.clusterOf r.lane) ((s.cluster (s.clusterOf r.lane)).dropClean fun x _ =>
      x.line == lineOf r.key || s.rangeHas (s.ctxOf r.lane) (s.gangOf r.lane) r.va x.line) } := by
  rw [← h.after_grantSluice htry hl, after_eq, after_eq]
  simp only [examineSluice, htry, sluiceFree_iff.1 hfree, if_true]

end Arrive

/-! ### Releases (R282, R284, R294) -/

/-- A release as it is sent. -/
theorem after_sendRelease (s : State) (k : LaneId) (h : Hold) (publish : Bool) :
    let u := (if publish then s.after (sendWbacks (s.clusterOf k)) else s).after (freshSluice (s.clusterOf k) h.key)
    s.after (sendRelease k h publish) = { u with
      fresh := u.fresh + 1,
      slrels := u.slrels ++ [
        { id := u.fresh, lane := k, key := h.key, va := h.va, excl := h.excl, publish := publish, pc := s.pcOf k, home := h.home }] } := by
  intro u
  rw [after_eq]
  simp only [sendRelease]
  rw [← after_eq, after_all_cons, after_all_cons, after_all_cons, after_all_nil, after_when, after_fresh, after_updSlRels]

section Release

variable {s : State} {r : SlRel} (hfind : s.slrels.find? (fun x => x.id == r.id) = some r) (hlane : r.lane ≠ outsider)

/-- Does a release publish a line? -/
def State.publishes (s : State) (r : SlRel) (line : Nat) : Prop := r.publish = true ∧ s.rangeHas (s.ctxOf r.lane) (s.gangOf r.lane) r.va line = true

/-- A request that has to be performed before a release. -/
def State.beforeRelease (s : State) (r : SlRel) (q : Req) : Prop := q.done = false ∧ q.rank < r.id ∧
  (q.isWback (s.clusterOf r.lane) = true ∧ s.publishes r q.line ∨
    ∃ a ∈ q.acc, a.lane = r.lane ∧ a.op.own = true ∧ a.op ≠ .prefetch ∧ ∃ t ∈ a.touches, s.publishes r (lineOf t.1))

/-- An earlier release that has to be performed before it. -/
def State.earlierRelease (s : State) (r x : SlRel) : Prop := x.lane = r.lane ∧ x.id < r.id ∧ (x.key = r.key ∨ s.publishes r (lineOf x.key))

include hlane in
theorem relWaits_iff : s.relWaits r = true ↔
    (∃ q ∈ s.reqs, s.beforeRelease r q) ∨ (∃ x ∈ s.slrels, s.earlierRelease r x) ∨ s.touching r.lane r.id r.key = true := by
  have hcl : s.clOf r.lane = s.clusterOf r.lane := if_neg hlane
  simp only [State.relWaits, hcl, Bool.or_eq_true, List.any_eq_true, Bool.and_eq_true, Bool.not_eq_true', decide_eq_true_eq, beq_iff_eq,
    State.beforeRelease, State.earlierRelease, State.publishes, and_assoc]
  exact or_assoc.trans (or_congr_right or_comm)

include hfind

/-- It waits for what has to be performed before it. -/
theorem after_stepSluiceRelease_wait (hwait : s.relWaits r = true) : s.after (stepSluiceRelease r.id) = s := by
  refine after_of_nil ?_
  simp only [stepSluiceRelease, hfind, hwait, if_true]

include hlane

/-- With nothing before it, it releases the object. -/
theorem after_stepSluiceRelease_go (hgo : s.relWaits r = false) (hreach : s.keyReach r.key = true) (hstill : s.pieceMoves (lineOf r.key) = false)
    (hheld : r.held = none) (hcalm : s.sluiceWaits r.home r.key none = false) (hmem : s.controlOff r.key = none) :
    s.after (stepSluiceRelease r.id) = { s with
      mem := (s.after (putSluice r.key ((s.sluice r.key).released r.excl))).mem,
      clusters := s.clusters.set (s.clusterOf r.lane) ((s.cluster (s.clusterOf r.lane)).dropClean fun x _ => x.line == lineOf r.key),
      slrels := s.slrels.filter fun x => x.id != r.id } := by
  have hmeans : stepSluiceRelease r.id s = Act.all [
      putSluice r.key ((s.sluice r.key).released r.excl),
      Act.when (r.lane != outsider) (dropCleanLine (s.clusterOf r.lane) (lineOf r.key)),
      updSlRels fun rs => rs.filter fun x => x.id != r.id,
      afterSluice r.home none] s := by
    simp only [stepSluiceRelease, hfind, hgo, hreach, hstill, hheld, hcalm, Bool.not_true, Bool.false_eq_true, if_false]
  rw [after_eq, hmeans, ← after_eq, after_all_cons, after_putSluice_frame hmem]
  generalize (s.after (putSluice r.key ((s.sluice r.key).released r.excl))).mem = mem
  rw [after_all_cons, after_when, if_pos (bne_iff_ne.2 hlane), dropCleanLine, after_updCluster, after_all_cons, after_updSlRels, after_all_cons,
    after_all_nil, after_afterSluice_none]
  rfl

end Release

end Sys2Proof.Machine

namespace Sys2Proof

open Machine

/-- Settles O48: a request that arrives is examined (`State.Arrives.after_stepSluiceArrive`), and queued, granted or refused; a release is sent
(`after_sendRelease`), and waits for exactly what the statement names (`relWaits_iff`); the object reads back (`sluice_after_putSluice`). -/
theorem sluicesServe : Obligations.SluicesServe := by
  unfold Obligations.SluicesServe
  refine ⟨?arrive, fun s k h publish => after_sendRelease s k h publish, ?release, ?object⟩
  case arrive =>
    intro s r hfind hlane hheld hreach hfirst hreleased hapart hstill hcalm hmem
    have h : s.Arrives r := ⟨hfind, hlane, hheld, hreach, hfirst, hreleased, hapart, hstill, hcalm, hmem⟩
    refine ⟨fun htry => ?_, fun res reg l htry hl => ⟨fun hfree => ?_, fun hbusy => ?_⟩⟩
    · exact run_of_after (h.after_stepSluiceArrive.trans (after_examineSluice_queue htry))
    · exact run_of_after (h.after_stepSluiceArrive.trans (h.after_examineSluice_granted htry hl hfree))
    · exact run_of_after (h.after_stepSluiceArrive.trans (after_examineSluice_refused htry hl hbusy))
  case release =>
    intro s r hfind hlane
    refine ⟨fun hwait => ?_, fun hreqs hslrels hapart hreach hstill hheld hcalm hmem => ?_⟩
    · exact run_of_after (after_stepSluiceRelease_wait hfind ((relWaits_iff hlane).2 hwait))
    · have hgo : s.relWaits r = false := by
        refine Bool.eq_false_iff.2 fun hwait => ?_
        rcases (relWaits_iff hlane).1 hwait with ⟨q, hq, hbefore⟩ | ⟨x, hx, hearlier⟩ | htouching
        · exact hreqs q hq hbefore
        · exact hslrels x hx hearlier
        · exact Bool.false_ne_true (hapart.symm.trans htouching)
      exact run_of_after (after_stepSluiceRelease_go hfind hlane hgo hreach hstill hheld hcalm hmem)
  case object =>
    intro s key v hwf hmoved hmem hshr hrelgen
    exact sluice_after_putSluice hwf hmoved hmem hshr hrelgen

end Sys2Proof
end
